-- ==== Sys2Proof/Word.lean ====
section
/-! DEFINITION. The word types of the machine and their plainest arithmetic (10_state.md R20, 20_memory.md R120). -/

namespace Sys2Proof

/-- A byte of memory or of an instruction. -/
abbrev Byte := BitVec 8

/-- A 16-bit word. -/
abbrev Word16 := BitVec 16

/-- A 32-bit doubleword: a register, an offset, a linear address. -/
abbrev Word32 := BitVec 32

end Sys2Proof
end

