-- ==== Sys2Proof/Syntax.lean ====
section
/-! DEFINITION. The abstract syntax: one constructor of `Instr` for each row of spec/opcode_table.json
(30_encoding.md R360). Every constructor carries the prefix bytes that stand before it, in order, because they choose
the operand size, the address size and the segment (R335 to R340) and belong to the instruction (R341). -/

namespace Sys2Proof

/-- A prefix byte (30_encoding.md R344). -/
inductive Prefix where
  | lock | repne | rep | es | cs | ss | ds | fs | gs | opSize | addrSize
  deriving DecidableEq, Repr

/-- The prefix bytes before an instruction, in stream order. -/
abbrev Prefixes := List Prefix

/-- A general register by its encoding name (30_encoding.md R345, 10_state.md R20). -/
inductive Reg where
  | eax | ecx | edx | ebx | esp | ebp | esi | edi
  deriving DecidableEq, Repr

/-- A segment register (10_state.md R55). -/
inductive SegReg where
  | es | cs | ss | ds | fs | gs
  deriving DecidableEq, Repr

/-- The base and index combinations of 16-bit addressing (30_encoding.md R347). -/
inductive Base16 where
  | bxsi | bxdi | bpsi | bpdi | si | di | bp | bx
  deriving DecidableEq, Repr

/-- The displacement after a 16-bit ModR/M form: mod = 00, 01, 10 (R347). -/
inductive Disp16 where
  | none
  | d8 (d : BitVec 8)
  | d16 (d : BitVec 16)
  deriving DecidableEq, Repr

/-- The displacement after a 32-bit ModR/M or SIB form: mod = 00, 01, 10 (R346). -/
inductive Disp32 where
  | none
  | d8 (d : BitVec 8)
  | d32 (d : BitVec 32)
  deriving DecidableEq, Repr

/-- A memory operand (30_encoding.md R346, R347). -/
inductive MemOp where
  /-- 16-bit addressing, rm = 110 with mod = 00: `[disp16]`. -/
  | direct16 (d : BitVec 16)
  /-- 16-bit addressing through registers. -/
  | based16 (b : Base16) (d : Disp16)
  /-- 32-bit addressing, rm = 101 with mod = 00: `[disp32]`. -/
  | direct32 (d : BitVec 32)
  /-- 32-bit addressing through one register, no SIB byte. -/
  | based32 (b : Reg) (d : Disp32)
  /-- 32-bit addressing with a SIB byte; index ESP stands for "no index". -/
  | sib (scale : BitVec 2) (index : Reg) (base : Reg) (d : Disp32)
  /-- SIB with base = 101 and mod = 00: no base register, a disp32 follows. -/
  | sibNoBase (scale : BitVec 2) (index : Reg) (d : BitVec 32)
  deriving DecidableEq, Repr

/-- The r/m operand of a ModR/M byte: a register (mod = 11) or memory (R345). -/
inductive Rm where
  | reg (r : Reg)
  | mem (m : MemOp)
  deriving DecidableEq, Repr

/-- A relative branch displacement of operand-size width (30_encoding.md R351). -/
inductive Rel where
  | w16 (d : BitVec 16)
  | w32 (d : BitVec 32)
  deriving DecidableEq, Repr

/-- A direct far pointer, ptr16:16 or ptr16:32 (30_encoding.md R351). -/
inductive FarPtr where
  | p16 (off : BitVec 16) (sel : BitVec 16)
  | p32 (off : BitVec 32) (sel : BitVec 16)
  deriving DecidableEq, Repr

/-- What follows the prefixes when they stand before no instruction of this spec: the fifteen-byte limit is reached
without a whole instruction (30_encoding.md R338), or the opcode belongs to the application instruction set, which
this spec does not define (R360, D51). -/
inductive PrefixTail where
  | overlong (rest : List Byte)
  | application (op : List Byte)
  deriving DecidableEq, Repr

/-- One constructor per row of spec/opcode_table.json. -/
inductive Instr where
  -- 0F 00 group
  | sldt (p : Prefixes) (rm : Rm)
  | str (p : Prefixes) (rm : Rm)
  | lldt (p : Prefixes) (rm : Rm)
  | ltr (p : Prefixes) (rm : Rm)
  | verr (p : Prefixes) (rm : Rm)
  | verw (p : Prefixes) (rm : Rm)
  | undef0F00r6 (p : Prefixes) (rm : Rm)
  | undef0F00r7 (p : Prefixes) (rm : Rm)
  -- 0F 01 group
  | sgdt (p : Prefixes) (rm : Rm)
  | sidt (p : Prefixes) (rm : Rm)
  | lgdt (p : Prefixes) (rm : Rm)
  | lidt (p : Prefixes) (rm : Rm)
  | smsw (p : Prefixes) (rm : Rm)
  | undef0F01r5 (p : Prefixes) (rm : Rm)
  | lmsw (p : Prefixes) (rm : Rm)
  | invlpg (p : Prefixes) (rm : Rm)
  | lar (p : Prefixes) (r : Reg) (rm : Rm)
  | lsl (p : Prefixes) (r : Reg) (rm : Rm)
  | clts (p : Prefixes)
  | invd (p : Prefixes)
  | wbinvd (p : Prefixes)
  -- moves to and from special registers (the mod field is ignored, R360)
  | movFromCr (p : Prefixes) (r : Reg) (cr : BitVec 3)
  | movFromDr (p : Prefixes) (r : Reg) (dr : BitVec 3)
  | movToCr (p : Prefixes) (cr : BitVec 3) (r : Reg)
  | movToDr (p : Prefixes) (dr : BitVec 3) (r : Reg)
  | movFromTr (p : Prefixes) (r : Reg) (tr : BitVec 3)
  | movToTr (p : Prefixes) (tr : BitVec 3) (r : Reg)
  | wrmsr (p : Prefixes)
  | rdtsc (p : Prefixes)
  | rdmsr (p : Prefixes)
  | rdpmc (p : Prefixes)
  | rsm (p : Prefixes)
  | hlt (p : Prefixes)
  | arpl (p : Prefixes) (rm : Rm) (r : Reg)
  -- segment registers
  | movToSeg (p : Prefixes) (sreg : BitVec 3) (rm : Rm)
  | movFromSeg (p : Prefixes) (rm : Rm) (sreg : BitVec 3)
  | popEs (p : Prefixes)
  | popSs (p : Prefixes)
  | popDs (p : Prefixes)
  | popFs (p : Prefixes)
  | popGs (p : Prefixes)
  | pushEs (p : Prefixes)
  | pushCs (p : Prefixes)
  | pushSs (p : Prefixes)
  | pushDs (p : Prefixes)
  | pushFs (p : Prefixes)
  | pushGs (p : Prefixes)
  | les (p : Prefixes) (r : Reg) (rm : Rm)
  | lds (p : Prefixes) (r : Reg) (rm : Rm)
  | lss (p : Prefixes) (r : Reg) (rm : Rm)
  | lfs (p : Prefixes) (r : Reg) (rm : Rm)
  | lgs (p : Prefixes) (r : Reg) (rm : Rm)
  -- control transfers
  | jmpRel8 (p : Prefixes) (d : BitVec 8)
  | jmpRel (p : Prefixes) (d : Rel)
  | jmpRm (p : Prefixes) (rm : Rm)
  | jmpFar (p : Prefixes) (t : FarPtr)
  | jmpFarMem (p : Prefixes) (rm : Rm)
  | callRel (p : Prefixes) (d : Rel)
  | callRm (p : Prefixes) (rm : Rm)
  | callFar (p : Prefixes) (t : FarPtr)
  | callFarMem (p : Prefixes) (rm : Rm)
  | ret (p : Prefixes)
  | retImm (p : Prefixes) (n : BitVec 16)
  | retFar (p : Prefixes)
  | retFarImm (p : Prefixes) (n : BitVec 16)
  -- input and output
  | inAlImm (p : Prefixes) (port : BitVec 8)
  | inAxImm (p : Prefixes) (port : BitVec 8)
  | inAlDx (p : Prefixes)
  | inAxDx (p : Prefixes)
  | outImmAl (p : Prefixes) (port : BitVec 8)
  | outImmAx (p : Prefixes) (port : BitVec 8)
  | outDxAl (p : Prefixes)
  | outDxAx (p : Prefixes)
  | insb (p : Prefixes)
  | insv (p : Prefixes)
  | outsb (p : Prefixes)
  | outsv (p : Prefixes)
  -- flags
  | cli (p : Prefixes)
  | sti (p : Prefixes)
  | pushf (p : Prefixes)
  | popf (p : Prefixes)
  -- interrupts
  | int3 (p : Prefixes)
  | intImm (p : Prefixes) (vector : BitVec 8)
  | into (p : Prefixes)
  | bound (p : Prefixes) (r : Reg) (rm : Rm)
  | iret (p : Prefixes)
  -- floating-point unit at system level
  | wait (p : Prefixes)
  | esc (p : Prefixes) (op : BitVec 3) (reg : BitVec 3) (rm : Rm)
  | fninit (p : Prefixes)
  | fnclex (p : Prefixes)
  | fnstswAx (p : Prefixes)
  | fnstswMem (p : Prefixes) (m : MemOp)
  | fnstcw (p : Prefixes) (m : MemOp)
  | fnstenv (p : Prefixes) (m : MemOp)
  | fnsave (p : Prefixes) (m : MemOp)
  -- prefixes that stand before no instruction of this spec: the row is that of the first prefix byte
  | prefixLock (p : Prefixes) (tail : PrefixTail)
  | prefixRepne (p : Prefixes) (tail : PrefixTail)
  | prefixRep (p : Prefixes) (tail : PrefixTail)
  | prefixEs (p : Prefixes) (tail : PrefixTail)
  | prefixCs (p : Prefixes) (tail : PrefixTail)
  | prefixSs (p : Prefixes) (tail : PrefixTail)
  | prefixDs (p : Prefixes) (tail : PrefixTail)
  | prefixFs (p : Prefixes) (tail : PrefixTail)
  | prefixGs (p : Prefixes) (tail : PrefixTail)
  | prefixOpSize (p : Prefixes) (tail : PrefixTail)
  | prefixAddrSize (p : Prefixes) (tail : PrefixTail)
  -- reserved opcodes (30_encoding.md R356)
  | reserved82 (p : Prefixes)
  | reservedD6 (p : Prefixes)
  | reservedF1 (p : Prefixes)
  | reserved0F07 (p : Prefixes)
  | reserved0F10 (p : Prefixes)
  | reserved0F11 (p : Prefixes)
  | reserved0F12 (p : Prefixes)
  | reserved0F13 (p : Prefixes)
  | reservedF6r1 (p : Prefixes) (rm : Rm)
  | reservedF7r1 (p : Prefixes) (rm : Rm)
  | reservedC0r6 (p : Prefixes) (rm : Rm)
  | reservedC1r6 (p : Prefixes) (rm : Rm)
  | reservedD0r6 (p : Prefixes) (rm : Rm)
  | reservedD1r6 (p : Prefixes) (rm : Rm)
  | reservedD2r6 (p : Prefixes) (rm : Rm)
  | reservedD3r6 (p : Prefixes) (rm : Rm)
  deriving DecidableEq, Repr

end Sys2Proof
end

