-- ==== Sys2Proof/Machine/Encoding.lean ====
section
/-! DEFINITION. What the bytes of an instruction and of memory mean before any state is looked at: byte order
(20_memory.md R120), prefixes and sizes (30_encoding.md R335 to R339), and how many bytes each operand takes. -/

namespace Sys2Proof

/-- The little-endian bytes of a value, `n` of them, lowest first (20_memory.md R120). -/
def bytesOf : Nat → Nat → List Byte
  | 0, _ => []
  | n + 1, v => BitVec.ofNat 8 v :: bytesOf n (v / 256)

/-- The value of a list of bytes, the lowest first (20_memory.md R120). -/
def ofBytes : List Byte → Nat
  | [] => 0
  | b :: bs => b.toNat + 256 * ofBytes bs

/-- Does a prefix of the kind stand before the instruction? Repeating a prefix has the effect of one (R335). -/
def Prefixes.has (p : Prefixes) (x : Prefix) : Bool := p.any (fun y => decide (y = x))

/-- The segment register a prefix names, if it is a segment override (R337). -/
def Prefix.seg? : Prefix → Option SegReg
  | .es => some .es
  | .cs => some .cs
  | .ss => some .ss
  | .ds => some .ds
  | .fs => some .fs
  | .gs => some .gs
  | .lock => none
  | .repne => none
  | .rep => none
  | .opSize => none
  | .addrSize => none

/-- The segment override in force: the last one wins (R337). -/
def segOverrideFrom : Prefixes → Option SegReg → Option SegReg
  | [], acc => acc
  | x :: xs, acc => segOverrideFrom xs (match x.seg? with | some g => some g | none => acc)

/-- The segment override in force, if any. -/
def Prefixes.segOverride (p : Prefixes) : Option SegReg := segOverrideFrom p none

/-- Is the operand size 32 bits, given the D bit of CS (30_encoding.md R335)? -/
def opSize32 (db : Bool) (p : Prefixes) : Bool := db != p.has .opSize

/-- Is the address size 32 bits, given the D bit of CS (30_encoding.md R335)? -/
def addrSize32 (db : Bool) (p : Prefixes) : Bool := db != p.has .addrSize

/-- Does a repeat prefix (F3H or F2H) stand before the instruction (R339)? -/
def Prefixes.hasRep (p : Prefixes) : Bool := p.has .rep || p.has .repne

/-- The bytes a displacement takes. -/
def Disp16.size : Disp16 → Nat
  | .none => 0
  | .d8 _ => 1
  | .d16 _ => 2

/-- The bytes a displacement takes. -/
def Disp32.size : Disp32 → Nat
  | .none => 0
  | .d8 _ => 1
  | .d32 _ => 4

/-- The bytes a memory operand takes after its opcode: ModR/M, SIB, displacement. -/
def MemOp.size : MemOp → Nat
  | .direct16 _ => 3
  | .based16 _ d => 1 + d.size
  | .direct32 _ => 5
  | .based32 _ d => 1 + d.size
  | .sib _ _ _ d => 2 + d.size
  | .sibNoBase _ _ _ => 6

/-- The bytes an r/m operand takes after its opcode. -/
def Rm.size : Rm → Nat
  | .reg _ => 1
  | .mem m => m.size

/-- The bytes a relative displacement takes. -/
def Rel.size : Rel → Nat
  | .w16 _ => 2
  | .w32 _ => 4

/-- The bytes a far pointer takes. -/
def FarPtr.size : FarPtr → Nat
  | .p16 _ _ => 4
  | .p32 _ _ => 6

/-- The byte of a prefix (30_encoding.md R344). -/
def Prefix.byte : Prefix → Byte
  | .lock => 0xF0
  | .repne => 0xF2
  | .rep => 0xF3
  | .es => 0x26
  | .cs => 0x2E
  | .ss => 0x36
  | .ds => 0x3E
  | .fs => 0x64
  | .gs => 0x65
  | .opSize => 0x66
  | .addrSize => 0x67

end Sys2Proof
end

