-- ==== Sys2Proof/Decode.lean ====
section
/-! DEFINITION. The decoder, total on any bytes (30_encoding.md R330 to R360), and after it the encoder. `db` is the D bit
of CS, the only state decoding depends on (R332). -/

namespace Sys2Proof

/-- The general register with an encoding number (30_encoding.md R345). -/
def Reg.ofCode (c : BitVec 3) : Reg :=
  match c.toNat with
  | 0 => .eax
  | 1 => .ecx
  | 2 => .edx
  | 3 => .ebx
  | 4 => .esp
  | 5 => .ebp
  | 6 => .esi
  | _ => .edi

/-- The encoding number of a general register (30_encoding.md R345). -/
def Reg.code : Reg → BitVec 3
  | .eax => 0
  | .ecx => 1
  | .edx => 2
  | .ebx => 3
  | .esp => 4
  | .ebp => 5
  | .esi => 6
  | .edi => 7

/-- The 16-bit base and index combination of an rm value (30_encoding.md R347). -/
def Base16.ofCode (c : BitVec 3) : Base16 :=
  match c.toNat with
  | 0 => .bxsi
  | 1 => .bxdi
  | 2 => .bpsi
  | 3 => .bpdi
  | 4 => .si
  | 5 => .di
  | 6 => .bp
  | _ => .bx

/-- The rm value of a 16-bit base and index combination (30_encoding.md R347). -/
def Base16.code : Base16 → BitVec 3
  | .bxsi => 0
  | .bxdi => 1
  | .bpsi => 2
  | .bpdi => 3
  | .si => 4
  | .di => 5
  | .bp => 6
  | .bx => 7

/-- The prefix a byte is, if it is one (30_encoding.md R344). -/
def Prefix.ofByte? (b : Byte) : Option Prefix :=
  match b.toNat with
  | 0xF0 => some .lock
  | 0xF2 => some .repne
  | 0xF3 => some .rep
  | 0x26 => some .es
  | 0x2E => some .cs
  | 0x36 => some .ss
  | 0x3E => some .ds
  | 0x64 => some .fs
  | 0x65 => some .gs
  | 0x66 => some .opSize
  | 0x67 => some .addrSize
  | _ => none

/-- The prefixes at the front of a byte string, and what follows them (30_encoding.md R344). -/
def takePrefixes : List Byte → Prefixes × List Byte
  | [] => ([], [])
  | b :: bs =>
    match Prefix.ofByte? b with
    | some x => (x :: (takePrefixes bs).1, (takePrefixes bs).2)
    | none => ([], b :: bs)

/-- What a byte string begins with. -/
inductive Decoded where
  /-- A whole instruction, and the bytes after it. -/
  | instr (i : Instr) (rest : List Byte)
  /-- The bytes are a proper beginning of an instruction: one more is needed. -/
  | more
  /-- The opcode belongs to no row of the table: the application instruction set (R360, D51). -/
  | application (op : List Byte)
  deriving DecidableEq, Repr

/-- What follows an opcode (30_encoding.md R360). -/
inductive Row where
  | none
  | plain (i : Instr)
  | imm8 (f : BitVec 8 → Instr)
  | imm16 (f : BitVec 16 → Instr)
  | rel (f : Rel → Instr)
  | far (f : FarPtr → Instr)
  /-- A ModR/M byte whose `reg` field selects the row or is an operand; `none`: that `reg` value has no row. -/
  | modrm (f : BitVec 3 → Option (Rm → Instr))
  /-- A ModR/M byte whose `mod` field is ignored: `reg` and a general register. -/
  | special (f : BitVec 3 → Reg → Instr)

/-- A 16-bit displacement from the front of a byte string. -/
def read16 : List Byte → Option (BitVec 16 × List Byte)
  | b0 :: b1 :: bs => some (BitVec.ofNat 16 (ofBytes [b0, b1]), bs)
  | [] => none
  | [_] => none

/-- A 32-bit displacement from the front of a byte string. -/
def read32 : List Byte → Option (BitVec 32 × List Byte)
  | b0 :: b1 :: b2 :: b3 :: bs => some (BitVec.ofNat 32 (ofBytes [b0, b1, b2, b3]), bs)
  | [] => none
  | [_] => none
  | [_, _] => none
  | [_, _, _] => none

/-- The displacement of a 16-bit form by mod (30_encoding.md R347). -/
def readDisp16 (md : BitVec 2) (bs : List Byte) : Option (Disp16 × List Byte) :=
  if md = 0 then some (.none, bs)
  else if md = 1 then
    match bs with
    | [] => none
    | b :: bs' => some (.d8 b, bs')
  else (read16 bs).map (fun x => (.d16 x.1, x.2))

/-- The displacement of a 32-bit form by mod (30_encoding.md R346). -/
def readDisp32 (md : BitVec 2) (bs : List Byte) : Option (Disp32 × List Byte) :=
  if md = 0 then some (.none, bs)
  else if md = 1 then
    match bs with
    | [] => none
    | b :: bs' => some (.d8 b, bs')
  else (read32 bs).map (fun x => (.d32 x.1, x.2))

/-- The memory operand of a ModR/M byte with 16-bit addressing (30_encoding.md R347); mod is not 11. -/
def readMem16 (md : BitVec 2) (rm : BitVec 3) (bs : List Byte) : Option (MemOp × List Byte) :=
  if md = 0 ∧ rm = 6 then (read16 bs).map (fun x => (.direct16 x.1, x.2))
  else (readDisp16 md bs).map (fun x => (.based16 (Base16.ofCode rm) x.1, x.2))

/-- The memory operand of a SIB byte (30_encoding.md R346). -/
def readSib (md : BitVec 2) (bs : List Byte) : Option (MemOp × List Byte) :=
  match bs with
  | [] => none
  | s :: bs' =>
    let scale := s.extractLsb' 6 2
    let index := Reg.ofCode (s.extractLsb' 3 3)
    let base := s.extractLsb' 0 3
    if md = 0 ∧ base = 5 then (read32 bs').map (fun x => (.sibNoBase scale index x.1, x.2))
    else (readDisp32 md bs').map (fun x => (.sib scale index (Reg.ofCode base) x.1, x.2))

/-- The memory operand of a ModR/M byte with 32-bit addressing (30_encoding.md R346); mod is not 11. -/
def readMem32 (md : BitVec 2) (rm : BitVec 3) (bs : List Byte) : Option (MemOp × List Byte) :=
  if rm = 4 then readSib md bs
  else if md = 0 ∧ rm = 5 then (read32 bs).map (fun x => (.direct32 x.1, x.2))
  else (readDisp32 md bs).map (fun x => (.based32 (Reg.ofCode rm) x.1, x.2))

/-- The r/m operand of the ModR/M byte `m` (30_encoding.md R345); `none`: more bytes are needed. -/
def readRm (a32 : Bool) (m : Byte) (bs : List Byte) : Option (Rm × List Byte) :=
  let md := m.extractLsb' 6 2
  let rm := m.extractLsb' 0 3
  if md = 3 then some (.reg (Reg.ofCode rm), bs)
  else ((if a32 then readMem32 md rm bs else readMem16 md rm bs)).map (fun x => (.mem x.1, x.2))

/-- The rows of 0F 00 (30_encoding.md R360). -/
def group0F00 (p : Prefixes) (reg : BitVec 3) : Option (Rm → Instr) :=
  match reg.toNat with
  | 0 => some (.sldt p)
  | 1 => some (.str p)
  | 2 => some (.lldt p)
  | 3 => some (.ltr p)
  | 4 => some (.verr p)
  | 5 => some (.verw p)
  | 6 => some (.undef0F00r6 p)
  | _ => some (.undef0F00r7 p)

/-- The rows of 0F 01 (30_encoding.md R360). -/
def group0F01 (p : Prefixes) (reg : BitVec 3) : Option (Rm → Instr) :=
  match reg.toNat with
  | 0 => some (.sgdt p)
  | 1 => some (.sidt p)
  | 2 => some (.lgdt p)
  | 3 => some (.lidt p)
  | 4 => some (.smsw p)
  | 5 => some (.undef0F01r5 p)
  | 6 => some (.lmsw p)
  | _ => some (.invlpg p)

/-- The rows of FF (30_encoding.md R360); /0, /1, /6 and /7 have none. -/
def groupFF (p : Prefixes) (reg : BitVec 3) : Option (Rm → Instr) :=
  match reg.toNat with
  | 2 => some (.callRm p)
  | 3 => some (.callFarMem p)
  | 4 => some (.jmpRm p)
  | 5 => some (.jmpFarMem p)
  | _ => none

/-- The row of a floating-point encoding: the row whose mask has the most bits wins (30_encoding.md R360). -/
def escRow (p : Prefixes) (op reg : BitVec 3) (rm : Rm) : Instr :=
  match rm with
  | .reg r =>
    if op = 3 ∧ reg = 4 ∧ r = .ebx then .fninit p
    else if op = 3 ∧ reg = 4 ∧ r = .edx then .fnclex p
    else if op = 7 ∧ reg = 4 ∧ r = .eax then .fnstswAx p
    else .esc p op reg (.reg r)
  | .mem m =>
    if op = 5 ∧ reg = 7 then .fnstswMem p m
    else if op = 1 ∧ reg = 7 then .fnstcw p m
    else if op = 1 ∧ reg = 6 then .fnstenv p m
    else if op = 5 ∧ reg = 6 then .fnsave p m
    else .esc p op reg (.mem m)

/-- The row of a one-byte opcode (30_encoding.md R356, R360). -/
def oneByteRow (p : Prefixes) (b : Byte) : Row :=
  match b.toNat with
  | 0x06 => .plain (.pushEs p)
  | 0x07 => .plain (.popEs p)
  | 0x0E => .plain (.pushCs p)
  | 0x16 => .plain (.pushSs p)
  | 0x17 => .plain (.popSs p)
  | 0x1E => .plain (.pushDs p)
  | 0x1F => .plain (.popDs p)
  | 0x62 => .modrm (fun reg => some (fun rm => .bound p (Reg.ofCode reg) rm))
  | 0x63 => .modrm (fun reg => some (fun rm => .arpl p rm (Reg.ofCode reg)))
  | 0x6C => .plain (.insb p)
  | 0x6D => .plain (.insv p)
  | 0x6E => .plain (.outsb p)
  | 0x6F => .plain (.outsv p)
  | 0x82 => .plain (.reserved82 p)
  | 0x8C => .modrm (fun reg => some (fun rm => .movFromSeg p rm reg))
  | 0x8E => .modrm (fun reg => some (fun rm => .movToSeg p reg rm))
  | 0x9A => .far (.callFar p)
  | 0x9B => .plain (.wait p)
  | 0x9C => .plain (.pushf p)
  | 0x9D => .plain (.popf p)
  | 0xC0 => .modrm (fun reg => if reg = 6 then some (fun rm => .reservedC0r6 p rm) else none)
  | 0xC1 => .modrm (fun reg => if reg = 6 then some (fun rm => .reservedC1r6 p rm) else none)
  | 0xC2 => .imm16 (.retImm p)
  | 0xC3 => .plain (.ret p)
  | 0xC4 => .modrm (fun reg => some (fun rm => .les p (Reg.ofCode reg) rm))
  | 0xC5 => .modrm (fun reg => some (fun rm => .lds p (Reg.ofCode reg) rm))
  | 0xCA => .imm16 (.retFarImm p)
  | 0xCB => .plain (.retFar p)
  | 0xCC => .plain (.int3 p)
  | 0xCD => .imm8 (.intImm p)
  | 0xCE => .plain (.into p)
  | 0xCF => .plain (.iret p)
  | 0xD0 => .modrm (fun reg => if reg = 6 then some (fun rm => .reservedD0r6 p rm) else none)
  | 0xD1 => .modrm (fun reg => if reg = 6 then some (fun rm => .reservedD1r6 p rm) else none)
  | 0xD2 => .modrm (fun reg => if reg = 6 then some (fun rm => .reservedD2r6 p rm) else none)
  | 0xD3 => .modrm (fun reg => if reg = 6 then some (fun rm => .reservedD3r6 p rm) else none)
  | 0xD6 => .plain (.reservedD6 p)
  | 0xD8 => .modrm (fun reg => some (fun rm => escRow p 0 reg rm))
  | 0xD9 => .modrm (fun reg => some (fun rm => escRow p 1 reg rm))
  | 0xDA => .modrm (fun reg => some (fun rm => escRow p 2 reg rm))
  | 0xDB => .modrm (fun reg => some (fun rm => escRow p 3 reg rm))
  | 0xDC => .modrm (fun reg => some (fun rm => escRow p 4 reg rm))
  | 0xDD => .modrm (fun reg => some (fun rm => escRow p 5 reg rm))
  | 0xDE => .modrm (fun reg => some (fun rm => escRow p 6 reg rm))
  | 0xDF => .modrm (fun reg => some (fun rm => escRow p 7 reg rm))
  | 0xE4 => .imm8 (.inAlImm p)
  | 0xE5 => .imm8 (.inAxImm p)
  | 0xE6 => .imm8 (.outImmAl p)
  | 0xE7 => .imm8 (.outImmAx p)
  | 0xE8 => .rel (.callRel p)
  | 0xE9 => .rel (.jmpRel p)
  | 0xEA => .far (.jmpFar p)
  | 0xEB => .imm8 (.jmpRel8 p)
  | 0xEC => .plain (.inAlDx p)
  | 0xED => .plain (.inAxDx p)
  | 0xEE => .plain (.outDxAl p)
  | 0xEF => .plain (.outDxAx p)
  | 0xF1 => .plain (.reservedF1 p)
  | 0xF4 => .plain (.hlt p)
  | 0xF6 => .modrm (fun reg => if reg = 1 then some (fun rm => .reservedF6r1 p rm) else none)
  | 0xF7 => .modrm (fun reg => if reg = 1 then some (fun rm => .reservedF7r1 p rm) else none)
  | 0xFA => .plain (.cli p)
  | 0xFB => .plain (.sti p)
  | 0xFF => .modrm (groupFF p)
  | _ => .none

/-- The row of the second byte after 0F (30_encoding.md R356, R360). -/
def twoByteRow (p : Prefixes) (b : Byte) : Row :=
  match b.toNat with
  | 0x00 => .modrm (group0F00 p)
  | 0x01 => .modrm (group0F01 p)
  | 0x02 => .modrm (fun reg => some (fun rm => .lar p (Reg.ofCode reg) rm))
  | 0x03 => .modrm (fun reg => some (fun rm => .lsl p (Reg.ofCode reg) rm))
  | 0x06 => .plain (.clts p)
  | 0x07 => .plain (.reserved0F07 p)
  | 0x08 => .plain (.invd p)
  | 0x09 => .plain (.wbinvd p)
  | 0x10 => .plain (.reserved0F10 p)
  | 0x11 => .plain (.reserved0F11 p)
  | 0x12 => .plain (.reserved0F12 p)
  | 0x13 => .plain (.reserved0F13 p)
  | 0x20 => .special (fun reg r => .movFromCr p r reg)
  | 0x21 => .special (fun reg r => .movFromDr p r reg)
  | 0x22 => .special (fun reg r => .movToCr p reg r)
  | 0x23 => .special (fun reg r => .movToDr p reg r)
  | 0x24 => .special (fun reg r => .movFromTr p r reg)
  | 0x26 => .special (fun reg r => .movToTr p reg r)
  | 0x30 => .plain (.wrmsr p)
  | 0x31 => .plain (.rdtsc p)
  | 0x32 => .plain (.rdmsr p)
  | 0x33 => .plain (.rdpmc p)
  | 0xA0 => .plain (.pushFs p)
  | 0xA1 => .plain (.popFs p)
  | 0xA8 => .plain (.pushGs p)
  | 0xA9 => .plain (.popGs p)
  | 0xAA => .plain (.rsm p)
  | 0xB2 => .modrm (fun reg => some (fun rm => .lss p (Reg.ofCode reg) rm))
  | 0xB4 => .modrm (fun reg => some (fun rm => .lfs p (Reg.ofCode reg) rm))
  | 0xB5 => .modrm (fun reg => some (fun rm => .lgs p (Reg.ofCode reg) rm))
  | _ => .none

/-- Read what follows an opcode `op` whose row is known. -/
def runRow (db : Bool) (p : Prefixes) (op : List Byte) (row : Row) (bs : List Byte) : Decoded :=
  match row with
  | .none => .application op
  | .plain i => .instr i bs
  | .imm8 f =>
    match bs with
    | [] => .more
    | b :: bs' => .instr (f b) bs'
  | .imm16 f =>
    match read16 bs with
    | none => .more
    | some (x, bs') => .instr (f x) bs'
  | .rel f =>
    if opSize32 db p then
      match read32 bs with
      | none => .more
      | some (x, bs') => .instr (f (.w32 x)) bs'
    else
      match read16 bs with
      | none => .more
      | some (x, bs') => .instr (f (.w16 x)) bs'
  | .far f =>
    if opSize32 db p then
      match read32 bs with
      | none => .more
      | some (x, bs') =>
        match read16 bs' with
        | none => .more
        | some (sel, bs'') => .instr (f (.p32 x sel)) bs''
    else
      match read16 bs with
      | none => .more
      | some (x, bs') =>
        match read16 bs' with
        | none => .more
        | some (sel, bs'') => .instr (f (.p16 x sel)) bs''
  | .modrm f =>
    match bs with
    | [] => .more
    | m :: bs' =>
      match f (m.extractLsb' 3 3) with
      | none => .application (op ++ [m])
      | some g =>
        match readRm (addrSize32 db p) m bs' with
        | none => .more
        | some (rm, bs'') => .instr (g rm) bs''
  | .special f =>
    match bs with
    | [] => .more
    | m :: bs' => .instr (f (m.extractLsb' 3 3) (Reg.ofCode (m.extractLsb' 0 3))) bs'

/-- Read the opcode and what follows it, after the prefixes `p` (30_encoding.md R344). -/
def decodeBody (db : Bool) (p : Prefixes) (bs : List Byte) : Decoded :=
  match bs with
  | [] => .more
  | b :: bs' =>
    if b = 0x0F then
      match bs' with
      | [] => .more
      | c :: bs'' => runRow db p [b, c] (twoByteRow p c) bs''
    else runRow db p [b] (oneByteRow p b) bs'

/-- The row of a prefix that stands before no instruction of this spec. -/
def prefixInstr (x : Prefix) (p : Prefixes) (t : PrefixTail) : Instr :=
  match x with
  | .lock => .prefixLock p t
  | .repne => .prefixRepne p t
  | .rep => .prefixRep p t
  | .es => .prefixEs p t
  | .cs => .prefixCs p t
  | .ss => .prefixSs p t
  | .ds => .prefixDs p t
  | .fs => .prefixFs p t
  | .gs => .prefixGs p t
  | .opSize => .prefixOpSize p t
  | .addrSize => .prefixAddrSize p t

/-- What a byte string of at most 15 bytes begins with. When 15 bytes hold no whole instruction, the length limit is
exceeded (30_encoding.md R338). -/
def decode15 (db : Bool) (bs : List Byte) : Decoded :=
  let p := (takePrefixes bs).1
  match decodeBody db p (takePrefixes bs).2 with
  | .instr i rest => .instr i rest
  | .application op =>
    match p with
    | [] => .application op
    | x :: p' => .instr (prefixInstr x p' (.application op)) []
  | .more =>
    if bs.length < 15 then .more
    else
      match p with
      | [] => .more
      | x :: p' => .instr (prefixInstr x p' (.overlong (takePrefixes bs).2)) []

/-- What the bytes after the prefixes of a string that is too long begin: one reading for each `reg` value the ModR/M byte
could have where it lies beyond the fifteenth byte, with zeros for the other bytes that lie there (30_encoding.md R338,
60_exceptions.md R790). -/
def beginnings (db : Bool) (p : Prefixes) (body : List Byte) : List Decoded :=
  (List.range 8).map (fun k => decodeBody db p (body ++ BitVec.ofNat 8 (8 * k) :: List.replicate 12 0))

/-- The decoder: what a byte string begins with (30_encoding.md R330 to R360). Bytes after the fifteenth are not looked
at (R338). -/
def decode (db : Bool) (bs : List Byte) : Decoded := decode15 db (bs.take 15)

/-- A ModR/M or SIB byte from its fields (30_encoding.md R345, R346). -/
def modrmByte (md : BitVec 2) (reg rm : BitVec 3) : Byte := md ++ reg ++ rm

/-- ModR/M, SIB and displacement of a memory operand, with `reg` in the ModR/M byte (30_encoding.md R346, R347). -/
def encodeMem (reg : BitVec 3) : MemOp → List Byte
  | .direct16 d => modrmByte 0 reg 6 :: bytesOf 2 d.toNat
  | .based16 b .none => [modrmByte 0 reg b.code]
  | .based16 b (.d8 d) => [modrmByte 1 reg b.code, d]
  | .based16 b (.d16 d) => modrmByte 2 reg b.code :: bytesOf 2 d.toNat
  | .direct32 d => modrmByte 0 reg 5 :: bytesOf 4 d.toNat
  | .based32 b .none => [modrmByte 0 reg b.code]
  | .based32 b (.d8 d) => [modrmByte 1 reg b.code, d]
  | .based32 b (.d32 d) => modrmByte 2 reg b.code :: bytesOf 4 d.toNat
  | .sib s i b .none => [modrmByte 0 reg 4, modrmByte s i.code b.code]
  | .sib s i b (.d8 d) => [modrmByte 1 reg 4, modrmByte s i.code b.code, d]
  | .sib s i b (.d32 d) => modrmByte 2 reg 4 :: modrmByte s i.code b.code :: bytesOf 4 d.toNat
  | .sibNoBase s i d => modrmByte 0 reg 4 :: modrmByte s i.code 5 :: bytesOf 4 d.toNat

/-- ModR/M, SIB and displacement of an r/m operand (30_encoding.md R345). -/
def encodeRm (reg : BitVec 3) : Rm → List Byte
  | .reg r => [modrmByte 3 reg r.code]
  | .mem m => encodeMem reg m

/-- A relative displacement, little endian (30_encoding.md R351). -/
def encodeRel : Rel → List Byte
  | .w16 d => bytesOf 2 d.toNat
  | .w32 d => bytesOf 4 d.toNat

/-- A far pointer: offset first, then selector (30_encoding.md R351). -/
def encodeFar : FarPtr → List Byte
  | .p16 off sel => bytesOf 2 off.toNat ++ bytesOf 2 sel.toNat
  | .p32 off sel => bytesOf 4 off.toNat ++ bytesOf 2 sel.toNat

/-- The bytes of the prefixes. -/
def pb (p : Prefixes) : List Byte := p.map Prefix.byte

/-- The bytes after the prefixes of a string that is no instruction of this spec. -/
def PrefixTail.bytes : PrefixTail → List Byte
  | .overlong rest => rest
  | .application op => op

/-- The bytes of an instruction (30_encoding.md R360), written from the same table. -/
def encode : Instr → List Byte
  | .sldt p rm => pb p ++ [0x0F, 0x00] ++ encodeRm 0 rm
  | .str p rm => pb p ++ [0x0F, 0x00] ++ encodeRm 1 rm
  | .lldt p rm => pb p ++ [0x0F, 0x00] ++ encodeRm 2 rm
  | .ltr p rm => pb p ++ [0x0F, 0x00] ++ encodeRm 3 rm
  | .verr p rm => pb p ++ [0x0F, 0x00] ++ encodeRm 4 rm
  | .verw p rm => pb p ++ [0x0F, 0x00] ++ encodeRm 5 rm
  | .undef0F00r6 p rm => pb p ++ [0x0F, 0x00] ++ encodeRm 6 rm
  | .undef0F00r7 p rm => pb p ++ [0x0F, 0x00] ++ encodeRm 7 rm
  | .sgdt p rm => pb p ++ [0x0F, 0x01] ++ encodeRm 0 rm
  | .sidt p rm => pb p ++ [0x0F, 0x01] ++ encodeRm 1 rm
  | .lgdt p rm => pb p ++ [0x0F, 0x01] ++ encodeRm 2 rm
  | .lidt p rm => pb p ++ [0x0F, 0x01] ++ encodeRm 3 rm
  | .smsw p rm => pb p ++ [0x0F, 0x01] ++ encodeRm 4 rm
  | .undef0F01r5 p rm => pb p ++ [0x0F, 0x01] ++ encodeRm 5 rm
  | .lmsw p rm => pb p ++ [0x0F, 0x01] ++ encodeRm 6 rm
  | .invlpg p rm => pb p ++ [0x0F, 0x01] ++ encodeRm 7 rm
  | .lar p r rm => pb p ++ [0x0F, 0x02] ++ encodeRm r.code rm
  | .lsl p r rm => pb p ++ [0x0F, 0x03] ++ encodeRm r.code rm
  | .clts p => pb p ++ [0x0F, 0x06]
  | .invd p => pb p ++ [0x0F, 0x08]
  | .wbinvd p => pb p ++ [0x0F, 0x09]
  | .wrmsr p => pb p ++ [0x0F, 0x30]
  | .rdtsc p => pb p ++ [0x0F, 0x31]
  | .rdmsr p => pb p ++ [0x0F, 0x32]
  | .rdpmc p => pb p ++ [0x0F, 0x33]
  | .rsm p => pb p ++ [0x0F, 0xAA]
  | .pushFs p => pb p ++ [0x0F, 0xA0]
  | .popFs p => pb p ++ [0x0F, 0xA1]
  | .pushGs p => pb p ++ [0x0F, 0xA8]
  | .popGs p => pb p ++ [0x0F, 0xA9]
  | .reserved0F07 p => pb p ++ [0x0F, 0x07]
  | .reserved0F10 p => pb p ++ [0x0F, 0x10]
  | .reserved0F11 p => pb p ++ [0x0F, 0x11]
  | .reserved0F12 p => pb p ++ [0x0F, 0x12]
  | .reserved0F13 p => pb p ++ [0x0F, 0x13]
  | .movFromCr p r x => pb p ++ [0x0F, 0x20, modrmByte 3 x r.code]
  | .movFromDr p r x => pb p ++ [0x0F, 0x21, modrmByte 3 x r.code]
  | .movFromTr p r x => pb p ++ [0x0F, 0x24, modrmByte 3 x r.code]
  | .movToCr p x r => pb p ++ [0x0F, 0x22, modrmByte 3 x r.code]
  | .movToDr p x r => pb p ++ [0x0F, 0x23, modrmByte 3 x r.code]
  | .movToTr p x r => pb p ++ [0x0F, 0x26, modrmByte 3 x r.code]
  | .hlt p => pb p ++ [0xF4]
  | .popEs p => pb p ++ [0x07]
  | .popSs p => pb p ++ [0x17]
  | .popDs p => pb p ++ [0x1F]
  | .pushEs p => pb p ++ [0x06]
  | .pushCs p => pb p ++ [0x0E]
  | .pushSs p => pb p ++ [0x16]
  | .pushDs p => pb p ++ [0x1E]
  | .ret p => pb p ++ [0xC3]
  | .retFar p => pb p ++ [0xCB]
  | .inAlDx p => pb p ++ [0xEC]
  | .inAxDx p => pb p ++ [0xED]
  | .outDxAl p => pb p ++ [0xEE]
  | .outDxAx p => pb p ++ [0xEF]
  | .insb p => pb p ++ [0x6C]
  | .insv p => pb p ++ [0x6D]
  | .outsb p => pb p ++ [0x6E]
  | .outsv p => pb p ++ [0x6F]
  | .cli p => pb p ++ [0xFA]
  | .sti p => pb p ++ [0xFB]
  | .pushf p => pb p ++ [0x9C]
  | .popf p => pb p ++ [0x9D]
  | .int3 p => pb p ++ [0xCC]
  | .into p => pb p ++ [0xCE]
  | .iret p => pb p ++ [0xCF]
  | .wait p => pb p ++ [0x9B]
  | .reserved82 p => pb p ++ [0x82]
  | .reservedD6 p => pb p ++ [0xD6]
  | .reservedF1 p => pb p ++ [0xF1]
  | .arpl p rm r => pb p ++ [0x63] ++ encodeRm r.code rm
  | .movToSeg p x rm => pb p ++ [0x8E] ++ encodeRm x rm
  | .movFromSeg p rm x => pb p ++ [0x8C] ++ encodeRm x rm
  | .les p r rm => pb p ++ [0xC4] ++ encodeRm r.code rm
  | .lds p r rm => pb p ++ [0xC5] ++ encodeRm r.code rm
  | .bound p r rm => pb p ++ [0x62] ++ encodeRm r.code rm
  | .lss p r rm => pb p ++ [0x0F, 0xB2] ++ encodeRm r.code rm
  | .lfs p r rm => pb p ++ [0x0F, 0xB4] ++ encodeRm r.code rm
  | .lgs p r rm => pb p ++ [0x0F, 0xB5] ++ encodeRm r.code rm
  | .inAlImm p x => pb p ++ [0xE4, x]
  | .inAxImm p x => pb p ++ [0xE5, x]
  | .outImmAl p x => pb p ++ [0xE6, x]
  | .outImmAx p x => pb p ++ [0xE7, x]
  | .intImm p x => pb p ++ [0xCD, x]
  | .jmpRel8 p x => pb p ++ [0xEB, x]
  | .retImm p x => pb p ++ [0xC2] ++ bytesOf 2 x.toNat
  | .retFarImm p x => pb p ++ [0xCA] ++ bytesOf 2 x.toNat
  | .jmpRel p d => pb p ++ [0xE9] ++ encodeRel d
  | .callRel p d => pb p ++ [0xE8] ++ encodeRel d
  | .jmpFar p t => pb p ++ [0xEA] ++ encodeFar t
  | .callFar p t => pb p ++ [0x9A] ++ encodeFar t
  | .callRm p rm => pb p ++ [0xFF] ++ encodeRm 2 rm
  | .callFarMem p rm => pb p ++ [0xFF] ++ encodeRm 3 rm
  | .jmpRm p rm => pb p ++ [0xFF] ++ encodeRm 4 rm
  | .jmpFarMem p rm => pb p ++ [0xFF] ++ encodeRm 5 rm
  | .reservedF6r1 p rm => pb p ++ [0xF6] ++ encodeRm 1 rm
  | .reservedF7r1 p rm => pb p ++ [0xF7] ++ encodeRm 1 rm
  | .reservedC0r6 p rm => pb p ++ [0xC0] ++ encodeRm 6 rm
  | .reservedC1r6 p rm => pb p ++ [0xC1] ++ encodeRm 6 rm
  | .reservedD0r6 p rm => pb p ++ [0xD0] ++ encodeRm 6 rm
  | .reservedD1r6 p rm => pb p ++ [0xD1] ++ encodeRm 6 rm
  | .reservedD2r6 p rm => pb p ++ [0xD2] ++ encodeRm 6 rm
  | .reservedD3r6 p rm => pb p ++ [0xD3] ++ encodeRm 6 rm
  | .esc p op reg rm => pb p ++ [(0x1B#5 ++ op : BitVec 8)] ++ encodeRm reg rm
  | .fninit p => pb p ++ [0xDB, 0xE3]
  | .fnclex p => pb p ++ [0xDB, 0xE2]
  | .fnstswAx p => pb p ++ [0xDF, 0xE0]
  | .fnstswMem p m => pb p ++ [0xDD] ++ encodeMem 7 m
  | .fnstcw p m => pb p ++ [0xD9] ++ encodeMem 7 m
  | .fnstenv p m => pb p ++ [0xD9] ++ encodeMem 6 m
  | .fnsave p m => pb p ++ [0xDD] ++ encodeMem 6 m
  | .prefixLock p t => Prefix.byte .lock :: pb p ++ t.bytes
  | .prefixRepne p t => Prefix.byte .repne :: pb p ++ t.bytes
  | .prefixRep p t => Prefix.byte .rep :: pb p ++ t.bytes
  | .prefixEs p t => Prefix.byte .es :: pb p ++ t.bytes
  | .prefixCs p t => Prefix.byte .cs :: pb p ++ t.bytes
  | .prefixSs p t => Prefix.byte .ss :: pb p ++ t.bytes
  | .prefixDs p t => Prefix.byte .ds :: pb p ++ t.bytes
  | .prefixFs p t => Prefix.byte .fs :: pb p ++ t.bytes
  | .prefixGs p t => Prefix.byte .gs :: pb p ++ t.bytes
  | .prefixOpSize p t => Prefix.byte .opSize :: pb p ++ t.bytes
  | .prefixAddrSize p t => Prefix.byte .addrSize :: pb p ++ t.bytes

/-- The instruction the decoder reads from an opcode-table row's bits: `nbits` bits of `w`, the first byte in bits 7 to
0, with 16-bit defaults (the D bit of CS after reset) and zeros after them. -/
def decodeTableWord (nbits w : Nat) : Option Instr :=
  match decode false (bytesOf 15 (w % 2 ^ nbits)) with
  | .instr i _ => some i
  | .more => none
  | .application _ => none

end Sys2Proof
end

