-- ==== Sys2Proof/Config.lean ====
section
/-! DEFINITION. What an implementation fixes: the parameters of 00_scope.md R4 as plain data, and the free values
(opaque constants with no body) for what the spec leaves open. -/

namespace Sys2Proof

/-- The general registers by name (10_state.md R20); `Params.resetGpr` gives one value to each. -/
structure GprFile where
  eax : Word32
  ecx : Word32
  edx : Word32
  ebx : Word32
  esp : Word32
  ebp : Word32
  esi : Word32
  edi : Word32
  deriving DecidableEq, Repr

/-- The floating-point unit's registers (10_state.md R104, 47_fpu_system.md R733). The numeric registers are the physical
registers 0 to 7; ST(i) is physical register (TOP + i) modulo 8. The split of the two exception pointers into a selector
and an offset, and the 11-bit opcode, are PRESUMED (the family's), log entry 4. -/
structure FpuState where
  r0 : BitVec 80
  r1 : BitVec 80
  r2 : BitVec 80
  r3 : BitVec 80
  r4 : BitVec 80
  r5 : BitVec 80
  r6 : BitVec 80
  r7 : BitVec 80
  control : Word16
  status : Word16
  tag : Word16
  opcode : BitVec 11
  instrSel : Word16
  instrOff : Word32
  dataSel : Word16
  dataOff : Word32
  deriving DecidableEq, Repr

/-- The family member (00_scope.md R4). -/
inductive Family where
  | i386 | i486 | pentium | p6
  deriving DecidableEq, Repr

/-- What a vector beyond the IDT limit does in protected mode (00_scope.md R4 IDT_OVERRUN, D9). -/
inductive IdtOverrun where
  | gp | shutdown
  deriving DecidableEq, Repr

/-- Which translations the TLB may use (22_paging.md R300, D46). -/
inductive TlbPolicy where
  | none | ideal | arbitrary
  deriving DecidableEq, Repr

/-- What becomes of a write to EFLAGS or CR3 whose value has reserved bits other than they read: the spec says both (log entry
22). -/
inductive ReservedWrites where
  /-- It completes and the reserved bits keep what they read (10_state.md R40, R85; 44_io.md R604; 40_system_registers.md
  R382). -/
  | keep
  /-- The machine gives it no meaning (00_scope.md R8; 93_implementation_defined.md U1). -/
  | refuse
  deriving DecidableEq, Repr

/-- What stands behind a physical address (20_memory.md R122, R123, R144; 93_implementation_defined.md U12). -/
inductive PhysKind where
  /-- Memory that can be read and written. -/
  | ram
  /-- Read-only memory; a write is `stuck` (U12, its default). -/
  | rom
  /-- Read-only memory; a write is dropped (R123). -/
  | romIgnore
  /-- A device in the physical memory space (R144): every access is a transaction with the platform. -/
  | device
  /-- Nothing, but the platform ends the bus cycle: a read returns all ones, a write is dropped (U12). -/
  | openBus
  /-- Nothing: an access is `stuck` (R123). -/
  | nothing
  deriving DecidableEq, Repr

/-- One row of PHYS_MAP: `size` physical addresses from `base` up, and what stands behind them (20_memory.md R122). -/
structure PhysRegion where
  base : Nat
  size : Nat
  kind : PhysKind
  deriving DecidableEq, Repr

/-- Does the region hold the physical address? -/
def PhysRegion.holds (r : PhysRegion) (a : Nat) : Bool := decide (r.base ≤ a) && decide (a < r.base + r.size)

/-- A model-specific register: its number and its value (10_state.md R110). -/
structure Msr where
  number : Word32
  value : BitVec 64
  deriving DecidableEq, Repr

/-- The implementation parameters of 00_scope.md R4: fixed for a run, no step changes them. -/
structure Params where
  family : Family
  hasFpu : Bool
  hasAC : Bool
  hasCR4 : Bool
  hasVME : Bool
  hasID : Bool
  hasTSC : Bool
  hasDE : Bool
  hasPSE : Bool
  hasPAE : Bool
  hasPSE36 : Bool
  hasPGE : Bool
  hasMCE : Bool
  hasPMC : Bool
  hasMSR : Bool
  hasFXSR : Bool
  hasXMM : Bool
  hasTestRegs : Bool
  /-- System-management mode. It is never entered (D55, log entry 32): no step looks at this. -/
  hasSMM : Bool
  bist : Bool
  idtOverrun : IdtOverrun
  tlbPolicy : TlbPolicy
  taskCr3IfPg : Bool
  stiShadow : Bool
  /-- U16: do the "should be 0" bits of small-page entries take part in the reserved-bit check? -/
  checkSmallPageBits : Bool
  /-- The model's own parameter: which of the spec's two treatments a write of reserved bits of EFLAGS or CR3 gets (R8, U1; log
  entry 22). -/
  reservedWrites : ReservedWrites
  resetGpr : GprFile
  resetCr0 : Word32
  resetFpu : FpuState
  /-- PHYS_MAP (20_memory.md R122): the first region that holds an address says what stands behind it; an address in no
  region is memory that can be read and written. -/
  physMap : List PhysRegion
  /-- The model-specific registers there are, with their values after reset (10_state.md R110). -/
  msrFile : List Msr
  /-- The number under which the model-specific registers show the time-stamp counter, if any (40_system_registers.md
  R412). -/
  tscMsr : Option Word32
  deriving DecidableEq, Repr

/-- Eight zeros: the default of RESET_GPR (D20), DESIGN CHOICE, log entry 1. -/
def GprFile.zero : GprFile := ⟨0, 0, 0, 0, 0, 0, 0, 0⟩

/-- The default of RESET_FPU (D71), DESIGN CHOICE, log entry 3: what FNINIT leaves (47_fpu_system.md R733) over
numeric registers that hold 0. -/
def FpuState.initial : FpuState :=
  ⟨0, 0, 0, 0, 0, 0, 0, 0, 0x037F, 0, 0xFFFF, 0, 0, 0, 0, 0⟩

/-- The i486 baseline: column 3 of 00_scope.md R4. -/
def Params.baseline : Params where
  family := .i486
  hasFpu := true
  hasAC := true
  hasCR4 := false
  hasVME := false
  hasID := false
  hasTSC := false
  hasDE := false
  hasPSE := false
  hasPAE := false
  hasPSE36 := false
  hasPGE := false
  hasMCE := false
  hasPMC := false
  hasMSR := false
  hasFXSR := false
  hasXMM := false
  hasTestRegs := true
  hasSMM := false
  bist := true
  idtOverrun := .gp
  tlbPolicy := .arbitrary
  taskCr3IfPg := false
  stiShadow := true
  checkSmallPageBits := false
  reservedWrites := .keep
  resetGpr := GprFile.zero
  resetCr0 := 0x60000010#32
  resetFpu := FpuState.initial
  physMap := []
  msrFile := []
  tscMsr := none

namespace Config

/-- A free 32-bit value, for a result the spec leaves undefined (93_implementation_defined.md, treatment 'any value').
The argument is the model's counter `free`, so that each use is a fresh value. Nothing can be proved of it. Log entry 10. -/
opaque freeWord : Nat → Word32

/-- What the platform answers to a port read of `n` bytes at a port (20_memory.md R141, R142): free. Log entry 9. -/
opaque portValue : Nat → Word16 → Nat → Word32

/-- What a device in the physical memory space answers to a read of the byte at a physical address (20_memory.md R144):
free; the first argument is the model's counter `free`. Log entry 9. -/
opaque deviceByte : Nat → Nat → Byte

/-- The choice TLB_POLICY = arbitrary makes at one lookup (22_paging.md R300): 0 walks the tables, k + 1 uses the k-th
matching entry. Free. Log entry 12. -/
opaque tlbChoice : Nat → Nat

/-- By how much more than one the time-stamp counter advances at one instruction (70_reset_and_hazards.md R940): free.
Log entry 5. -/
opaque tscTicks : Nat → Nat

end Config

end Sys2Proof
end

