-- ==== Sys2Proof/Machine/State.lean ====
section
/-! DEFINITION. The machine's state as plain data (10_state.md), the reasons a step can stop, and the state after reset
(70_reset_and_hazards.md R905). -/

namespace Sys2Proof.Machine

open Sys2Proof

/-- The attributes a descriptor cache holds (10_state.md R56). -/
structure Attr where
  type : BitVec 4
  /-- S: code or data segment. -/
  s : Bool
  dpl : BitVec 2
  p : Bool
  avl : Bool
  /-- The D bit of a code segment, the B bit of a stack or expand-down segment. -/
  db : Bool
  g : Bool
  deriving DecidableEq, Repr

/-- A segment register, LDTR or TR: the visible selector and the invisible part (10_state.md R56, R62, R63). -/
structure SegState where
  sel : Word16
  base : Word32
  /-- The effective byte limit (21_segmentation.md R196). -/
  limit : Word32
  attr : Attr
  valid : Bool
  deriving DecidableEq, Repr

/-- GDTR and IDTR: a base and a 16-bit limit (10_state.md R60, R61). -/
structure TableReg where
  base : Word32
  limit : Word16
  deriving DecidableEq, Repr

/-- The test registers TR3 to TR7: plain storage (10_state.md R102). -/
structure TestRegs where
  tr3 : Word32
  tr4 : Word32
  tr5 : Word32
  tr6 : Word32
  tr7 : Word32
  deriving DecidableEq, Repr

/-- The debug-trap conditions awaiting report (10_state.md R113, 46_debug.md R686). -/
structure DbPending where
  hit0 : Bool
  hit1 : Bool
  hit2 : Bool
  hit3 : Bool
  enabledHit : Bool
  bs : Bool
  bt : Bool
  deriving DecidableEq, Repr

/-- The run state (10_state.md R117). -/
inductive Run where
  | running | halted | shutdown | fpFrozen
  deriving DecidableEq, Repr

/-- The size of the page a TLB entry maps (22_paging.md R300). -/
inductive PageSize where
  | k4 | m2 | m4
  deriving DecidableEq, Repr

/-- A recorded translation (22_paging.md R300): the page number in units of its size, and the physical address of the
first byte of the frame. -/
structure TlbEntry where
  size : PageSize
  page : Nat
  frame : Nat
  us : Bool
  rw : Bool
  dirty : Bool
  global : Bool
  deriving DecidableEq, Repr

/-- One transaction with the platform's devices: on the I/O space (20_memory.md R140) the port, the number of bytes and the
value; on devices in the physical memory space (R144) the bytes of one access that are theirs. -/
inductive IoEvent where
  | read (port : Word16) (n : Nat) (value : Word32)
  | write (port : Word16) (n : Nat) (value : Word32)
  | memRead (bytes : List Host.Cell)
  | memWrite (bytes : List Host.Cell)
  deriving DecidableEq, Repr

/-- The whole state of the machine. INVENTORY.md lists each field with its rule and its reset value. -/
structure State where
  gpr : GprFile
  eip : Word32
  eflags : Word32
  es : SegState
  cs : SegState
  ss : SegState
  ds : SegState
  fs : SegState
  gs : SegState
  gdtr : TableReg
  idtr : TableReg
  ldtr : SegState
  tr : SegState
  cr0 : Word32
  cr2 : Word32
  cr3 : Word32
  cr4 : Word32
  dr0 : Word32
  dr1 : Word32
  dr2 : Word32
  dr3 : Word32
  dr6 : Word32
  dr7 : Word32
  testRegs : TestRegs
  fpu : FpuState
  tsc : BitVec 64
  pmc0 : BitVec 40
  pmc1 : BitVec 40
  msrs : List Msr
  mxcsr : Word32
  nmiBlocked : Bool
  nmiPending : Bool
  inhibitSs : Bool
  inhibitSti : Bool
  dbPending : DbPending
  tlb : List TlbEntry
  run : Run
  /-- The INTR input with the vector the acknowledge cycle would return (R118, 60_exceptions.md R772). -/
  intr : Option Byte
  /-- An NMI edge since the last step (R118, R770). -/
  nmiEdge : Bool
  /-- The RESET input (R118, 70_reset_and_hazards.md R900). -/
  resetLine : Bool
  /-- The IGNNE# input is active (R118, 47_fpu_system.md R720). -/
  ignne : Bool
  /-- Physical memory: strictly rising addresses, no entry equal to what an unlisted byte reads as (log entry 8). -/
  mem : List Host.Cell
  /-- The transactions with devices so far, newest first (the model's own record, log entry 9). -/
  io : List IoEvent
  /-- How many free values have been used (the model's own field, log entry 10). -/
  free : Nat
  params : Params
  deriving DecidableEq, Repr

/-- Why the machine makes no further progress (93_implementation_defined.md, treatment 'stuck'). -/
inductive Fault where
  /-- An access to a physical address with nothing behind it: the bus cycle does not end (20_memory.md R123,
  U12). Raised by every physical read and write. Safe: the model stops where the hardware hangs. -/
  | noMemory (address : Nat)
  /-- A write to read-only memory that PHYS_MAP does not let be dropped (U12). Raised by physical writes. Safe. -/
  | romWrite (address : Nat)
  deriving DecidableEq, Repr

/-- Why the model gives no successor state where the hardware goes on (93_implementation_defined.md, 'refuse'). -/
inductive Refusal where
  /-- The arm of an instruction whose meaning is not written. Raised by `exec` only. Safe. -/
  | notModelled (mnemonic : String)
  /-- A reserved opcode of Table 9-3 (30_encoding.md R356, U18): what it does is not stated. Raised by the reserved
  rows. Safe. -/
  | reservedOpcode
  /-- Bytes that no row of the opcode table names: the application instruction set is not in the spec (R360, D51).
  Raised by the step and the prefix rows. Safe. -/
  | applicationOpcode
  /-- A repeat prefix before an instruction that does not repeat (30_encoding.md R339, U17). Raised by every meaning but
  INS and OUTS. Safe. -/
  | repeatPrefix
  /-- A floating-point instruction whose effect is in the absent chapters (47_fpu_system.md R716). Raised by ESC after
  its checks. Safe. -/
  | fpuDataPath
  /-- CR0.PE set while CS.sel[1:0] is not 0 (21_segmentation.md R214, D80, U34). Raised by MOV to CR0 and LMSW. Safe. -/
  | protectionFromOddCs
  /-- A 16-bit gate used from virtual-8086 mode (60_exceptions.md R811, D78). Raised by delivery. Safe. -/
  | gate16FromV86
  /-- A port access that runs past FFFFH (20_memory.md R142, D35). Raised by IN, OUT, INS, OUTS. Safe. -/
  | portOverrun
  /-- A write to EFLAGS or CR3 whose value has reserved bits other than they read, where the parameter `reservedWrites` says so
  (00_scope.md R8, U1; log entry 22). Raised by POPF, IRET, MOV to CR3 and the task switch. Safe. -/
  | reservedBits
  deriving DecidableEq, Repr

/-- The attributes of a data segment after reset: present, writable, accessed, DPL 0, 16-bit, byte granular
(70_reset_and_hazards.md R905, D24; log entry 2). -/
def Attr.resetData : Attr := ⟨3, true, 0, true, false, false, false⟩

/-- The attributes of CS after reset: present, readable, executable, accessed, DPL 0, 16-bit, byte granular (R905, D23). -/
def Attr.resetCode : Attr := ⟨11, true, 0, true, false, false, false⟩

/-- A data-segment register after reset (70_reset_and_hazards.md R905, D24). -/
def SegState.resetData : SegState := ⟨0, 0, 0xFFFF, Attr.resetData, true⟩

/-- CS after reset (70_reset_and_hazards.md R905, D23). -/
def SegState.resetCode : SegState := ⟨0xF000, 0xFFFF0000, 0xFFFF, Attr.resetCode, true⟩

/-- LDTR after reset: null, so no LDT (70_reset_and_hazards.md R905; attributes log entry 2). -/
def SegState.resetLdtr : SegState := ⟨0, 0, 0xFFFF, ⟨2, false, 0, false, false, false, false⟩, false⟩

/-- TR after reset: no TSS until LTR (70_reset_and_hazards.md R905, D25, D56; attributes log entry 2). -/
def SegState.resetTr : SegState := ⟨0, 0, 0xFFFF, ⟨11, false, 0, false, false, false, false⟩, false⟩

/-- No debug condition pending. -/
def DbPending.none : DbPending := ⟨false, false, false, false, false, false, false⟩

/-- CR0 after reset: RESET_CR0 with PE, PG and WP clear (70_reset_and_hazards.md R905, D22). -/
def Params.cr0AtReset (p : Params) : Word32 := p.resetCr0 &&& 0x7FFEFFFE

/-- The machine right after power-up and reset with the parameters `p` and the memory `m`
(70_reset_and_hazards.md R905). -/
def State.resetWith (p : Params) (m : List Host.Cell) : State where
  gpr := p.resetGpr
  eip := 0x0000FFF0
  eflags := 0x00000002
  es := SegState.resetData
  cs := SegState.resetCode
  ss := SegState.resetData
  ds := SegState.resetData
  fs := SegState.resetData
  gs := SegState.resetData
  gdtr := ⟨0, 0xFFFF⟩
  idtr := ⟨0, 0xFFFF⟩
  ldtr := SegState.resetLdtr
  tr := SegState.resetTr
  cr0 := Params.cr0AtReset p
  cr2 := 0
  cr3 := 0
  cr4 := 0
  dr0 := 0
  dr1 := 0
  dr2 := 0
  dr3 := 0
  dr6 := 0
  dr7 := 0
  testRegs := ⟨0, 0, 0, 0, 0⟩
  fpu := if p.bist then
      { p.resetFpu with control := 0x037F, status := 0, tag := 0xFFFF, opcode := 0, instrSel := 0, instrOff := 0,
                        dataSel := 0, dataOff := 0 }
    else p.resetFpu
  tsc := 0
  pmc0 := 0
  pmc1 := 0
  msrs := p.msrFile
  mxcsr := 0
  nmiBlocked := false
  nmiPending := false
  inhibitSs := false
  inhibitSti := false
  dbPending := DbPending.none
  tlb := []
  run := .running
  intr := none
  nmiEdge := false
  resetLine := false
  ignne := false
  mem := m
  io := []
  free := 0
  params := p

/-- The machine right after reset: the i486 baseline with nothing listed in memory (70_reset_and_hazards.md R905). -/
def State.reset : State := State.resetWith Params.baseline []

end Sys2Proof.Machine
end

