-- ==== Sys2Proof/Machine/Monad.lean ====
section
/-! DEFINITION. How an operation can end, and the machine's accessors: general registers, flags, segment registers,
control bits, privilege level (10_state.md, 21_segmentation.md R214). -/

namespace Sys2Proof.Machine

open Sys2Proof

/-- The processor's own exceptions (60_exceptions.md R752). -/
inductive Exc where
  | de | db | nmi | bp | of | br | ud | nm | df | ts | np | ss | gp | pf | mf | ac
  deriving DecidableEq, Repr

/-- The vector of an exception (60_exceptions.md R752). -/
def Exc.vector : Exc → Byte
  | .de => 0
  | .db => 1
  | .nmi => 2
  | .bp => 3
  | .of => 4
  | .br => 5
  | .ud => 6
  | .nm => 7
  | .df => 8
  | .ts => 10
  | .np => 11
  | .ss => 12
  | .gp => 13
  | .pf => 14
  | .mf => 16
  | .ac => 17

/-- A raised exception: which, its error code if it has one, and whether the task switch it arose in had committed
(60_exceptions.md R752, R756; 43_tasks.md R544). -/
structure Exn where
  exc : Exc
  code : Option Word32
  committed : Bool
  deriving DecidableEq, Repr

/-- Why an operation did not complete. -/
inductive Err where
  | exn (e : Exn)
  /-- Shutdown entered at once (60_exceptions.md R780 with IDT_OVERRUN = shutdown). -/
  | shutdown
  | fault (f : Fault)
  | refuse (r : Refusal)
  deriving DecidableEq, Repr

/-- An operation of the machine: it reads and changes the state, and completes with a value or stops with `Err`. -/
abbrev M := EStateM Err State

/-- Raise an exception with an error code. -/
def raiseCode {α : Type} (e : Exc) (code : Word32) : M α := throw (.exn ⟨e, some code, false⟩)

/-- Raise an exception without an error code. -/
def raisePlain {α : Type} (e : Exc) : M α := throw (.exn ⟨e, none, false⟩)

/-- The invalid-opcode exception (30_encoding.md R355). -/
def raiseUd {α : Type} : M α := raisePlain .ud

/-- `#GP(0)`. -/
def raiseGp0 {α : Type} : M α := raiseCode .gp 0

/-- Stop without a successor state (93_implementation_defined.md, 'refuse'). -/
def refuse {α : Type} (r : Refusal) : M α := throw (.refuse r)

/-- A general register's 32 bits (10_state.md R20). -/
def GprFile.get (g : GprFile) : Reg → Word32
  | .eax => g.eax
  | .ecx => g.ecx
  | .edx => g.edx
  | .ebx => g.ebx
  | .esp => g.esp
  | .ebp => g.ebp
  | .esi => g.esi
  | .edi => g.edi

/-- Write a general register's 32 bits (10_state.md R20). -/
def GprFile.set (g : GprFile) (r : Reg) (v : Word32) : GprFile :=
  match r with
  | .eax => { g with eax := v }
  | .ecx => { g with ecx := v }
  | .edx => { g with edx := v }
  | .ebx => { g with ebx := v }
  | .esp => { g with esp := v }
  | .ebp => { g with ebp := v }
  | .esi => { g with esi := v }
  | .edi => { g with edi := v }

/-- The low 16 bits (10_state.md R21). -/
def lo16 (v : Word32) : Word16 := v.extractLsb' 0 16

/-- The high 16 bits. -/
def hi16 (v : Word32) : Word16 := v.extractLsb' 16 16

/-- The low 8 bits (10_state.md R21). -/
def lo8 (v : Word32) : Byte := v.extractLsb' 0 8

/-- Replace the low 16 bits, leaving the others unchanged (10_state.md R21). -/
def setLo16 (v : Word32) (x : Word16) : Word32 := hi16 v ++ x

/-- Replace the low 8 bits, leaving the others unchanged (10_state.md R21). -/
def setLo8 (v : Word32) (x : Byte) : Word32 := v.extractLsb' 8 24 ++ x

/-- A general register of the state. -/
def State.reg (s : State) (r : Reg) : Word32 := GprFile.get s.gpr r

/-- The state with a general register written. -/
def State.setReg (s : State) (r : Reg) (v : Word32) : State := { s with gpr := GprFile.set s.gpr r v }

/-- The state with the low 16 bits of a general register written. -/
def State.setReg16 (s : State) (r : Reg) (v : Word16) : State := s.setReg r (setLo16 (s.reg r) v)

/-- A segment register of the state (10_state.md R55). -/
def State.seg (s : State) : SegReg → SegState
  | .es => s.es
  | .cs => s.cs
  | .ss => s.ss
  | .ds => s.ds
  | .fs => s.fs
  | .gs => s.gs

/-- The state with a segment register written (10_state.md R55). -/
def State.setSeg (s : State) (r : SegReg) (v : SegState) : State :=
  match r with
  | .es => { s with es := v }
  | .cs => { s with cs := v }
  | .ss => { s with ss := v }
  | .ds => { s with ds := v }
  | .fs => { s with fs := v }
  | .gs => { s with gs := v }

/-- The segment register with an encoding number, if it exists (30_encoding.md R345, R355). -/
def SegReg.ofCode? (c : BitVec 3) : Option SegReg :=
  match c.toNat with
  | 0 => some .es
  | 1 => some .cs
  | 2 => some .ss
  | 3 => some .ds
  | 4 => some .fs
  | 5 => some .gs
  | _ => none

/-- Bit `n` of a doubleword. -/
def bit (v : Word32) (n : Nat) : Bool := v.getLsbD n

/-- A doubleword with bit `n` given the value `b`. -/
def setBit (v : Word32) (n : Nat) (b : Bool) : Word32 :=
  if b then v ||| (1#32 <<< n) else v &&& ~~~(1#32 <<< n)

/-- Two bits of a doubleword from bit `n` up. -/
def bits2 (v : Word32) (n : Nat) : BitVec 2 := v.extractLsb' n 2

/-- CR0.PE (10_state.md R72). -/
def State.pe (s : State) : Bool := bit s.cr0 0
/-- CR0.MP (10_state.md R73). -/
def State.mp (s : State) : Bool := bit s.cr0 1
/-- CR0.EM (10_state.md R74). -/
def State.em (s : State) : Bool := bit s.cr0 2
/-- CR0.TS (10_state.md R75). -/
def State.ts (s : State) : Bool := bit s.cr0 3
/-- CR0.NE (10_state.md R77). -/
def State.ne (s : State) : Bool := bit s.cr0 5
/-- CR0.WP (10_state.md R78). -/
def State.wp (s : State) : Bool := bit s.cr0 16
/-- CR0.AM (10_state.md R79). -/
def State.am (s : State) : Bool := bit s.cr0 18
/-- CR0.PG (10_state.md R81). -/
def State.pg (s : State) : Bool := bit s.cr0 31

/-- CR4.TSD (10_state.md R87). -/
def State.cr4Tsd (s : State) : Bool := bit s.cr4 2
/-- CR4.DE (10_state.md R87). -/
def State.cr4De (s : State) : Bool := bit s.cr4 3
/-- CR4.PSE (10_state.md R87). -/
def State.cr4Pse (s : State) : Bool := bit s.cr4 4
/-- CR4.PAE (10_state.md R87). -/
def State.cr4Pae (s : State) : Bool := bit s.cr4 5
/-- CR4.PGE (10_state.md R87). -/
def State.cr4Pge (s : State) : Bool := bit s.cr4 7
/-- CR4.PCE (10_state.md R87). -/
def State.cr4Pce (s : State) : Bool := bit s.cr4 8

/-- EFLAGS.ZF (10_state.md R40). -/
def State.zf (s : State) : Bool := bit s.eflags 6
/-- EFLAGS.TF (10_state.md R42). -/
def State.tf (s : State) : Bool := bit s.eflags 8
/-- EFLAGS.IF (10_state.md R43). -/
def State.ifl (s : State) : Bool := bit s.eflags 9
/-- EFLAGS.DF (10_state.md R41). -/
def State.df (s : State) : Bool := bit s.eflags 10
/-- EFLAGS.OF (10_state.md R40). -/
def State.off (s : State) : Bool := bit s.eflags 11
/-- EFLAGS.IOPL (10_state.md R44). -/
def State.iopl (s : State) : BitVec 2 := bits2 s.eflags 12
/-- EFLAGS.NT (10_state.md R45). -/
def State.nt (s : State) : Bool := bit s.eflags 14
/-- EFLAGS.RF (10_state.md R46). -/
def State.rf (s : State) : Bool := bit s.eflags 16
/-- EFLAGS.VM (10_state.md R47). -/
def State.vm (s : State) : Bool := bit s.eflags 17
/-- EFLAGS.AC (10_state.md R48). -/
def State.acf (s : State) : Bool := bit s.eflags 18

/-- Protected mode proper: not real-address mode, not virtual-8086 mode (00_scope.md R3). -/
def State.protectedMode (s : State) : Bool := s.pe && !s.vm

/-- Virtual-8086 mode (10_state.md R47). -/
def State.v86 (s : State) : Bool := s.pe && s.vm

/-- The current privilege level (21_segmentation.md R214). -/
def State.cpl (s : State) : BitVec 2 :=
  if s.pe then (if s.vm then 3 else s.cs.sel.extractLsb' 0 2) else 0

/-- The numbers of `n` fresh free values, from the answer up: the counter advances past them. -/
def takeFree (n : Nat) : M Nat := do
  let s ← get
  set { s with free := s.free + n }
  pure s.free

/-- A fresh free value (93_implementation_defined.md, 'any value'): the counter advances. -/
def freshWord : M Word32 := do
  let s ← get
  set { s with free := s.free + 1 }
  pure (Config.freeWord s.free)

end Sys2Proof.Machine
end

