-- ==== Sys2Proof/Machine/Memory.lean ====
section
/-! DEFINITION. Physical memory: the canonical list of cells, reading and writing one byte, and the byte-by-byte
physical accesses of 20_memory.md R120 to R123. -/

namespace Sys2Proof.Machine

open Sys2Proof

/-- What a physical address reads as; an address that is not listed reads 0 (DESIGN CHOICE, log entry 8). -/
def cellByte : List Host.Cell → Nat → Byte
  | [], _ => 0
  | (a, b) :: cs, x => if x = a then b else cellByte cs x

/-- Write one byte, keeping the canonical form: writing what an unlisted address reads as removes the entry. -/
def setCell : List Host.Cell → Nat → Byte → List Host.Cell
  | [], x, v => if v = 0 then [] else [(x, v)]
  | (a, b) :: cs, x, v =>
    if x < a then (if v = 0 then (a, b) :: cs else (x, v) :: (a, b) :: cs)
    else if x = a then (if v = 0 then cs else (x, v) :: cs)
    else (a, b) :: setCell cs x v

/-- The canonical form from an address up: strictly rising addresses, no entry that reads as an unlisted one. -/
def Memory.wfFrom : Nat → List Host.Cell → Bool
  | _, [] => true
  | lo, (a, b) :: cs => decide (lo ≤ a) && decide (b ≠ 0) && Memory.wfFrom (a + 1) cs

/-- The canonical form of memory. -/
def Memory.wf (m : List Host.Cell) : Bool := Memory.wfFrom 0 m

/-- What the byte at a physical address holds (20_memory.md R122). -/
def State.byteAt (s : State) (a : Nat) : Byte := cellByte s.mem a

/-- Store bytes at given addresses, one each. -/
def setCells : List Host.Cell → List Nat → List Byte → List Host.Cell
  | m, [], _ => m
  | m, _ :: _, [] => m
  | m, a :: as, b :: bs => setCells (setCell m a b) as bs

/-- What stands behind a physical address (20_memory.md R122). -/
def physKind (p : Params) (a : Nat) : PhysKind :=
  match p.physMap.find? (fun r => r.holds a) with
  | some r => r.kind
  | none => .ram

/-- The addresses behind which a given kind of thing stands. -/
def ofKind (p : Params) (k : PhysKind) (addrs : List Nat) : List Nat := addrs.filter (fun a => decide (physKind p a = k))

/-- Stop where PHYS_MAP has nothing (20_memory.md R123, U12). -/
def requireMemory (addrs : List Nat) : M Unit := do
  match ofKind (← get).params .nothing addrs with
  | a :: _ => throw (.fault (.noMemory a))
  | [] => pure ()

/-- What a read of the byte at a physical address answers: the memory's byte, a device's free answer, or all ones where the
platform ends the cycle (20_memory.md R122, R144, U12). -/
def State.busByte (s : State) (a : Nat) : Byte :=
  match physKind s.params a with
  | .device => Config.deviceByte s.free a
  | .openBus => 0xFF
  | .ram => s.byteAt a
  | .rom => s.byteAt a
  | .romIgnore => s.byteAt a
  | .nothing => s.byteAt a

/-- The state once a read of the addresses has been answered: one transaction for the bytes that are a device's, which uses
one free value; memory answers without a trace (20_memory.md R144; log entry 9). -/
def State.afterRead (s : State) (addrs : List Nat) : State :=
  match ofKind s.params .device addrs with
  | [] => s
  | a :: as => { s with free := s.free + 1, io := .memRead ((a :: as).map (fun x => (x, s.busByte x))) :: s.io }

/-- Read the bytes at the addresses, the lowest first (20_memory.md R120, R122). -/
def physReadAt (addrs : List Nat) : M Nat := do
  requireMemory addrs
  let s ← get
  modify (fun s => s.afterRead addrs)
  pure (ofBytes (addrs.map s.busByte))

/-- The addresses and bytes of a write that fall on one kind of thing. -/
def cellsOf (p : Params) (k : PhysKind) (cells : List Host.Cell) : List Host.Cell :=
  cells.filter (fun c => decide (physKind p c.1 = k))

/-- The record once a write has been made: one transaction for the bytes that are a device's (20_memory.md R144; log entry
9). -/
def recordWrite (io : List IoEvent) : List Host.Cell → List IoEvent
  | [] => io
  | c :: cs => .memWrite (c :: cs) :: io

/-- The state once bytes are written: memory takes those that fall on it, a device those that are its, and the others are
dropped (20_memory.md R122, R123, R144, U12). -/
def State.afterWrite (s : State) (cells : List Host.Cell) : State :=
  let ram := cellsOf s.params .ram cells
  { s with
    mem := setCells s.mem (ram.map Prod.fst) (ram.map Prod.snd)
    io := recordWrite s.io (cellsOf s.params .device cells) }

/-- Write the little-endian bytes of a value at the addresses (20_memory.md R120, R122; read-only memory R123, U12). -/
def physWriteAt (addrs : List Nat) (v : Nat) : M Unit := do
  requireMemory addrs
  match ofKind (← get).params .rom addrs with
  | a :: _ => throw (.fault (.romWrite a))
  | [] => modify (fun s => s.afterWrite (addrs.zip (bytesOf addrs.length v)))

/-- Consecutive physical addresses. -/
def addrsFrom (a : Nat) : Nat → List Nat
  | 0 => []
  | n + 1 => a :: addrsFrom (a + 1) n

/-- `PhysRead(pa, n)` (20_memory.md R120). -/
def physRead (a n : Nat) : M Nat := physReadAt (addrsFrom a n)

/-- `PhysWrite(pa, n, v)` (20_memory.md R120). -/
def physWrite (a n v : Nat) : M Unit := physWriteAt (addrsFrom a n) v

end Sys2Proof.Machine
end

