-- ==== Sys2Proof/Machine/Paging.lean ====
section
/-! DEFINITION. The second stage of address translation and page-level protection (22_paging.md): the walks of R270,
R290 and R312, the permission function R283, the TLB of R300 to R306, and linear accesses that may span two pages
(20_memory.md R128). -/

namespace Sys2Proof.Machine

open Sys2Proof

/-- The access record of 00_scope.md: made in user mode, a write (22_paging.md R270). -/
structure Acc where
  user : Bool
  write : Bool
  deriving DecidableEq, Repr

/-- An implicit supervisor read (22_paging.md R285). -/
def Acc.supRead : Acc := ⟨false, false⟩

/-- An implicit supervisor write (22_paging.md R285). -/
def Acc.supWrite : Acc := ⟨false, true⟩

/-- The defined bits of the error code of a page fault (22_paging.md R286). -/
def pfCode (user3 : Bool) (acc : Acc) (present rsvd : Bool) : Word32 :=
  (if present then 1 else 0) ||| (if acc.write then 2 else 0) ||| (if user3 then 4 else 0) ||| (if rsvd then 8 else 0)

/-- The undefined bits of the error code of a page fault (22_paging.md R286, U31; log entry 20). -/
def pfUndefined (p : Params) : Word32 := if p.hasPSE36 || p.hasPAE then 0xFFFFFFF0 else 0xFFFFFFF8

/-- Report a page-level fault: CR2 and `#PF`, the undefined bits of the error code a free value (22_paging.md R286, R287,
U31). -/
def pageFault {α : Type} (la : Word32) (acc : Acc) (present rsvd : Bool) : M α := do
  let s ← get
  set { s with cr2 := la }
  let f ← freshWord
  raiseCode .pf ((pfCode (decide (s.cpl = 3)) acc present rsvd &&& ~~~(pfUndefined s.params)) |||
    (f &&& pfUndefined s.params))

/-- Does the permission function refuse (22_paging.md R283)? -/
def rightsRefused (us rw : Bool) (acc : Acc) (wp : Bool) : Bool :=
  if acc.user then !us || (acc.write && !rw) else acc.write && !rw && wp

/-- `check_rights` (22_paging.md R283). -/
def checkRights (us rw : Bool) (acc : Acc) (la : Word32) : M Unit := do
  if rightsRefused us rw acc (← get).wp then pageFault la acc true false else pure ()

/-- What a translation found: the physical address, the entries to mark (address, bits to set), and the TLB entry it
may record. -/
structure Xlat where
  phys : Nat
  marks : List (Nat × Nat)
  entry : Option TlbEntry
  deriving DecidableEq, Repr

/-- How many low bits of a linear address are the offset in a page. -/
def PageSize.shift : PageSize → Nat
  | .k4 => 12
  | .m2 => 21
  | .m4 => 22

/-- Does the entry cover the linear address? -/
def covers (e : TlbEntry) (la : Word32) : Bool := decide (e.page = la.toNat >>> PageSize.shift e.size)

/-- A translation recorded by a walk of the given size (22_paging.md R300, R305). -/
def xlatOf (s : State) (size : PageSize) (frame : Nat) (la : Word32) (us rw dirty g : Bool) (marks : List (Nat × Nat)) :
    Xlat :=
  ⟨frame + la.toNat % 2 ^ PageSize.shift size, marks,
    some ⟨size, la.toNat >>> PageSize.shift size, frame, us, rw, dirty, g && s.cr4Pge⟩⟩

/-- Are reserved bits of entries checked (22_paging.md R292)? -/
def State.rsvdChecked (s : State) : Bool := s.cr4Pse || s.cr4Pae

/-- Bits `hi:lo` of an entry as a number. -/
def field (v hi lo : Nat) : Nat := (v >>> lo) % 2 ^ (hi - lo + 1)

/-- Reserved bits of a 32-bit page-table entry set (22_paging.md R292; bit 7 by U16's parameter). -/
def pteRsvd32 (p : Params) (pte : Nat) : Bool :=
  (p.checkSmallPageBits && pte.testBit 7) || (!p.hasPGE && pte.testBit 8)

/-- Reserved bits of a 32-bit page-directory entry that points to a page table set (22_paging.md R292; bit 6 by U16's
parameter). That bit 8 is reserved without HAS_PGE is read from R274 and R292: DEDUCED, log entry 53. -/
def pdeRsvd32 (p : Params) (pde : Nat) : Bool :=
  (p.checkSmallPageBits && pde.testBit 6) || (!p.hasPGE && pde.testBit 8)

/-- Reserved bits of a 32-bit page-directory entry that maps a 4-Mbyte page set (22_paging.md R292). -/
def pde4mRsvd (p : Params) (pde : Nat) : Bool :=
  if p.hasPSE36 then decide (field pde 21 17 ≠ 0) else decide (field pde 21 12 ≠ 0)

/-- The mark on a last-level entry: Accessed, and Dirty on a write, when one is missing (22_paging.md R279). -/
def leafMark (addr entry : Nat) (acc : Acc) : List (Nat × Nat) :=
  if !entry.testBit 5 || (acc.write && !entry.testBit 6) then [(addr, if acc.write then 0x60 else 0x20)] else []

/-- The mark on a directory entry: Accessed when it is missing (22_paging.md R279). -/
def dirMark (addr entry : Nat) : List (Nat × Nat) := if entry.testBit 5 then [] else [(addr, 0x20)]

/-- The walk with 32-bit entries (22_paging.md R270, R290). -/
def walk32 (la : Word32) (acc : Acc) : M Xlat := do
  let s ← get
  let pdeAddr := field s.cr3.toNat 31 12 * 4096 + field la.toNat 31 22 * 4
  let pde ← physRead pdeAddr 4
  if !pde.testBit 0 then pageFault la acc false false
  else if s.params.hasPSE && s.cr4Pse && pde.testBit 7 then do
    if pde4mRsvd s.params pde then pageFault la acc true true
    else do
      checkRights (pde.testBit 2) (pde.testBit 1) acc la
      let frame := field pde 31 22 * 2 ^ 22 + (if s.params.hasPSE36 then field pde 16 13 * 2 ^ 32 else 0)
      pure (xlatOf s .m4 frame la (pde.testBit 2) (pde.testBit 1) (acc.write || pde.testBit 6) (pde.testBit 8)
        (leafMark pdeAddr pde acc))
  else do
    if s.rsvdChecked && pdeRsvd32 s.params pde then pageFault la acc true true
    else do
      checkRights (pde.testBit 2) (pde.testBit 1) acc la
      let pteAddr := field pde 31 12 * 4096 + field la.toNat 21 12 * 4
      let pte ← physRead pteAddr 4
      if !pte.testBit 0 then pageFault la acc false false
      else if s.rsvdChecked && pteRsvd32 s.params pte then pageFault la acc true true
      else do
        checkRights (pte.testBit 2) (pte.testBit 1) acc la
        pure (xlatOf s .k4 (field pte 31 12 * 4096) la (pde.testBit 2 && pte.testBit 2)
          (pde.testBit 1 && pte.testBit 1) (acc.write || pte.testBit 6) (pte.testBit 8)
          (dirMark pdeAddr pde ++ leafMark pteAddr pte acc))

/-- Reserved bits of a 64-bit directory entry set; in one that points to a page table bit 6 by U16's parameter
(22_paging.md R292, R311; DEDUCED, log entry 53). -/
def pdePaeRsvd (p : Params) (pde : Nat) : Bool :=
  decide (field pde 63 36 ≠ 0) ||
    (if pde.testBit 7 then decide (field pde 20 13 ≠ 0) else p.checkSmallPageBits && pde.testBit 6)

/-- Reserved bits of a 64-bit page-table entry set (22_paging.md R292, R311; bit 7 by U16's parameter: DEDUCED, log entry 53). -/
def ptePaeRsvd (p : Params) (pte : Nat) : Bool :=
  decide (field pte 63 36 ≠ 0) || (p.checkSmallPageBits && pte.testBit 7)

/-- The walk with 64-bit entries (22_paging.md R312, R315). -/
def walkPae (la : Word32) (acc : Acc) : M Xlat := do
  let s ← get
  let pdpte ← physRead (field s.cr3.toNat 31 5 * 32 + field la.toNat 31 30 * 8) 8
  if !pdpte.testBit 0 then pageFault la acc false false
  else do
    let pdeAddr := field pdpte 35 12 * 4096 + field la.toNat 29 21 * 8
    let pde ← physRead pdeAddr 8
    if !pde.testBit 0 then pageFault la acc false false
    else if pdePaeRsvd s.params pde then pageFault la acc true true
    else do
      checkRights (pde.testBit 2) (pde.testBit 1) acc la
      if pde.testBit 7 then
        pure (xlatOf s .m2 (field pde 35 21 * 2 ^ 21) la (pde.testBit 2) (pde.testBit 1)
          (acc.write || pde.testBit 6) (pde.testBit 8) (leafMark pdeAddr pde acc))
      else do
        let pteAddr := field pde 35 12 * 4096 + field la.toNat 20 12 * 8
        let pte ← physRead pteAddr 8
        if !pte.testBit 0 then pageFault la acc false false
        else if ptePaeRsvd s.params pte then pageFault la acc true true
        else do
          checkRights (pte.testBit 2) (pte.testBit 1) acc la
          pure (xlatOf s .k4 (field pte 35 12 * 4096) la (pde.testBit 2 && pte.testBit 2)
            (pde.testBit 1 && pte.testBit 1) (acc.write || pte.testBit 6) (pte.testBit 8)
            (dirMark pdeAddr pde ++ leafMark pteAddr pte acc))

/-- Choose a translation among the usable entries by TLB_POLICY (22_paging.md R300). Which one is used under the policy ideal
where recorded entries of two sizes cover the address (R291) is not stated: the model takes the newest. DESIGN CHOICE, log
entry 50. -/
def chooseTlb (cands : List TlbEntry) : M (Option TlbEntry) := do
  let s ← get
  match s.params.tlbPolicy, cands with
  | .none, _ => pure none
  | .ideal, cs => pure cs.head?
  | .arbitrary, [] => pure none
  | .arbitrary, c :: cs => do
    set { s with free := s.free + 1 }
    match Config.tlbChoice s.free with
    | 0 => pure none
    | k + 1 => pure ((c :: cs)[k]?)

/-- Look the linear address up; a write that finds an entry not marked dirty discards it and walks (22_paging.md R301). -/
def tlbLookup (la : Word32) (acc : Acc) : M (Option TlbEntry) := do
  match ← chooseTlb ((← get).tlb.filter (fun e => covers e la)) with
  | none => pure none
  | some e =>
    if acc.write && !e.dirty then do
      modify (fun s => { s with tlb := s.tlb.filter (fun x => decide (x ≠ e)) })
      pure none
    else pure (some e)

/-- `Translate` for an access within one page, up to its last checks: nothing is marked or recorded yet
(22_paging.md R260, R270). -/
def translate (la : Word32) (acc : Acc) : M Xlat := do
  let s ← get
  if !s.pg then pure ⟨la.toNat, [], none⟩
  else do
    match ← tlbLookup la acc with
    | some e => do
      checkRights e.us e.rw acc la
      pure ⟨e.frame + la.toNat % 2 ^ PageSize.shift e.size, [], none⟩
    | none => if s.cr4Pae then walkPae la acc else walk32 la acc

/-- Set Accessed and Dirty bits in the entries of a walk (22_paging.md R279). -/
def applyMarks : List (Nat × Nat) → M Unit
  | [] => pure ()
  | (a, bits) :: rest => do
    let v ← physRead a 4
    physWrite a 4 (v ||| bits)
    applyMarks rest

/-- Record the translation (22_paging.md R300): `ideal` keeps one translation of a page; `arbitrary` keeps the older ones
beside it until a flush, so that each access may use the old or the new one (R303, U32). -/
def State.recordTlb (s : State) (e : TlbEntry) : State :=
  match s.params.tlbPolicy with
  | .none => s
  | .ideal =>
    { s with tlb := e :: s.tlb.filter (fun x => !(decide (x.size = e.size) && decide (x.page = e.page))) }
  | .arbitrary => { s with tlb := e :: s.tlb.filter (fun x => decide (x ≠ e)) }

/-- Record what a walk found, if anything (22_paging.md R300). -/
def recordXlat : Option TlbEntry → M Unit
  | none => pure ()
  | some e => modify (fun s => s.recordTlb e)

/-- Complete a translation: marks, then the TLB. -/
def commitXlat (x : Xlat) : M Unit := do
  applyMarks x.marks
  recordXlat x.entry

/-- Linear addresses of an access, each modulo 2^32 (21_segmentation.md R222). -/
def linearSpan (la : Word32) : Nat → List Nat
  | 0 => []
  | n + 1 => la.toNat :: linearSpan (la + 1) n

/-- The physical addresses of `n` bytes at a linear address. Both pages of an access that spans two are checked before
either is marked; the lower one is checked first (20_memory.md R128, 22_paging.md R287). -/
def linAddrs (la : Word32) (n : Nat) (acc : Acc) : M (List Nat) := do
  let s ← get
  if !s.pg then pure (linearSpan la n)
  else do
    let room := 4096 - la.toNat % 4096
    if n ≤ room then do
      let x ← translate la acc
      commitXlat x
      pure (addrsFrom x.phys n)
    else do
      let x ← translate la acc
      let y ← translate (la + BitVec.ofNat 32 room) acc
      commitXlat x
      commitXlat y
      pure (addrsFrom x.phys room ++ addrsFrom y.phys (n - room))

/-- `LinRead` (00_scope.md). -/
def linRead (la : Word32) (n : Nat) (acc : Acc) : M Nat := do physReadAt (← linAddrs la n acc)

/-- `LinWrite` (00_scope.md). -/
def linWrite (la : Word32) (n v : Nat) (acc : Acc) : M Unit := do physWriteAt (← linAddrs la n acc) v

/-- The TLB after a load of CR3: global entries stay while CR4.PGE is 1 (22_paging.md R302, R305). -/
def State.flushTlb (s : State) : State := { s with tlb := s.tlb.filter (fun e => e.global && s.cr4Pge) }

/-- The TLB after INVLPG (22_paging.md R306). -/
def State.invalidatePage (s : State) (la : Word32) : State := { s with tlb := s.tlb.filter (fun e => !covers e la) }

/-- Is a page-directory-pointer-table entry refused: not present or reserved bits set (22_paging.md R311, R313)? -/
def pdpteBad (e : Nat) : Bool :=
  !e.testBit 0 || decide (field e 63 36 ≠ 0) || decide (field e 8 5 ≠ 0) || decide (field e 2 1 ≠ 0)

/-- Are the four page-directory-pointer-table entries at a CR3 value acceptable (22_paging.md R313)? -/
def pdptOk (cr3 : Word32) : M Bool := do
  let base := field cr3.toNat 31 5 * 32
  let e0 ← physRead base 8
  let e1 ← physRead (base + 8) 8
  let e2 ← physRead (base + 16) 8
  let e3 ← physRead (base + 24) 8
  pure (!(pdpteBad e0 || pdpteBad e1 || pdpteBad e2 || pdpteBad e3))

end Sys2Proof.Machine
end

