-- ==== Sys2Proof/Machine/Access.lean ====
section
/-! DEFINITION. Memory accesses through a segment register: the checks of 21_segmentation.md R230 to R238, the alignment
check of 20_memory.md R131, the data-breakpoint match of 46_debug.md R676, in the order of 20_memory.md R127; and the
stack pointer (42_control_transfer.md R451, R452). -/

namespace Sys2Proof.Machine

open Sys2Proof

/-- A code segment's attributes (21_segmentation.md R198). -/
def isCode (a : Attr) : Bool := a.s && a.type.getLsbD 3

/-- A data segment's attributes (21_segmentation.md R198). -/
def isData (a : Attr) : Bool := a.s && !a.type.getLsbD 3

/-- May be read (21_segmentation.md R198). -/
def readable (a : Attr) : Bool := isData a || (isCode a && a.type.getLsbD 1)

/-- May be written (21_segmentation.md R198). -/
def writable (a : Attr) : Bool := isData a && a.type.getLsbD 1

/-- An expand-down data segment (21_segmentation.md R198). -/
def expandDown (a : Attr) : Bool := isData a && a.type.getLsbD 2

/-- A conforming code segment (21_segmentation.md R198). -/
def conforming (a : Attr) : Bool := isCode a && a.type.getLsbD 2

/-- The limit check, without wrap-around (21_segmentation.md R234, R235). -/
def inLimit (seg : SegState) (off : Word32) (n : Nat) : Bool :=
  if expandDown seg.attr then
    decide (seg.limit.toNat < off.toNat) &&
      decide (off.toNat + n - 1 ≤ (if seg.attr.db then 0xFFFFFFFF else 0xFFFF))
  else decide (off.toNat + n - 1 ≤ seg.limit.toNat)

/-- A violation through a segment register: `#SS(0)` through SS, else `#GP(0)` (21_segmentation.md R237). -/
def segFault {α : Type} (isSs : Bool) : M α := raiseCode (if isSs then .ss else .gp) 0

/-- Does the reference pass the checks on the segment register (21_segmentation.md R230, R238)? -/
def segOk (protectedMode : Bool) (seg : SegState) (off : Word32) (n : Nat) (write : Bool) : Bool :=
  (!protectedMode || (seg.valid && (if write then writable seg.attr else readable seg.attr))) && inLimit seg off n

/-- `SegCheck` for a read or a write (21_segmentation.md R230). An operand of several parts is one operand here, checked
over its whole extent (R234, 20_memory.md R121). -/
def segCheck (seg : SegState) (isSs : Bool) (off : Word32) (n : Nat) (write : Bool) : M Unit := do
  if segOk (← get).protectedMode seg off n write then pure () else segFault isSs

/-- Is the alignment check enabled (20_memory.md R131)? -/
def State.acEnabled (s : State) : Bool := s.params.hasAC && s.am && s.acf && decide (s.cpl = 3)

/-- The alignment check: the address must be a multiple of `align` (20_memory.md R131, R132). -/
def alignCheck (la : Word32) (align : Nat) (user : Bool) : M Unit := do
  if (← get).acEnabled && user && decide (la.toNat % align ≠ 0) then raiseCode .ac 0 else pure ()

/-- The length of breakpoint range `n`, none for the undefined LEN = 10 (46_debug.md R673, U6). -/
def bpLen (dr7 : Word32) (n : Nat) : Option Nat :=
  match (bits2 dr7 (18 + 4 * n)).toNat with
  | 0 => some 1
  | 1 => some 2
  | 2 => none
  | _ => some 4

/-- The R/W field of breakpoint `n` (10_state.md R97). -/
def bpRw (dr7 : Word32) (n : Nat) : Nat := (bits2 dr7 (16 + 4 * n)).toNat

/-- Is breakpoint `n` enabled (46_debug.md R670)? -/
def bpEnabled (dr7 : Word32) (n : Nat) : Bool := bit dr7 (2 * n) || bit dr7 (2 * n + 1)

/-- Does an access of `n` bytes at `la` touch the range of a breakpoint (46_debug.md R673, R676)? -/
def bpHit (dr7 dr : Word32) (i : Nat) (la : Word32) (n : Nat) (write : Bool) : Bool :=
  ((decide (bpRw dr7 i = 1) && write) || decide (bpRw dr7 i = 3)) &&
    match bpLen dr7 i with
    | none => false
    | some len =>
      (linearSpan la n).any (fun x => decide (dr.toNat - dr.toNat % len ≤ x) && decide (x < dr.toNat - dr.toNat % len + len))

/-- `data_bp_check`: record the data breakpoints an access meets (46_debug.md R676). Every family reports them exactly, an
i386 whose LE and GE are 0 too, where the spec lets a report come late or not at all (10_state.md R96, 46_debug.md R671):
DESIGN CHOICE, log entry 41. -/
def State.dataBp (s : State) (la : Word32) (n : Nat) (write : Bool) : State :=
  let h0 := bpHit s.dr7 s.dr0 0 la n write
  let h1 := bpHit s.dr7 s.dr1 1 la n write
  let h2 := bpHit s.dr7 s.dr2 2 la n write
  let h3 := bpHit s.dr7 s.dr3 3 la n write
  let en := (h0 && bpEnabled s.dr7 0) || (h1 && bpEnabled s.dr7 1) || (h2 && bpEnabled s.dr7 2) || (h3 && bpEnabled s.dr7 3)
  { s with dbPending :=
      { s.dbPending with
        hit0 := s.dbPending.hit0 || h0
        hit1 := s.dbPending.hit1 || h1
        hit2 := s.dbPending.hit2 || h2
        hit3 := s.dbPending.hit3 || h3
        enabledHit := s.dbPending.enabledHit || en } }

/-- An access that has passed every check: where it is, linearly and physically. -/
structure Slot where
  la : Word32
  addrs : List Nat
  deriving DecidableEq, Repr

/-- Steps 1 to 4 of 20_memory.md R127: segment checks, linear address, alignment, paging. -/
def probe (seg : SegState) (isSs : Bool) (off : Word32) (n align : Nat) (acc : Acc) : M Slot := do
  segCheck seg isSs off n acc.write
  let la := seg.base + off
  alignCheck la align acc.user
  pure ⟨la, ← linAddrs la n acc⟩

/-- Steps 5 and 6 of 20_memory.md R127 for a read. -/
def slotRead (slot : Slot) : M Nat := do
  let v ← physReadAt slot.addrs
  modify (fun s => s.dataBp slot.la slot.addrs.length false)
  pure v

/-- Steps 5 and 6 of 20_memory.md R127 for a write. -/
def slotWrite (slot : Slot) (v : Nat) : M Unit := do
  physWriteAt slot.addrs v
  modify (fun s => s.dataBp slot.la slot.addrs.length true)

/-- The access record of an ordinary access (22_paging.md R270, R285). -/
def State.userAcc (s : State) (write : Bool) : Acc := ⟨decide (s.cpl = 3), write⟩

/-- Check an ordinary read or write through a segment register (20_memory.md R127). -/
def memProbe (r : SegReg) (off : Word32) (n align : Nat) (write : Bool) : M Slot := do
  let s ← get
  probe (s.seg r) (decide (r = .ss)) off n align (s.userAcc write)

/-- `MemRead(seg, off, n)` (20_memory.md R127). -/
def memRead (r : SegReg) (off : Word32) (n align : Nat) : M Nat := do slotRead (← memProbe r off n align false)

/-- `MemWrite(seg, off, n, v)` (20_memory.md R127). -/
def memWrite (r : SegReg) (off : Word32) (n align v : Nat) : M Unit := do slotWrite (← memProbe r off n align true) v

/-- The stack pointer as an offset, by the B bit (42_control_transfer.md R451). -/
def spOf (b : Bool) (esp : Word32) : Word32 := if b then esp else (lo16 esp).setWidth 32

/-- A stack pointer moved to `x`, by the B bit (42_control_transfer.md R451). -/
def spPut (b : Bool) (esp x : Word32) : Word32 := if b then x else setLo16 esp (lo16 x)

/-- `SP_get()` (42_control_transfer.md R451). -/
def State.sp (s : State) : Word32 := spOf s.ss.attr.db (s.reg .esp)

/-- `SP_set(x)` (42_control_transfer.md R451). -/
def State.setSp (s : State) (x : Word32) : State := s.setReg .esp (spPut s.ss.attr.db (s.reg .esp) x)

/-- The offsets of pushes of `b` bytes from a stack pointer, first push first (42_control_transfer.md R452). -/
def pushOffsets (big : Bool) (sp : Word32) (b : Nat) : Nat → List Word32
  | 0 => []
  | k + 1 =>
    let new := spOf big (sp - BitVec.ofNat 32 b)
    new :: pushOffsets big new b k

/-- Is there room for the pushes within the segment's limit? -/
def roomFor (seg : SegState) (sp : Word32) (b k : Nat) : Bool :=
  (pushOffsets seg.attr.db (spOf seg.attr.db sp) b k).all (fun off => inLimit seg off b)

/-- Check each push of a sequence, first push first (42_control_transfer.md R452). -/
def probePushes (seg : SegState) (b : Nat) (user : Bool) : List Word32 → M (List Slot)
  | [] => pure []
  | off :: offs => do
    let x ← probe seg true off b b ⟨user, true⟩
    let xs ← probePushes seg b user offs
    pure (x :: xs)

/-- Write checked pushes, recording data breakpoints. -/
def writeSlots : List Slot → List Nat → M Unit
  | [], _ => pure ()
  | _ :: _, [] => pure ()
  | x :: xs, v :: vs => do
    slotWrite x v
    writeSlots xs vs

/-- Write checked pushes of a delivery: no data breakpoint is matched (46_debug.md R676). -/
def writeSlotsQuiet : List Slot → List Nat → M Unit
  | [], _ => pure ()
  | _ :: _, [] => pure ()
  | x :: xs, v :: vs => do
    physWriteAt x.addrs v
    writeSlotsQuiet xs vs

/-- The stack pointer after `k` pushes of `b` bytes. -/
def spAfter (big : Bool) (sp : Word32) (b k : Nat) : Word32 := spOf big (spOf big sp - BitVec.ofNat 32 (b * k))

/-- `Push_b` of one value (42_control_transfer.md R452). -/
def push (b v : Nat) : M Unit := do
  let s ← get
  let new := spAfter s.ss.attr.db (s.reg .esp) b 1
  memWrite .ss new b b v
  modify (fun s => s.setSp new)

end Sys2Proof.Machine
end

