-- ==== Sys2Proof/Machine/Operands.lean ====
section
/-! DEFINITION. The operands of an instruction: sizes, effective addresses, the 16-bit r/m operands of
40_system_registers.md R420, relative targets (42_control_transfer.md R453), and the checks on prefixes made before an
instruction does anything (30_encoding.md R339, R340). -/

namespace Sys2Proof.Machine

open Sys2Proof

/-- Is the operand size 32 bits (30_encoding.md R335)? -/
def State.op32 (s : State) (p : Prefixes) : Bool := opSize32 s.cs.attr.db p

/-- The operand size in bytes (30_encoding.md R335). -/
def State.opBytes (s : State) (p : Prefixes) : Nat := if s.op32 p then 4 else 2

/-- Is the address size 32 bits (30_encoding.md R335)? -/
def State.addr32 (s : State) (p : Prefixes) : Bool := addrSize32 s.cs.attr.db p

/-- A 16-bit displacement, an 8-bit one sign-extended (30_encoding.md R351). -/
def Disp16.value : Disp16 → Word16
  | .none => 0
  | .d8 d => d.signExtend 16
  | .d16 d => d

/-- A 32-bit displacement, an 8-bit one sign-extended (30_encoding.md R351). -/
def Disp32.value : Disp32 → Word32
  | .none => 0
  | .d8 d => d.signExtend 32
  | .d32 d => d

/-- The base and index sum of 16-bit addressing (30_encoding.md R347). -/
def State.base16 (s : State) : Base16 → Word16
  | .bxsi => lo16 (s.reg .ebx) + lo16 (s.reg .esi)
  | .bxdi => lo16 (s.reg .ebx) + lo16 (s.reg .edi)
  | .bpsi => lo16 (s.reg .ebp) + lo16 (s.reg .esi)
  | .bpdi => lo16 (s.reg .ebp) + lo16 (s.reg .edi)
  | .si => lo16 (s.reg .esi)
  | .di => lo16 (s.reg .edi)
  | .bp => lo16 (s.reg .ebp)
  | .bx => lo16 (s.reg .ebx)

/-- The scaled index of a SIB byte; index 100B means none (30_encoding.md R346). -/
def State.scaledIndex (s : State) (scale : BitVec 2) (index : Reg) : Word32 :=
  if index = .esp then 0 else s.reg index <<< scale.toNat

/-- The effective address of a memory operand (30_encoding.md R336, R346, R347). -/
def State.ea (s : State) : MemOp → Word32
  | .direct16 d => d.setWidth 32
  | .based16 b d => (s.base16 b + Disp16.value d).setWidth 32
  | .direct32 d => d
  | .based32 b d => s.reg b + Disp32.value d
  | .sib scale index b d => s.reg b + s.scaledIndex scale index + Disp32.value d
  | .sibNoBase scale index d => s.scaledIndex scale index + d

/-- The default segment of a memory operand (30_encoding.md R350). -/
def defaultSeg : MemOp → SegReg
  | .direct16 _ => .ds
  | .based16 b _ =>
    match b with
    | .bpsi => .ss
    | .bpdi => .ss
    | .bp => .ss
    | .bxsi => .ds
    | .bxdi => .ds
    | .si => .ds
    | .di => .ds
    | .bx => .ds
  | .direct32 _ => .ds
  | .based32 b _ => if b = .ebp then .ss else .ds
  | .sib _ _ b _ => if b = .ebp ∨ b = .esp then .ss else .ds
  | .sibNoBase _ _ _ => .ds

/-- The segment a memory operand is in: the default, or the one an override names (30_encoding.md R337, R350). -/
def operandSeg (p : Prefixes) (m : MemOp) : SegReg := p.segOverride.getD (defaultSeg m)

/-- A LOCK prefix before an instruction of this spec raises `#UD` (30_encoding.md R340). -/
def noLock (p : Prefixes) : M Unit := if p.has .lock then raiseUd else pure ()

/-- The prefix checks of an instruction that does not repeat: LOCK raises `#UD` (30_encoding.md R340), a repeat prefix
is refused (R339, U17). -/
def plainPrefixes (p : Prefixes) : M Unit := do
  noLock p
  if p.hasRep then refuse .repeatPrefix else pure ()

/-- Read a memory operand at an offset from its effective address. -/
def readMem (p : Prefixes) (m : MemOp) (at_ n align : Nat) : M Nat := do
  memRead (operandSeg p m) ((← get).ea m + BitVec.ofNat 32 at_) n align

/-- The limit and type check of a memory operand of several parts, over its whole extent of `n` bytes: no part of it wraps
around (21_segmentation.md R234, 20_memory.md R121). -/
def checkExtent (p : Prefixes) (m : MemOp) (n : Nat) (write : Bool) : M Unit := do
  let s ← get
  let r := operandSeg p m
  segCheck (s.seg r) (decide (r = .ss)) (s.ea m) n write

/-- Check a write of a memory operand at an offset from its effective address. -/
def probeMem (p : Prefixes) (m : MemOp) (at_ n align : Nat) : M Slot := do
  memProbe (operandSeg p m) ((← get).ea m + BitVec.ofNat 32 at_) n align true

/-- Write a memory operand. -/
def writeMem (p : Prefixes) (m : MemOp) (n align v : Nat) : M Unit := do
  memWrite (operandSeg p m) ((← get).ea m) n align v

/-- `read_rm16` (40_system_registers.md R420). -/
def readRm16 (p : Prefixes) : Rm → M Word16
  | .reg r => do pure (lo16 ((← get).reg r))
  | .mem m => do pure (BitVec.ofNat 16 (← readMem p m 0 2 2))

/-- `write_rm16` of SLDT, STR, SMSW and MOV from a segment register: a memory destination gets 2 bytes, a register its
low word, and with a 32-bit operand size its upper half is a free value (40_system_registers.md R377, R420, U21). -/
def storeRm16 (p : Prefixes) (rm : Rm) (v : Word16) : M Unit :=
  match rm with
  | .reg r => do
    if (← get).op32 p then do
      let f ← freshWord
      modify (fun s => s.setReg r (setLo16 f v))
    else modify (fun s => s.setReg16 r v)
  | .mem m => writeMem p m 2 2 v.toNat

/-- An r/m operand of operand size, zero-extended (42_control_transfer.md R453, R468). -/
def readRmV (p : Prefixes) : Rm → M Word32
  | .reg r => do
    let s ← get
    pure (if s.op32 p then s.reg r else (lo16 (s.reg r)).setWidth 32)
  | .mem m => do
    let b := (← get).opBytes p
    pure (BitVec.ofNat 32 (← readMem p m 0 b b))

/-- Write a general register at operand size: the low word alone with a 16-bit operand size (30_encoding.md R361). -/
def State.setRegV (s : State) (p : Prefixes) (r : Reg) (v : Word32) : State :=
  if s.op32 p then s.setReg r v else s.setReg16 r (lo16 v)

/-- The offset of the next instruction: `n` bytes after the prefixes (42_control_transfer.md R453). -/
def State.nextPc (s : State) (p : Prefixes) (n : Nat) : Word32 := s.eip + BitVec.ofNat 32 (p.length + n)

/-- A 16-bit operand size keeps only the low half of a target (42_control_transfer.md R453). -/
def truncTarget (wide : Bool) (t : Word32) : Word32 := if wide then t else (lo16 t).setWidth 32

/-- The target of a relative transfer (42_control_transfer.md R453). -/
def State.relTarget (s : State) (p : Prefixes) (n : Nat) (disp : Word32) : Word32 :=
  truncTarget (s.op32 p) (s.nextPc p n + disp)

/-- A relative displacement, sign-extended (42_control_transfer.md R453). -/
def Rel.value : Rel → Word32
  | .w16 d => d.signExtend 32
  | .w32 d => d

/-- The offset of a direct far pointer (42_control_transfer.md R470). -/
def FarPtr.off : FarPtr → Word32
  | .p16 off _ => off.setWidth 32
  | .p32 off _ => off

/-- The selector of a direct far pointer. -/
def FarPtr.sel : FarPtr → Word16
  | .p16 _ sel => sel
  | .p32 _ sel => sel

/-- A far pointer in memory: the offset of `b` bytes, then the selector. The limit check takes the `b + 2` bytes as one
operand (20_memory.md R121, 42_control_transfer.md R467). -/
def readFar (p : Prefixes) (m : MemOp) (b : Nat) : M (Word32 × Word16) := do
  checkExtent p m (b + 2) false
  let off ← readMem p m 0 b b
  let sel ← readMem p m b 2 2
  pure (BitVec.ofNat 32 off, BitVec.ofNat 16 sel)

end Sys2Proof.Machine
end

