-- ==== Sys2Proof/Machine/Descriptor.lean ====
section
/-! DEFINITION. Selectors, descriptors and descriptor tables (21_segmentation.md R190 to R213), the error codes that name
a selector (60_exceptions.md R820), and the checks made when a segment register is loaded (42_control_transfer.md R455 to
R462). -/

namespace Sys2Proof.Machine

open Sys2Proof

/-- The requested privilege level of a selector (21_segmentation.md R190). -/
def rpl (sel : Word16) : BitVec 2 := sel.extractLsb' 0 2

/-- The table indicator of a selector (21_segmentation.md R190). -/
def selTi (sel : Word16) : Bool := sel.getLsbD 2

/-- The index of a selector (21_segmentation.md R190). -/
def selIndex (sel : Word16) : Nat := sel.toNat / 8

/-- The null selectors (21_segmentation.md R191). -/
def isNull (sel : Word16) : Bool := decide (sel.toNat < 4)

/-- A selector with its RPL field replaced (42_control_transfer.md R456). -/
def withRpl (sel : Word16) (l : BitVec 2) : Word16 := sel.extractLsb' 2 14 ++ l

/-- A descriptor or gate: its two doublewords (21_segmentation.md R192). -/
structure Desc where
  lo : Word32
  hi : Word32
  deriving DecidableEq, Repr

/-- The base address (21_segmentation.md R192). -/
def descBase (d : Desc) : Word32 := d.hi.extractLsb' 24 8 ++ d.hi.extractLsb' 0 8 ++ d.lo.extractLsb' 16 16

/-- The 20-bit limit field (21_segmentation.md R192). -/
def descLimit20 (d : Desc) : BitVec 20 := d.hi.extractLsb' 16 4 ++ d.lo.extractLsb' 0 16

/-- The effective limit (21_segmentation.md R196). -/
def effLimit (limit20 : BitVec 20) (g : Bool) : Word32 := if g then limit20 ++ 0xFFF#12 else limit20.setWidth 32

/-- The type field (21_segmentation.md R192). -/
def descType (d : Desc) : BitVec 4 := d.hi.extractLsb' 8 4

/-- The S flag (21_segmentation.md R197). -/
def descS (d : Desc) : Bool := bit d.hi 12

/-- The descriptor privilege level (21_segmentation.md R200). -/
def descDpl (d : Desc) : BitVec 2 := bits2 d.hi 13

/-- The present flag (21_segmentation.md R201). -/
def descP (d : Desc) : Bool := bit d.hi 15

/-- The attributes a descriptor cache keeps (21_segmentation.md R192, R202, R207). -/
def descAttr (d : Desc) : Attr :=
  ⟨descType d, descS d, descDpl d, descP d, bit d.hi 20, bit d.hi 22, bit d.hi 23⟩

/-- The effective limit of a descriptor (21_segmentation.md R196). -/
def descLimit (d : Desc) : Word32 := effLimit (descLimit20 d) (bit d.hi 23)

/-- The selector in a gate (21_segmentation.md R210). -/
def gateSelector (d : Desc) : Word16 := hi16 d.lo

/-- Is a gate's type one of the 32-bit ones (21_segmentation.md R209)? -/
def gate32 (d : Desc) : Bool := (descType d).getLsbD 3

/-- The entry point in a gate (21_segmentation.md R210, 60_exceptions.md R782). -/
def gateOffset (d : Desc) : Word32 := if gate32 d then hi16 d.hi ++ lo16 d.lo else (lo16 d.lo).setWidth 32

/-- The parameter count of a call gate (21_segmentation.md R210). -/
def gateCount (d : Desc) : Nat := (d.hi.extractLsb' 0 5).toNat

/-- `selector_error_code(sel, ext)` (60_exceptions.md R820). -/
def selectorErrorCode (sel : Word16) (ext : Bool) : Word32 :=
  (sel &&& 0xFFFC#16).setWidth 32 ||| (if ext then 1 else 0)

/-- `idt_error_code(vector, ext)` (60_exceptions.md R821). -/
def idtErrorCode (vector : Byte) (ext : Bool) : Word32 :=
  (vector.setWidth 32 <<< 3) ||| 2 ||| (if ext then 1 else 0)

/-- Raise an exception whose error code names a selector. -/
def raiseSel {α : Type} (e : Exc) (sel : Word16) (ext : Bool) : M α := raiseCode e (selectorErrorCode sel ext)

/-- Raise `#XX(0)`, with the EXT bit of a delivery. -/
def raiseZero {α : Type} (e : Exc) (ext : Bool) : M α := raiseSel e 0 ext

/-- `TableRead`: none when the entry is not wholly inside the table (21_segmentation.md R203, R206). -/
def tableRead (base : Word32) (limit : Nat) (ok : Bool) (index : Nat) : M (Option Desc) := do
  if !ok || decide (index * 8 + 7 > limit) then pure none
  else do
    let v ← linRead (base + BitVec.ofNat 32 (index * 8)) 8 Acc.supRead
    pure (some ⟨BitVec.ofNat 32 v, BitVec.ofNat 32 (v / 2 ^ 32)⟩)

/-- The base of the table a selector names (21_segmentation.md R205). -/
def State.tableBase (s : State) (sel : Word16) : Word32 := if selTi sel then s.ldtr.base else s.gdtr.base

/-- `ReadDescriptor(sel)` (21_segmentation.md R205, R206). -/
def readDescriptor (sel : Word16) : M (Option Desc) := do
  let s ← get
  if selTi sel then tableRead s.ldtr.base s.ldtr.limit.toNat s.ldtr.valid (selIndex sel)
  else tableRead s.gdtr.base s.gdtr.limit.toNat true (selIndex sel)

/-- The linear address of the byte of a descriptor at an offset. -/
def State.descAddr (s : State) (sel : Word16) (off : Nat) : Word32 :=
  s.tableBase sel + BitVec.ofNat 32 (selIndex sel * 8 + off)

/-- A descriptor that must exist: `raise` says what a reference outside its table does. -/
def needDescriptor (sel : Word16) (e : Exc) (ext : Bool) : M Desc := do
  match ← readDescriptor sel with
  | some d => pure d
  | none => raiseSel e sel ext

/-- Does a load of the descriptor write its accessed bit? An i386 always does, the later families when the bit is clear
(21_segmentation.md R199, 20_memory.md R155). -/
def marksAccessed (p : Params) (d : Desc) : Bool :=
  descS d && (decide (p.family = .i386) || !(descType d).getLsbD 0)

/-- The first half of `SetAccessed`: find the access-rights byte, checked for writing, when it is to be written
(21_segmentation.md R199, 42_control_transfer.md R461). -/
def probeAccessed (sel : Word16) (d : Desc) : M (List Nat) := do
  let s ← get
  if marksAccessed s.params d then linAddrs (s.descAddr sel 5) 1 Acc.supWrite else pure []

/-- The second half of `SetAccessed`: set the bit (21_segmentation.md R199). -/
def commitAccessed (addrs : List Nat) : M Unit := do
  match addrs with
  | [] => pure ()
  | _ :: _ => do
    let b ← physReadAt addrs
    physWriteAt addrs (b ||| 1)

/-- Attributes with the accessed bit of a code or data segment set. -/
def withAccessed (a : Attr) : Attr := if a.s then { a with type := a.type ||| 1 } else a

/-- A segment register loaded from a descriptor (10_state.md R56, 42_control_transfer.md R457). -/
def segFrom (sel : Word16) (d : Desc) : SegState := ⟨sel, descBase d, descLimit d, withAccessed (descAttr d), true⟩

/-- The target-offset limit check (42_control_transfer.md R454). -/
def checkTarget (limit target : Word32) (ext : Bool) : M Unit :=
  if target.toNat > limit.toNat then raiseZero .gp ext else pure ()

/-- `fetch_code(csel)` (42_control_transfer.md R456). -/
def fetchCode (csel : Word16) (ext : Bool) : M Desc := do
  if isNull csel then raiseZero .gp ext
  else do
    let d ← needDescriptor csel .gp ext
    if isCode (descAttr d) then pure d else raiseSel .gp csel ext

/-- `commit_cs` once its accessed bit has been probed (42_control_transfer.md R456). -/
def commitCs (csel : Word16) (d : Desc) (l : BitVec 2) (acc : List Nat) : M Unit := do
  commitAccessed acc
  modify (fun s => { s with cs := segFrom (withRpl csel l) d })

/-- The checks on a stack segment against a level, reported as `e` (42_control_transfer.md R457, R479, R494). -/
def checkSs (sel : Word16) (lvl : BitVec 2) (e : Exc) (ext : Bool) : M Desc := do
  if isNull sel then raiseZero e ext
  else do
    let d ← needDescriptor sel e ext
    if rpl sel ≠ lvl then raiseSel e sel ext
    else if !writable (descAttr d) then raiseSel e sel ext
    else if descDpl d ≠ lvl then raiseSel e sel ext
    else if !descP d then raiseSel .ss sel ext
    else pure d

/-- The privilege test of a data segment (21_segmentation.md R218). -/
def dataPrivilegeOk (cpl : BitVec 2) (sel : Word16) (d : Desc) : Bool :=
  decide (cpl.toNat ≤ (descDpl d).toNat) && decide ((rpl sel).toNat ≤ (descDpl d).toNat)

/-- The checks of a load of DS, ES, FS or GS with a selector that is not null (42_control_transfer.md R458). -/
def checkData (sel : Word16) : M Desc := do
  let d ← needDescriptor sel .gp false
  if !readable (descAttr d) then raiseSel .gp sel false
  else if !conforming (descAttr d) && !dataPrivilegeOk (← get).cpl sel d then raiseSel .gp sel false
  else if !descP d then raiseSel .np sel false
  else pure d

/-- Attributes in virtual-8086 mode: byte granular, 16-bit, DPL 3, present (42_control_transfer.md R462, 43_tasks.md R564).
The accessed bit 1, the AVL bit 0 and, for CS, the conforming bit 0 are not stated: DESIGN CHOICE, log entry 42. -/
def attrV86 (code : Bool) : Attr := ⟨if code then 11 else 3, true, 3, true, false, false, false⟩

/-- A segment register after a load in real-address or virtual-8086 mode (42_control_transfer.md R462). 10_state.md R57 says
of both modes that the limit and the attributes "are those of rule R58" (FFFFH, DPL 0), R462 that real-address mode leaves
them as they are and virtual-8086 mode sets FFFFH and DPL 3: the model follows R462. DEDUCED, log entry 49. -/
def realSeg (v86 code : Bool) (old : SegState) (sel : Word16) : SegState :=
  { old with
    sel := sel
    base := sel.setWidth 32 <<< 4
    valid := true
    limit := if v86 then 0xFFFF else old.limit
    attr := if v86 then attrV86 code else old.attr }

/-- `real_load(r, sel)` (42_control_transfer.md R462). -/
def State.realLoad (s : State) (r : SegReg) (sel : Word16) : State :=
  s.setSeg r (realSeg s.v86 (decide (r = .cs)) (s.seg r) sel)

/-- `LoadSeg(r, sel)`: a direct load of a segment register other than CS (42_control_transfer.md R455). -/
def loadSeg (r : SegReg) (sel : Word16) : M Unit := do
  let s ← get
  if !s.protectedMode then set (s.realLoad r sel)
  else if r = .ss then do
    let d ← checkSs sel s.cpl .gp false
    commitAccessed (← probeAccessed sel d)
    modify (fun s => s.setSeg .ss (segFrom sel d))
  else if isNull sel then set (s.setSeg r { s.seg r with sel := sel, valid := false })
  else do
    let d ← checkData sel
    commitAccessed (← probeAccessed sel d)
    modify (fun s => s.setSeg r (segFrom sel d))

/-- A data-segment register on a return to an outer level (42_control_transfer.md R498). -/
def nullOuter (l : BitVec 2) (g : SegState) : SegState :=
  if g.valid && decide (g.attr.dpl.toNat < l.toNat) && !conforming g.attr then { g with sel := 0, valid := false } else g

/-- `null_outer_data_segments(newCPL)` (42_control_transfer.md R498). -/
def State.nullOuterSegments (s : State) (l : BitVec 2) : State :=
  { s with es := nullOuter l s.es, ds := nullOuter l s.ds, fs := nullOuter l s.fs, gs := nullOuter l s.gs }

/-- Is TR's TSS a 32-bit one (43_tasks.md R521)? -/
def State.tss32 (s : State) : Bool := s.tr.attr.type.getLsbD 3

/-- `tss_stack(lvl)`: the inner stack pointer from the TSS (42_control_transfer.md R478). -/
def tssStack (lvl : BitVec 2) (ext : Bool) : M (Word16 × Word32) := do
  let s ← get
  if !s.tr.valid then raiseZero .ts ext
  else if s.tss32 then do
    let a := 4 + 8 * lvl.toNat
    if a + 7 > s.tr.limit.toNat then raiseSel .ts s.tr.sel ext
    else do
      let esp ← linRead (s.tr.base + BitVec.ofNat 32 a) 4 Acc.supRead
      let ss ← linRead (s.tr.base + BitVec.ofNat 32 (a + 4)) 2 Acc.supRead
      pure (BitVec.ofNat 16 ss, BitVec.ofNat 32 esp)
  else do
    let a := 2 + 4 * lvl.toNat
    if a + 3 > s.tr.limit.toNat then raiseSel .ts s.tr.sel ext
    else do
      let esp ← linRead (s.tr.base + BitVec.ofNat 32 a) 2 Acc.supRead
      let ss ← linRead (s.tr.base + BitVec.ofNat 32 (a + 2)) 2 Acc.supRead
      pure (BitVec.ofNat 16 ss, BitVec.ofNat 32 esp)

end Sys2Proof.Machine
end

