-- ==== Sys2Proof/Machine/Flags.lean ====
section
/-! DEFINITION. The EFLAGS register: which bits exist, what each kind of load writes (10_state.md R40 to R52, 44_io.md
R604, 45_interrupt_instructions.md R642, 60_exceptions.md R806), and the fixed bits of CR3. -/

namespace Sys2Proof.Machine

open Sys2Proof

/-- The bits of EFLAGS that are not reserved (10_state.md R40): bits 0, 2, 4, 6 to 14, RF, VM, and those of the
family's features. -/
def eflagsMask (p : Params) : Word32 :=
  0x00037FD5 ||| (if p.hasAC then 0x00040000 else 0) ||| (if p.hasVME then 0x00180000 else 0) |||
    (if p.hasID then 0x00200000 else 0)

/-- A value written to EFLAGS, with the reserved bits at their fixed values (10_state.md R40). -/
def fixEflags (p : Params) (v : Word32) : Word32 := (v &&& eflagsMask p) ||| 2

/-- Take the bits of `mask` from `new` and the others from `old`. -/
def mergeBits (mask old new : Word32) : Word32 := (old &&& ~~~mask) ||| (new &&& mask)

/-- Write the bits of `mask` in EFLAGS from `v`; reserved bits keep their fixed values (10_state.md R40). -/
def State.mergeEflags (s : State) (mask v : Word32) : State :=
  { s with eflags := fixEflags s.params (mergeBits mask s.eflags v) }

/-- A value is to be written whose reserved bits are as they read, or not: where not, the write goes on or is refused, as the
parameter says (00_scope.md R8, U1; log entry 22). -/
def requireAsRead (asRead : Bool) : M Unit := do
  if decide ((← get).params.reservedWrites = .refuse) && !asRead then refuse .reservedBits else pure ()

/-- Has an image of EFLAGS, of 32 or of 16 bits, its reserved bits as they read (10_state.md R40)? -/
def eflagsAsRead (p : Params) (wide : Bool) (v : Word32) : Bool :=
  decide ((v ^^^ 2) &&& ~~~(eflagsMask p) &&& (if wide then 0xFFFFFFFF else 0x0000FFFF) = 0)

/-- Load the bits of `mask` from an image of EFLAGS (44_io.md R604, 45_interrupt_instructions.md R642; 00_scope.md R8). -/
def loadEflags (wide : Bool) (mask v : Word32) : M Unit := do
  requireAsRead (eflagsAsRead (← get).params wide v)
  modify (fun s => s.mergeEflags mask v)

/-- Give one bit of EFLAGS a value. -/
def State.setFlag (s : State) (n : Nat) (b : Bool) : State := { s with eflags := setBit s.eflags n b }

/-- EFLAGS on entry to a handler through a gate: TF, NT, VM and RF cleared, IF too through an interrupt gate
(60_exceptions.md R806). -/
def enterFlags (e : Word32) (interruptGate : Bool) : Word32 :=
  e &&& ~~~(0x00034100 ||| (if interruptGate then 0x00000200 else 0))

/-- The bits POPF and POPFD load, by the operand size, the privilege level and the IOPL in force (44_io.md R604). -/
def popfMask (p : Params) (iopl : BitVec 2) (wide : Bool) (cpl : BitVec 2) : Word32 :=
  0x00004DD5 ||| (if cpl.toNat ≤ iopl.toNat then 0x00000200 else 0) ||| (if cpl = 0 then 0x00003000 else 0) |||
    (if wide then 0x00010000 ||| (if p.hasAC then 0x00040000 else 0) ||| (if p.hasID then 0x00200000 else 0) else 0)

/-- The bits IRET and IRETD load: those of POPF, and VIF, VIP at level 0; VM where `vm` says so
(45_interrupt_instructions.md R642). -/
def iretMask (p : Params) (iopl : BitVec 2) (wide : Bool) (cpl : BitVec 2) (vm : Bool) : Word32 :=
  popfMask p iopl wide cpl |||
    (if wide && decide (cpl = 0) then
      (if p.hasVME then 0x00180000 else 0) ||| (if vm then 0x00020000 else 0) else 0)

/-- What a CR3 load keeps of a value: the base, PCD and PWT (10_state.md R85). -/
def cr3Value (pae : Bool) (v : Word32) : Word32 := v &&& (if pae then 0xFFFFFFF8 else 0xFFFFF018)

/-- Has a value for CR3 its reserved bits as they read, 0 (10_state.md R85)? -/
def cr3AsRead (pae : Bool) (v : Word32) : Bool := decide (cr3Value pae v = v)

end Sys2Proof.Machine
end

