-- ==== Sys2Proof/Machine/Task.lean ====
section
/-! DEFINITION. The task switch (43_tasks.md R542 to R549), one procedure with four callers. -/

namespace Sys2Proof.Machine

open Sys2Proof

/-- The kinds of task switch: the four of 43_tasks.md R540, and the one that the task-switch trap of a debug handler's own task
makes to that task again (46_debug.md R688). -/
inductive SwitchKind where
  | jmp | call | int | iret | again
  deriving DecidableEq, Repr

/-- Is the new task nested in the old one (43_tasks.md R540)? -/
def SwitchKind.nest : SwitchKind → Bool
  | .jmp => false
  | .call => true
  | .int => true
  | .iret => false
  | .again => true

/-- Is a descriptor a TSS descriptor: types 1, 3, 9, BH (43_tasks.md R542)? -/
def isTss (d : Desc) : Bool := !descS d && decide ((descType d).toNat ∈ [1, 3, 9, 11])

/-- Does the kind of switch refuse a busy task (43_tasks.md R542)? The loop of 46_debug.md R688 enters the busy task again, log
entry 43. -/
def SwitchKind.needsAvailable : SwitchKind → Bool
  | .jmp => true
  | .call => true
  | .int => true
  | .iret => false
  | .again => false

/-- `fetch_tss` (43_tasks.md R542). -/
def fetchTss (tsel : Word16) (kind : SwitchKind) (ext : Bool) : M Desc := do
  let s ← get
  let bad : Exc := if kind = .iret then .ts else .gp
  if isNull tsel then raiseSel bad tsel ext
  else if selTi tsel then raiseSel bad tsel ext
  else do
    match ← tableRead s.gdtr.base s.gdtr.limit.toNat true (selIndex tsel) with
    | none => raiseSel bad tsel ext
    | some d => do
      let busy := (descType d).getLsbD 1
      if !isTss d then raiseSel bad tsel ext
      else if !descP d then raiseSel .np tsel ext
      else if kind.needsAvailable && busy then raiseSel .gp tsel ext
      else if decide (kind = .iret) && !busy then raiseSel .ts tsel ext
      else if (descLimit d).toNat < (if gate32 d then 0x67 else 0x2B) then raiseSel .ts tsel ext
      else pure d

/-- A field of a TSS: its offset and size. -/
abbrev Field := Nat × Nat

/-- The fields the processor saves: instruction pointer, flags, general registers, segment registers (43_tasks.md R545
phase B, R521, R525). -/
def savedFields (wide : Bool) : List Field :=
  if wide then
    [(0x20, 4), (0x24, 4), (0x28, 4), (0x2C, 4), (0x30, 4), (0x34, 4), (0x38, 4), (0x3C, 4), (0x40, 4), (0x44, 4),
     (0x48, 2), (0x4C, 2), (0x50, 2), (0x54, 2), (0x58, 2), (0x5C, 2)]
  else
    [(0x0E, 2), (0x10, 2), (0x12, 2), (0x14, 2), (0x16, 2), (0x18, 2), (0x1A, 2), (0x1C, 2), (0x1E, 2), (0x20, 2),
     (0x22, 2), (0x24, 2), (0x26, 2), (0x28, 2)]

/-- The fields read beside the saved ones: the LDT selector and, in a 32-bit TSS, the word with the T bit (R545 phase
C). -/
def extraFields (wide : Bool) : List Field := if wide then [(0x60, 2), (0x64, 2)] else [(0x2A, 2)]

/-- The values saved into the outgoing TSS, in the order of `savedFields` (43_tasks.md R543). -/
def savedValues (s : State) (retEip img : Word32) : List Nat :=
  [retEip.toNat, img.toNat, (s.reg .eax).toNat, (s.reg .ecx).toNat, (s.reg .edx).toNat, (s.reg .ebx).toNat,
   (s.reg .esp).toNat, (s.reg .ebp).toNat, (s.reg .esi).toNat, (s.reg .edi).toNat, s.es.sel.toNat, s.cs.sel.toNat,
   s.ss.sel.toNat, s.ds.sel.toNat, s.fs.sel.toNat, s.gs.sel.toNat]

/-- Translate every field of a TSS (43_tasks.md R545 phase A, R546). -/
def resolveFields (base : Word32) (acc : Acc) : List Field → M (List (List Nat))
  | [] => pure []
  | (off, n) :: fs => do
    let a ← linAddrs (base + BitVec.ofNat 32 off) n acc
    let as ← resolveFields base acc fs
    pure (a :: as)

/-- Write values at translated places. -/
def writeFields : List (List Nat) → List Nat → M Unit
  | [], _ => pure ()
  | _ :: _, [] => pure ()
  | a :: as, v :: vs => do
    physWriteAt a v
    writeFields as vs

/-- Read values from translated places. -/
def readFields : List (List Nat) → M (List Nat)
  | [] => pure []
  | a :: as => do
    let v ← physReadAt a
    let vs ← readFields as
    pure (v :: vs)

/-- Change bits of one byte: clear those of `clear`, set those of `set`. -/
def updateByte (addrs : List Nat) (clear set : Nat) : M Unit := do
  let b ← physReadAt addrs
  physWriteAt addrs ((b &&& (255 - clear)) ||| set)

/-- The values of a new TSS by position in `savedFields` and `extraFields`. -/
def word (vs : List Nat) (i : Nat) : Word32 := BitVec.ofNat 32 (vs.getD i 0)

/-- A selector of a new TSS by position. -/
def half (vs : List Nat) (i : Nat) : Word16 := BitVec.ofNat 16 (vs.getD i 0)

/-- A general register loaded from a 16-bit TSS: the upper half is a free value (43_tasks.md R525, U27). -/
def loadHalfReg (vs : List Nat) (i : Nat) : M Word32 := do
  let f ← freshWord
  pure (setLo16 f (half vs i))

/-- The general registers loaded from a TSS (43_tasks.md R545 phase D). -/
def loadGprs (wide : Bool) (vs : List Nat) : M GprFile := do
  if wide then
    pure ⟨word vs 2, word vs 3, word vs 4, word vs 5, word vs 6, word vs 7, word vs 8, word vs 9⟩
  else do
    let a ← loadHalfReg vs 2
    let c ← loadHalfReg vs 3
    let d ← loadHalfReg vs 4
    let b ← loadHalfReg vs 5
    let sp ← loadHalfReg vs 6
    let bp ← loadHalfReg vs 7
    let si ← loadHalfReg vs 8
    let di ← loadHalfReg vs 9
    pure ⟨a, c, d, b, sp, bp, si, di⟩

/-- A segment register that holds a new selector and is not yet checked (43_tasks.md R547). -/
def unchecked (g : SegState) (sel : Word16) : SegState := { g with sel := sel, valid := false }

/-- A segment register of a virtual-8086 task, CS too: writable data, based at sixteen times the selector (43_tasks.md
R564). -/
def v86Seg (sel : Word16) : SegState := ⟨sel, sel.setWidth 32 <<< 4, 0xFFFF, attrV86 false, true⟩

/-- The attributes TR keeps of a TSS descriptor that has been made busy; bits 22 and 21 are not kept (43_tasks.md R526,
U15). -/
def tssAttr (d : Desc) : Attr := { descAttr d with type := descType d ||| 2, db := false }

/-- Load LDTR from the selector it holds (43_tasks.md R547). -/
def loadTaskLdt (ext : Bool) : M Unit := do
  let s ← get
  let sel := s.ldtr.sel
  if isNull sel then pure ()
  else if selTi sel then raiseSel .ts sel ext
  else do
    match ← tableRead s.gdtr.base s.gdtr.limit.toNat true (selIndex sel) with
    | none => raiseSel .ts sel ext
    | some d =>
      if descS d || decide (descType d ≠ 2) then raiseSel .ts sel ext
      else if !descP d then raiseSel .ts sel ext
      else modify (fun s => { s with ldtr := ⟨sel, descBase d, descLimit d, descAttr d, true⟩ })

/-- Check and load CS of the new task (43_tasks.md R547). -/
def loadTaskCs (newCpl : BitVec 2) (ext : Bool) : M Unit := do
  let sel := (← get).cs.sel
  if isNull sel then raiseSel .ts sel ext
  else do
    let d ← needDescriptor sel .ts ext
    let a := descAttr d
    if !isCode a then raiseSel .ts sel ext
    else if !conforming a && decide (descDpl d ≠ newCpl) then raiseSel .ts sel ext
    else if conforming a && decide ((descDpl d).toNat > newCpl.toNat) then raiseSel .ts sel ext
    else if !descP d then raiseSel .np sel ext
    else do
      commitAccessed (← probeAccessed sel d)
      modify (fun s => { s with cs := segFrom sel d })

/-- Check and load SS of the new task (43_tasks.md R547). -/
def loadTaskSs (newCpl : BitVec 2) (ext : Bool) : M Unit := do
  let sel := (← get).ss.sel
  let d ← checkSs sel newCpl .ts ext
  commitAccessed (← probeAccessed sel d)
  modify (fun s => { s with ss := segFrom sel d })

/-- Check and load ES, DS, FS or GS of the new task (43_tasks.md R547). -/
def loadTaskData (newCpl : BitVec 2) (ext : Bool) (r : SegReg) : M Unit := do
  let sel := ((← get).seg r).sel
  if isNull sel then pure ()
  else do
    let d ← needDescriptor sel .ts ext
    let a := descAttr d
    if !readable a then raiseSel .ts sel ext
    else if !conforming a && !dataPrivilegeOk newCpl sel d then raiseSel .gp sel ext
    else if !descP d then raiseSel .np sel ext
    else do
      commitAccessed (← probeAccessed sel d)
      modify (fun s => s.setSeg r (segFrom sel d))

/-- `load_new_task_segments` (43_tasks.md R547, R564). -/
def loadTaskSegments (ext : Bool) : M Unit := do
  let s ← get
  loadTaskLdt ext
  if s.vm then
    modify (fun s => { s with
      es := v86Seg s.es.sel, cs := v86Seg s.cs.sel, ss := v86Seg s.ss.sel
      ds := v86Seg s.ds.sel, fs := v86Seg s.fs.sel, gs := v86Seg s.gs.sel })
  else do
    let newCpl := rpl s.cs.sel
    loadTaskCs newCpl ext
    loadTaskSs newCpl ext
    loadTaskData newCpl ext .es
    loadTaskData newCpl ext .ds
    loadTaskData newCpl ext .fs
    loadTaskData newCpl ext .gs

/-- Mark the exceptions of an operation as raised after the commit point of a task switch (43_tasks.md R544). -/
def afterCommit (m : M Unit) : M Unit := fun s =>
  match m s with
  | .ok a t => .ok a t
  | .error (.exn e) t => .error (.exn { e with committed := true }) t
  | .error e t => .error e t

/-- Push of an error code on the new task's stack: no alignment check and no data breakpoint (43_tasks.md R553,
46_debug.md R676). -/
def pushQuiet (b v : Nat) (ext : Bool) : M Unit := do
  let s ← get
  let new := spAfter s.ss.attr.db (s.reg .esp) b 1
  if !segOk s.protectedMode s.ss new b true then raiseZero .ss ext
  else do
    let a ← linAddrs (s.ss.base + new) b (s.userAcc true)
    physWriteAt a v
    modify (fun s => s.setSp new)

/-- Does a task switch load CR3 (43_tasks.md R548, U26)? -/
def State.taskLoadsCr3 (s : State) (wide : Bool) : Bool := wide && (s.pg || !s.params.taskCr3IfPg)

/-- EFLAGS of the new task: the image, with NT forced by the kind of switch (43_tasks.md R552). -/
def taskEflags (p : Params) (kind : SwitchKind) (img : Word32) : Word32 :=
  let e := fixEflags p img
  if kind.nest then setBit e 14 true else if kind = .jmp then setBit e 14 false else e

/-- The registers of the new task before its segments are checked (43_tasks.md R545 phase D, R548, R672). -/
def State.enterTask (s : State) (kind : SwitchKind) (wide : Bool) (cr3new : Word32) (vs : List Nat) (g : GprFile) :
    State :=
  let s1 := if s.taskLoadsCr3 wide then State.flushTlb { s with cr3 := cr3Value s.cr4Pae cr3new } else s
  { s1 with
    eflags := taskEflags s.params kind (word vs 1)
    gpr := g
    eip := word vs 0
    es := unchecked s.es (half vs 10)
    cs := unchecked s.cs (half vs 11)
    ss := unchecked s.ss (half vs 12)
    ds := unchecked s.ds (half vs 13)
    fs := unchecked s.fs (if wide then half vs 14 else 0)
    gs := unchecked s.gs (if wide then half vs 15 else 0)
    ldtr := { s.ldtr with sel := half vs (if wide then 16 else 14), valid := false }
    dr7 := s.dr7 &&& 0xFFFFFEAA
    dbPending := { s.dbPending with bs := false } }

/-- What phase A of a task switch found: the descriptor of the new TSS and the places of every byte the switch reads or
writes (43_tasks.md R545, R546). -/
structure SwitchPlan where
  nd : Desc
  oldAddrs : List (List Nat)
  oldBusy : List Nat
  newAddrs : List (List Nat)
  linkAddrs : List Nat
  newBusy : List Nat
  cr3new : Word32
  deriving DecidableEq, Repr

/-- Is the old task's busy bit cleared (43_tasks.md R540)? -/
def SwitchKind.clears (k : SwitchKind) : Bool := decide (k = .jmp) || decide (k = .iret)

/-- The places a switch reads and writes, translated before anything is written (43_tasks.md R545 phase A, R546). -/
def resolvePlan (kind : SwitchKind) (tsel : Word16) (nd : Desc) : M SwitchPlan := do
  let s ← get
  let nbase := descBase nd
  let wide := gate32 nd
  let oldAddrs ← resolveFields s.tr.base Acc.supWrite (savedFields s.tss32)
  let oldBusy ←
    if kind.clears then linAddrs (s.gdtr.base + BitVec.ofNat 32 (8 * selIndex s.tr.sel + 5)) 1 Acc.supWrite else pure []
  let newAddrs ← resolveFields nbase Acc.supRead (savedFields wide ++ extraFields wide)
  let linkAddrs ← if kind.nest then linAddrs nbase 2 Acc.supWrite else pure []
  let newBusy ←
    if kind = .iret then pure [] else linAddrs (s.gdtr.base + BitVec.ofNat 32 (8 * selIndex tsel + 5)) 1 Acc.supWrite
  let cr3new ← if wide then linRead (nbase + 0x1C) 4 Acc.supRead else pure 0
  pure ⟨nd, oldAddrs, oldBusy, newAddrs, linkAddrs, newBusy, BitVec.ofNat 32 cr3new⟩

/-- Phase A of a task switch: its checks and translations (43_tasks.md R545, R546, R548). -/
def planSwitch (kind : SwitchKind) (tsel : Word16) (ext : Bool) : M SwitchPlan := do
  let nd ← fetchTss tsel kind ext
  let s ← get
  if !s.tr.valid then raiseZero .ts ext
  else if s.tr.limit.toNat < (if s.tss32 then 0x5D else 0x29) then raiseSel .ts s.tr.sel ext
  else if kind.clears && decide (8 * selIndex s.tr.sel + 7 > s.gdtr.limit.toNat) then raiseSel .gp s.tr.sel ext
  else do
    let plan ← resolvePlan kind tsel nd
    let good ← if gate32 nd && s.pg && s.cr4Pae then pdptOk plan.cr3new else pure true
    if good then pure plan else raiseZero .gp ext

/-- The EFLAGS image saved in the outgoing TSS: NT clear for IRET, RF set for a fault (43_tasks.md R543, R545). -/
def savedImage (kind : SwitchKind) (rfImg : Bool) (e : Word32) : Word32 :=
  if kind = .iret then setBit e 14 false else if rfImg then setBit e 16 true else e

/-- Phases B and C of a task switch: the old task is saved, the new one is read and marked (43_tasks.md R545). The answer is
the values of the new TSS. -/
def commitSwitch (kind : SwitchKind) (tsel : Word16) (plan : SwitchPlan) (retEip : Word32) (rfImg : Bool) :
    M (List Nat) := do
  let s ← get
  let nd := plan.nd
  writeFields plan.oldAddrs (savedValues s retEip (savedImage kind rfImg s.eflags))
  if kind.clears then updateByte plan.oldBusy 2 0 else pure ()
  let vs ← readFields plan.newAddrs
  if kind.nest then physWriteAt plan.linkAddrs s.tr.sel.toNat else pure ()
  if kind = .iret then pure () else updateByte plan.newBusy 0 2
  modify (fun s => { s with
    tr := ⟨tsel, descBase nd, descLimit nd, tssAttr nd, true⟩
    cr0 := setBit s.cr0 3 true })
  pure vs

/-- The error code of an event that switched tasks is pushed on the new task's stack (43_tasks.md R553). -/
def pushTaskCode (wide ext : Bool) : Option Word32 → M Unit
  | none => pure ()
  | some c => pushQuiet (if wide then 4 else 2) c.toNat ext

/-- The images of EFLAGS and CR3 a task switch loads have their reserved bits as they read, or the parameter lets them differ
(00_scope.md R8, U1; log entry 22). -/
def requireTaskImages (wide : Bool) (cr3new image : Word32) : M Unit := do
  let s ← get
  requireAsRead (eflagsAsRead s.params wide image && (!s.taskLoadsCr3 wide || cr3AsRead s.cr4Pae cr3new))

/-- Phase D of a task switch: the new task's registers, its segments, its instruction pointer (43_tasks.md R544, R545). -/
def startTask (kind : SwitchKind) (wide : Bool) (cr3new : Word32) (vs : List Nat) (ext : Bool) (code : Option Word32) :
    M Unit := do
  let g ← loadGprs wide vs
  requireTaskImages wide cr3new (word vs 1)
  modify (fun s => s.enterTask kind wide cr3new vs g)
  afterCommit do
    loadTaskSegments ext
    let s ← get
    checkTarget s.cs.limit s.eip ext
    pushTaskCode wide ext code
  modify (fun s => { s with
    dbPending := { s.dbPending with bt := s.dbPending.bt || (wide && decide (vs.getD 17 0 % 2 = 1)) } })

/-- `task_switch(kind, tsel, ret_eip, ext)` (43_tasks.md R545). `rfImg`: the event is a fault, so the saved image has RF
set (R543). `code`: the error code to push on the new task's stack (R553). -/
def taskSwitch (kind : SwitchKind) (tsel : Word16) (retEip : Word32) (ext rfImg : Bool) (code : Option Word32) :
    M Unit := do
  let plan ← planSwitch kind tsel ext
  let vs ← commitSwitch kind tsel plan retEip rfImg
  startTask kind (gate32 plan.nd) plan.cr3new vs ext code

end Sys2Proof.Machine
end

