-- ==== Sys2Proof/Machine/Ops.lean ====
section
/-! DEFINITION. Taking an interrupt or exception (60_exceptions.md R800 to R812, 61_exceptions_by_vector.md R841, R851,
R870), running one instruction with the restart of a fault (60_exceptions.md R756, R760), and returning from an exception
(45_interrupt_instructions.md R640 to R644). -/

namespace Sys2Proof.Machine

open Sys2Proof

/-- The outcome of a step of this machine. -/
abbrev Out := Host.Outcome State Fault Refusal

/-- The classes of the double-fault rule (61_exceptions_by_vector.md R841). -/
inductive EvClass where
  | benign | contributory | pageFault | doubleFault
  deriving DecidableEq, Repr

/-- The class of a processor-detected exception (61_exceptions_by_vector.md R841). -/
def Exc.cls : Exc → EvClass
  | .de => .contributory
  | .db => .benign
  | .nmi => .benign
  | .bp => .benign
  | .of => .benign
  | .br => .benign
  | .ud => .benign
  | .nm => .benign
  | .df => .doubleFault
  | .ts => .contributory
  | .np => .contributory
  | .ss => .contributory
  | .gp => .contributory
  | .pf => .pageFault
  | .mf => .benign
  | .ac => .benign

/-- Do an event and an exception raised while delivering it make a double fault (61_exceptions_by_vector.md R841)? -/
def makesDoubleFault (first second : EvClass) : Bool :=
  (decide (first = .contributory) && decide (second = .contributory)) ||
    (decide (first = .pageFault) && (decide (second = .contributory) || decide (second = .pageFault)))

/-- Are the gate types an IDT entry may have: task gate, interrupt gates, trap gates (60_exceptions.md R782)? -/
def isIdtGate (g : Desc) : Bool := !descS g && decide ((descType g).toNat ∈ [5, 6, 7, 14, 15])

/-- Is an interrupt gate, as against a trap gate (60_exceptions.md R782, R806)? -/
def isInterruptGate (g : Desc) : Bool := decide ((descType g).toNat ∈ [6, 14])

/-- The IDT entry of a vector, with the checks of section A of R800 (60_exceptions.md R780, R782, R804). -/
def readIdtGate (vector : Byte) (soft : Bool) : M Desc := do
  let s ← get
  let gp : Word32 := idtErrorCode vector !soft
  if vector.toNat * 8 + 7 > s.idtr.limit.toNat then
    match s.params.idtOverrun with
    | .gp => raiseCode .gp gp
    | .shutdown => throw .shutdown
  else do
    let v ← linRead (s.idtr.base + BitVec.ofNat 32 (vector.toNat * 8)) 8 Acc.supRead
    let g : Desc := ⟨BitVec.ofNat 32 v, BitVec.ofNat 32 (v / 2 ^ 32)⟩
    if !isIdtGate g then raiseCode .gp gp
    else if soft && decide ((descDpl g).toNat < s.cpl.toNat) then raiseCode .gp gp
    else if !descP g then raiseCode .np gp
    else pure g

/-- The size of the items a gate pushes (60_exceptions.md R800 section B). -/
def gateItem (g : Desc) : Nat := if gate32 g then 4 else 2

/-- Page-level checks of the pushes of a delivery, first push first (60_exceptions.md R800 section C). -/
def quietSlots (base : Word32) (b : Nat) (user : Bool) : List Word32 → M (List Slot)
  | [] => pure []
  | off :: offs => do
    let a ← linAddrs (base + off) b ⟨user, true⟩
    let rest ← quietSlots base b user offs
    pure (⟨base + off, a⟩ :: rest)

/-- Section D of R800: the flags and the transfer (60_exceptions.md R800, R806). -/
def enterHandler (g cd : Desc) (lvl : BitVec 2) (acc : List Nat) : M Unit := do
  modify (fun s => { s with eflags := enterFlags s.eflags (isInterruptGate g) })
  commitCs (gateSelector g) cd lvl acc
  modify (fun s => { s with eip := gateOffset g, dbPending := { s.dbPending with bs := false } })

/-- A delivery that pushes its frame on a stack named by the TSS: to an inner level, or from virtual-8086 mode
(60_exceptions.md R800 section C, R811). -/
def deliverNewStack (g cd : Desc) (lvl : BitVec 2) (ext : Bool) (items : List Nat) : M Unit := do
  let (nss, nesp) ← tssStack lvl ext
  let sd ← checkSs nss lvl .ts ext
  let seg := segFrom nss sd
  let b := gateItem g
  if !roomFor seg nesp b items.length then raiseSel .ss nss ext
  else do
    checkTarget (descLimit cd) (gateOffset g) ext
    let slots ← quietSlots seg.base b false (pushOffsets seg.attr.db (spOf seg.attr.db nesp) b items.length)
    let accSs ← probeAccessed nss sd
    let accCs ← probeAccessed (gateSelector g) cd
    commitAccessed accSs
    writeSlotsQuiet slots items
    modify (fun s => State.setSp { s with ss := seg } (spAfter seg.attr.db nesp b items.length))
    enterHandler g cd lvl accCs

/-- A delivery on the stack in use (60_exceptions.md R800 section C). -/
def deliverSameStack (g cd : Desc) (ext : Bool) (items : List Nat) : M Unit := do
  let s ← get
  let b := gateItem g
  let offs := pushOffsets s.ss.attr.db s.sp b items.length
  if !offs.all (fun off => segOk s.protectedMode s.ss off b true) then raiseZero .ss ext
  else do
    checkTarget (descLimit cd) (gateOffset g) ext
    let slots ← quietSlots s.ss.base b (decide (s.cpl = 3)) offs
    let accCs ← probeAccessed (gateSelector g) cd
    writeSlotsQuiet slots items
    modify (fun s => s.setSp (spAfter s.ss.attr.db (s.reg .esp) b items.length))
    enterHandler g cd s.cpl accCs

/-- A data-segment register made null on delivery from virtual-8086 mode (60_exceptions.md R811). -/
def nullSeg (g : SegState) : SegState := { g with sel := 0, valid := false }

/-- The items every frame ends with, first push first: EFLAGS image, CS, EIP, error code (60_exceptions.md R805). -/
def frameTail (s : State) (img retEip : Word32) (code : Option Word32) : List Nat :=
  [img.toNat, s.cs.sel.toNat, retEip.toNat] ++ (match code with | some c => [c.toNat] | none => [])

/-- Delivery through an interrupt gate or trap gate (60_exceptions.md R800 sections B to D, R802, R811, R812). -/
def deliverGate (g : Desc) (ext : Bool) (retEip img : Word32) (code : Option Word32) : M Unit := do
  let s ← get
  let csel := gateSelector g
  let cd ← fetchCode csel ext
  let dpl := descDpl cd
  if dpl.toNat > s.cpl.toNat then raiseSel .gp csel ext
  else if !descP cd then raiseSel .np csel ext
  else if s.vm then
    if !gate32 g then refuse .gate16FromV86
    else if conforming (descAttr cd) || decide (dpl ≠ 0) then raiseSel .gp csel ext
    else do
      deliverNewStack g cd 0 ext
        ([s.gs.sel.toNat, s.fs.sel.toNat, s.ds.sel.toNat, s.es.sel.toNat, s.ss.sel.toNat, (s.reg .esp).toNat]
          ++ frameTail s img retEip code)
      modify (fun s => { s with es := nullSeg s.es, ds := nullSeg s.ds, fs := nullSeg s.fs, gs := nullSeg s.gs })
  else if !conforming (descAttr cd) && decide (dpl.toNat < s.cpl.toNat) then
    deliverNewStack g cd dpl ext ([s.ss.sel.toNat, (s.reg .esp).toNat] ++ frameTail s img retEip code)
  else deliverSameStack g cd ext (frameTail s img retEip code)

/-- `real_deliver(vector, ret_eip)` (61_exceptions_by_vector.md R870). Its three items are words whatever the prefixes, as R870
says; 30_encoding.md R361 counts "INT frames in real mode" among the widths that go by operand size. DEDUCED, log entry
45. -/
def realDeliver (vector : Byte) (retEip : Word32) : M Unit := do
  let s ← get
  let v : Nat := if vector.toNat * 4 + 3 > s.idtr.limit.toNat then 8 else vector.toNat
  if v * 4 + 3 > s.idtr.limit.toNat then throw .shutdown
  else do
    let off ← linRead (s.idtr.base + BitVec.ofNat 32 (v * 4)) 2 Acc.supRead
    let sel ← linRead (s.idtr.base + BitVec.ofNat 32 (v * 4 + 2)) 2 Acc.supRead
    let offs := pushOffsets s.ss.attr.db s.sp 2 3
    if !offs.all (fun o => inLimit s.ss o 2) then raiseZero .ss false
    else do
      let slots ← quietSlots s.ss.base 2 false offs
      writeSlotsQuiet slots [s.eflags.toNat, s.cs.sel.toNat, retEip.toNat]
      modify (fun s => s.setSp (spAfter s.ss.attr.db (s.reg .esp) 2 3))
      modify (fun s => { s with eflags := s.eflags &&& ~~~(0x00000300#32) })
      modify (fun s => s.realLoad .cs (BitVec.ofNat 16 sel))
      modify (fun s => { s with eip := BitVec.ofNat 32 off, dbPending := { s.dbPending with bs := false } })

/-- `deliver(vector, origin, ret_eip, code, rf)` (60_exceptions.md R800). `soft` is the origin INT n, INT 3 or INTO; the
answer says whether a task switch was made. -/
def deliver (vector : Byte) (soft : Bool) (retEip : Word32) (code : Option Word32) (rf : Bool) : M Bool := do
  let s ← get
  if !s.pe then do
    realDeliver vector retEip
    pure false
  else do
    let ext := !soft
    let g ← readIdtGate vector soft
    if descType g = 5 then do
      taskSwitch .int (gateSelector g) retEip ext rf code
      pure true
    else do
      deliverGate g ext retEip (if rf then setBit s.eflags 16 true else s.eflags) code
      pure false

/-- Is the handler of `#DB` the task that runs: does a task gate for vector 1 name its TSS (46_debug.md R688)? -/
def State.ownDebugTask (s : State) : Bool :=
  s.pe &&
    match readIdtGate Exc.db.vector false s with
    | .ok g _ => decide (descType g = 5) && !selTi (gateSelector g) && decide (selIndex (gateSelector g) = selIndex s.tr.sel)
    | .error _ _ => false

/-- One pass of the loop that a debug handler's task with T = 1 makes: `#DB` switches to the running task again, which tests T
again (46_debug.md R688; log entry 43). -/
def debugAgain : M Bool := do
  let s ← get
  let g ← readIdtGate Exc.db.vector false
  taskSwitch .again (gateSelector g) s.eip true false none
  pure true

/-- The state a fault leaves: every register and every byte as the instruction found them, but CR2, what completed
translations marked or recorded, I/O transactions already made, the time-stamp counter and the used free values; all of
what a task switch committed; the debug conditions and the one-instruction holds are dropped (60_exceptions.md R756). -/
def rollback (s0 t : State) (committed : Bool) : State :=
  let b := if committed then t
    else { s0 with cr2 := t.cr2, mem := t.mem, tlb := t.tlb, io := t.io, tsc := t.tsc, free := t.free }
  { b with dbPending := DbPending.none, inhibitSs := false, inhibitSti := false }

/-- Shutdown (61_exceptions_by_vector.md R851). -/
def State.shut (s : State) : State := { s with run := .shutdown }

/-- Deliver an event, then what its delivery raises, until a handler is entered or the machine shuts down
(61_exceptions_by_vector.md R841). Four deliveries are the longest chain: benign, contributory, page fault, double
fault; the number bounds the recursion. -/
def settle : Nat → EvClass → M Bool → State → Out
  | 0, _, _, b => .next b.shut
  | n + 1, cls, ev, b =>
    match ev b with
    | .ok _ t => .next t
    | .error (.fault f) _ => .fault f
    | .error (.refuse r) _ => .refused r
    | .error .shutdown t => .next (rollback b t false).shut
    | .error (.exn e) t =>
      let b' := rollback b t e.committed
      if cls = .doubleFault then .next b'.shut
      else if makesDoubleFault cls e.exc.cls then
        settle n .doubleFault (deliver Exc.df.vector false b'.eip (some 0) true) b'
      else settle n e.exc.cls (deliver e.exc.vector false b'.eip e.code true) b'

/-- An exception raised by an instruction that began in the state `s0` (60_exceptions.md R756, R760). -/
def failed (s0 : State) (e : Err) (t : State) : Out :=
  match e with
  | .fault f => .fault f
  | .refuse r => .refused r
  | .shutdown => .next (rollback s0 t false).shut
  | .exn x =>
    let b := rollback s0 t x.committed
    settle 5 x.exc.cls (deliver x.exc.vector false b.eip x.code true) b

/-- How an instruction completed, as far as RF goes (60_exceptions.md R757, R760; 46_debug.md R677 item 4). -/
inductive Done where
  | normal | keepRf | iterate
  deriving DecidableEq, Repr

/-- RF after a completed instruction (60_exceptions.md R760, 46_debug.md R677). -/
def State.finish (s : State) : Done → State
  | .normal => s.setFlag 16 false
  | .keepRf => s
  | .iterate => s.setFlag 16 true

/-- Time passes: a positive advance of the time-stamp counter where there is one, by a free amount (10_state.md R108,
70_reset_and_hazards.md R940; log entry 5). -/
def State.tick (s : State) : State :=
  if s.params.hasTSC then
    { s with tsc := s.tsc + BitVec.ofNat 64 (1 + Config.tscTicks s.free % 2 ^ 32), free := s.free + 1 }
  else s

/-- The start of an instruction: the single-step condition (46_debug.md R690), and time passes. -/
def State.begin (s : State) : State :=
  State.tick { s with dbPending := { s.dbPending with bs := s.dbPending.bs || s.tf } }

/-- Execute one instruction whose effect is `m` (60_exceptions.md R756, R760). -/
def runInstr (m : M Done) (s0 : State) : Out :=
  match m s0.begin with
  | .ok d t => .next (t.finish d)
  | .error e t => failed s0 e t

/-- The instruction is complete and the next one follows it: `n` is its length without prefixes. -/
def advance (p : Prefixes) (n : Nat) : M Done := do
  modify (fun s => { s with eip := s.nextPc p n })
  pure .normal

/-- The privilege check of a privileged instruction (40_system_registers.md R370). -/
def requireCpl0 : M Unit := do if (← get).cpl = 0 then pure () else raiseGp0

/-- `require_protected_mode()` (40_system_registers.md R371). -/
def requireProtected : M Unit := do if (← get).protectedMode then pure () else raiseUd

/-- Every byte from an offset up is within the stack limit, or `#SS(0)` (42_control_transfer.md R491, R492). -/
def requireStack (off : Word32) (n : Nat) : M Unit := do
  if inLimit (← get).ss off n then pure () else raiseCode .ss 0

/-- Read an item of a frame on the stack. -/
def readStack (off : Word32) (n : Nat) : M Nat := memRead .ss off n n

/-- The checks on the code segment of a return (42_control_transfer.md R491 rows 3 to 8). -/
def returnCode (csel : Word16) : M Desc := do
  let s ← get
  if (rpl csel).toNat < s.cpl.toNat then raiseSel .gp csel false
  else do
    let d ← fetchCode csel false
    let a := descAttr d
    if !conforming a && decide (descDpl d ≠ rpl csel) then raiseSel .gp csel false
    else if conforming a && decide ((descDpl d).toNat > (rpl csel).toNat) then raiseSel .gp csel false
    else if !descP d then raiseSel .np csel false
    else pure d

/-- ESP on a return to an outer stack: `nesp` at item size, the upper half free where the stack's B bit is 0
(42_control_transfer.md R491, U24). -/
def outerEsp (big wide : Bool) (old nesp free : Word32) : Word32 :=
  let v := if wide then nesp else setLo16 old (lo16 nesp)
  if big then v else setLo16 free (lo16 v)

/-- The commit of a return to an outer level, before its data segments are checked (42_control_transfer.md R491,
45_interrupt_instructions.md R641). -/
def commitOuter (csel : Word16) (cd : Desc) (nss : Word16) (sd : Desc) (wide : Bool) (nesp : Word32) : M Unit := do
  let accCs ← probeAccessed csel cd
  let accSs ← probeAccessed nss sd
  commitCs csel cd (rpl csel) accCs
  commitAccessed accSs
  let f ← if (descAttr sd).db then pure 0 else freshWord
  modify (fun s => State.setReg { s with ss := segFrom nss sd } .esp
    (outerEsp (descAttr sd).db wide (s.reg .esp) nesp f))

/-- `iret_real()` and `iret_v86()` (45_interrupt_instructions.md R643). -/
def iretReal (wide : Bool) : M Done := do
  let s ← get
  let b := if wide then 4 else 2
  let t := s.sp
  requireStack t (3 * b)
  let neip ← readStack t b
  let csel ← readStack (t + BitVec.ofNat 32 b) 2
  let fl ← readStack (t + BitVec.ofNat 32 (2 * b)) b
  checkTarget s.cs.limit (BitVec.ofNat 32 neip) false
  modify (fun s => s.setSp (t + BitVec.ofNat 32 (3 * b)))
  modify (fun s => s.realLoad .cs (BitVec.ofNat 16 csel))
  loadEflags wide (iretMask s.params s.iopl wide s.cpl false) (BitVec.ofNat 32 fl)
  modify (fun s => { s with eip := BitVec.ofNat 32 neip, nmiBlocked := false })
  pure .keepRf

/-- `iret_to_v86(T)` (45_interrupt_instructions.md R643). That EIP is checked against FFFFH is DEDUCED, log entry 13. -/
def iretToV86 (t neip : Word32) (csel : Word16) (fl : Word32) : M Done := do
  let s ← get
  requireStack t 36
  let esp ← readStack (t + 12) 4
  let ss ← readStack (t + 16) 2
  let es ← readStack (t + 20) 2
  let ds ← readStack (t + 24) 2
  let fs ← readStack (t + 28) 2
  let gs ← readStack (t + 32) 2
  checkTarget 0xFFFF neip false
  loadEflags true (iretMask s.params s.iopl true 0 true) fl
  modify (fun x => State.setReg { x with
    cs := v86Seg csel
    ss := v86Seg (BitVec.ofNat 16 ss)
    es := v86Seg (BitVec.ofNat 16 es)
    ds := v86Seg (BitVec.ofNat 16 ds)
    fs := v86Seg (BitVec.ofNat 16 fs)
    gs := v86Seg (BitVec.ofNat 16 gs)
    eip := neip
    nmiBlocked := false } .esp (BitVec.ofNat 32 esp))
  pure .keepRf

/-- The return within the task once the frame's first three items are read (45_interrupt_instructions.md R641). -/
def iretWithin (wide : Bool) (t neip : Word32) (csel : Word16) (fl : Word32) : M Done := do
  let s ← get
  let b := if wide then 4 else 2
  let mask := iretMask s.params s.iopl wide s.cpl false
  let d ← returnCode csel
  if rpl csel = s.cpl then do
    checkTarget (descLimit d) neip false
    let acc ← probeAccessed csel d
    modify (fun s => s.setSp (t + BitVec.ofNat 32 (3 * b)))
    commitCs csel d s.cpl acc
    loadEflags wide mask fl
    modify (fun s => { s with eip := neip, nmiBlocked := false })
    pure .keepRf
  else do
    requireStack t (5 * b)
    let nesp ← readStack (t + BitVec.ofNat 32 (3 * b)) b
    let nss ← readStack (t + BitVec.ofNat 32 (4 * b)) 2
    let sd ← checkSs (BitVec.ofNat 16 nss) (rpl csel) .gp false
    checkTarget (descLimit d) neip false
    commitOuter csel d (BitVec.ofNat 16 nss) sd wide (BitVec.ofNat 32 nesp)
    loadEflags wide mask fl
    modify (fun x => x.nullOuterSegments (rpl csel))
    modify (fun s => { s with eip := neip, nmiBlocked := false })
    pure .keepRf

/-- `iret_protected()` (45_interrupt_instructions.md R641). -/
def iretProtected (wide : Bool) : M Done := do
  let s ← get
  let b := if wide then 4 else 2
  let t := s.sp
  requireStack t (3 * b)
  let neip ← readStack t b
  let csel ← readStack (t + BitVec.ofNat 32 b) 2
  let fl ← readStack (t + BitVec.ofNat 32 (2 * b)) b
  if wide && fl.testBit 17 && decide (s.cpl = 0) then
    iretToV86 t (BitVec.ofNat 32 neip) (BitVec.ofNat 16 csel) (BitVec.ofNat 32 fl)
  else iretWithin wide t (BitVec.ofNat 32 neip) (BitVec.ofNat 16 csel) (BitVec.ofNat 32 fl)

/-- `iret_task_return()` (43_tasks.md R560). -/
def iretTask (next : Word32) : M Done := do
  let s ← get
  if !s.tr.valid then raiseZero .ts false
  else if s.tr.limit.toNat < 1 then raiseSel .ts s.tr.sel false
  else do
    let link ← linRead s.tr.base 2 Acc.supRead
    taskSwitch .iret (BitVec.ofNat 16 link) next false false none
    modify (fun s => { s with nmiBlocked := false })
    pure .keepRf

/-- `iret()` (45_interrupt_instructions.md R640, R643, R644). -/
def exceptionReturn (wide : Bool) (next : Word32) : M Done := do
  let s ← get
  if !s.pe then iretReal wide
  else if s.vm then
    if s.iopl.toNat < 3 then raiseGp0 else iretReal wide
  else if s.nt then iretTask next
  else iretProtected wide

end Sys2Proof.Machine
end

