-- ==== Sys2Proof/Machine/Control.lean ====
section
/-! DEFINITION. Near and far JMP, CALL and RET, call gates and the stack switch (42_control_transfer.md R468 to R499,
43_tasks.md R550). -/

namespace Sys2Proof.Machine

open Sys2Proof

/-- A jump within the code segment (42_control_transfer.md R468). -/
def jumpNear (target : Word32) : M Done := do
  checkTarget (← get).cs.limit target false
  modify (fun s => { s with eip := target })
  pure .normal

/-- Room on the current stack for `k` items of `b` bytes, or `#SS(0)` (42_control_transfer.md R452, R469, R485). -/
def requireRoom (b k : Nat) : M Unit := do
  let s ← get
  if (pushOffsets s.ss.attr.db s.sp b k).all (fun off => segOk s.protectedMode s.ss off b true) then pure ()
  else raiseCode .ss 0

/-- Check the pushes of `k` items of `b` bytes on the current stack (42_control_transfer.md R452). -/
def probeFrame (b k : Nat) : M (List Slot) := do
  let s ← get
  probePushes s.ss b (decide (s.cpl = 3)) (pushOffsets s.ss.attr.db s.sp b k)

/-- Make checked pushes and move (E)SP once (42_control_transfer.md R452). -/
def commitFrame (b : Nat) (slots : List Slot) (vals : List Nat) : M Unit := do
  writeSlots slots vals
  modify (fun s => s.setSp (spAfter s.ss.attr.db (s.reg .esp) b slots.length))

/-- A call within the code segment: stack room, target, push (42_control_transfer.md R469). -/
def callNear (p : Prefixes) (next target : Word32) : M Done := do
  let b := (← get).opBytes p
  requireRoom b 1
  checkTarget (← get).cs.limit target false
  push b next.toNat
  modify (fun s => { s with eip := target })
  pure .normal

/-- The privilege test of a direct far transfer (42_control_transfer.md R471, R472). -/
def directOk (cpl : BitVec 2) (sel : Word16) (d : Desc) : Bool :=
  if conforming (descAttr d) then decide ((descDpl d).toNat ≤ cpl.toNat)
  else decide (descDpl d = cpl) && decide ((rpl sel).toNat ≤ cpl.toNat)

/-- Enter a code segment at the current level, pushing CS and the return offset for a CALL (42_control_transfer.md R475,
R484, R485). -/
def enterSameLevel (call : Bool) (b : Nat) (csel : Word16) (d : Desc) (entry next : Word32) : M Done := do
  let s ← get
  if call then requireRoom b 2 else pure ()
  checkTarget (descLimit d) entry false
  let slots ← if call then probeFrame b 2 else pure []
  let acc ← probeAccessed csel d
  if call then commitFrame b slots [s.cs.sel.toNat, next.toNat] else pure ()
  commitCs csel d s.cpl acc
  modify (fun s => { s with eip := entry })
  pure .normal

/-- A direct far transfer (42_control_transfer.md R484, R485). -/
def farDirect (call : Bool) (p : Prefixes) (sel : Word16) (d : Desc) (off next : Word32) : M Done := do
  let s ← get
  if !directOk s.cpl sel d then raiseSel .gp sel false
  else if !descP d then raiseSel .np sel false
  else enterSameLevel call (s.opBytes p) sel d off next

/-- The parameters of an inter-level call, the caller's top of stack first (42_control_transfer.md R480). -/
def readParams (b : Nat) (sp : Word32) : Nat → M (List Nat)
  | 0 => pure []
  | k + 1 => do
    let v ← readStack sp b
    let rest ← readParams b (spOf (← get).ss.attr.db (sp + BitVec.ofNat 32 b)) k
    pure (v :: rest)

/-- `inter_level_call` (42_control_transfer.md R478 to R481). -/
def interLevelCall (g : Desc) (csel : Word16) (cd : Desc) (next : Word32) : M Done := do
  let s ← get
  let lvl := descDpl cd
  let b := if gate32 g then 4 else 2
  let n := 4 + gateCount g
  let (nss, nesp) ← tssStack lvl false
  let sd ← checkSs nss lvl .ts false
  let seg := segFrom nss sd
  if !roomFor seg nesp b n then raiseSel .ss nss false
  else do
    checkTarget (descLimit cd) (gateOffset g) false
    let params ← readParams b s.sp (gateCount g)
    let slots ← probePushes seg b false (pushOffsets seg.attr.db (spOf seg.attr.db nesp) b n)
    let accSs ← probeAccessed nss sd
    let accCs ← probeAccessed csel cd
    commitAccessed accSs
    writeSlots slots
      ([s.ss.sel.toNat, (s.reg .esp).toNat] ++ params.reverse ++ [s.cs.sel.toNat, next.toNat])
    modify (fun s => State.setSp { s with ss := seg } (spAfter seg.attr.db nesp b n))
    commitCs csel cd lvl accCs
    modify (fun s => { s with eip := gateOffset g })
    pure .normal

/-- `through_gate` (42_control_transfer.md R473 to R475). -/
def throughGate (call : Bool) (gsel : Word16) (g : Desc) (next : Word32) : M Done := do
  let s ← get
  if !dataPrivilegeOk s.cpl gsel g then raiseSel .gp gsel false
  else if !descP g then raiseSel .np gsel false
  else do
    let csel := gateSelector g
    let cd ← fetchCode csel false
    let conf := conforming (descAttr cd)
    if (descDpl cd).toNat > s.cpl.toNat then raiseSel .gp csel false
    else if !call && !conf && decide (descDpl cd ≠ s.cpl) then raiseSel .gp csel false
    else if !descP cd then raiseSel .np csel false
    else if call && !conf && decide ((descDpl cd).toNat < s.cpl.toNat) then interLevelCall g csel cd next
    else enterSameLevel call (if gate32 g then 4 else 2) csel cd (gateOffset g) next

/-- `far_to_task` (43_tasks.md R550). -/
def farToTask (call : Bool) (sel : Word16) (d : Desc) (next : Word32) : M Done := do
  let s ← get
  let kind : SwitchKind := if call then .call else .jmp
  if descType d = 5 then
    if !dataPrivilegeOk s.cpl sel d then raiseSel .gp sel false
    else if !descP d then raiseSel .np sel false
    else do
      taskSwitch kind (gateSelector d) next false false none
      pure .keepRf
  else if selTi sel then raiseSel .gp sel false
  else if !dataPrivilegeOk s.cpl sel d then raiseSel .gp sel false
  else do
    taskSwitch kind sel next false false none
    pure .keepRf

/-- A far transfer in real-address or virtual-8086 mode (42_control_transfer.md R486). -/
def farReal (call : Bool) (b : Nat) (sel : Word16) (off next : Word32) : M Done := do
  let s ← get
  checkTarget s.cs.limit off false
  let slots ← if call then probeFrame b 2 else pure []
  if call then commitFrame b slots [s.cs.sel.toNat, next.toNat] else pure ()
  modify (fun s => s.realLoad .cs sel)
  modify (fun s => { s with eip := off })
  pure .normal

/-- `far_transfer(kind, sel, off)` (42_control_transfer.md R470, R482, R486). -/
def farTransfer (call : Bool) (p : Prefixes) (sel : Word16) (off next : Word32) : M Done := do
  let s ← get
  if !s.protectedMode then farReal call (s.opBytes p) sel off next
  else if isNull sel then raiseGp0
  else do
    let d ← needDescriptor sel .gp false
    if isCode (descAttr d) then farDirect call p sel d off next
    else if descS d then raiseSel .gp sel false
    else if (descType d).toNat ∈ [4, 12] then throughGate call sel d next
    else if (descType d).toNat ∈ [1, 3, 5, 9, 11] then farToTask call sel d next
    else raiseSel .gp sel false

/-- A return within the code segment, releasing `n` bytes (42_control_transfer.md R490). -/
def returnNear (p : Prefixes) (n : Nat) : M Done := do
  let s ← get
  let b := s.opBytes p
  let neip ← readStack s.sp b
  checkTarget s.cs.limit (BitVec.ofNat 32 neip) false
  modify (fun s => s.setSp (s.sp + BitVec.ofNat 32 (b + n)))
  modify (fun s => { s with eip := BitVec.ofNat 32 neip })
  pure .normal

/-- A far return in real-address or virtual-8086 mode (42_control_transfer.md R499). -/
def returnFarReal (b n : Nat) : M Done := do
  let s ← get
  let neip ← readStack s.sp b
  let csel ← readStack (s.sp + BitVec.ofNat 32 b) 2
  checkTarget s.cs.limit (BitVec.ofNat 32 neip) false
  modify (fun s => s.setSp (s.sp + BitVec.ofNat 32 (2 * b + n)))
  modify (fun s => s.realLoad .cs (BitVec.ofNat 16 csel))
  modify (fun s => { s with eip := BitVec.ofNat 32 neip })
  pure .normal

/-- The part of a far return to an outer level after the code segment is checked (42_control_transfer.md R491, R494, R495,
R498). -/
def returnOuter (wide : Bool) (n : Nat) (csel : Word16) (d : Desc) (neip : Word32) : M Done := do
  let s ← get
  let b := if wide then 4 else 2
  let u := spOf s.ss.attr.db (s.sp + BitVec.ofNat 32 (2 * b + n))
  requireStack u (2 * b)
  let nesp ← readStack u b
  let nss ← readStack (u + BitVec.ofNat 32 b) 2
  let sd ← checkSs (BitVec.ofNat 16 nss) (rpl csel) .gp false
  checkTarget (descLimit d) neip false
  commitOuter csel d (BitVec.ofNat 16 nss) sd wide (BitVec.ofNat 32 nesp)
  modify (fun s => s.setSp (s.sp + BitVec.ofNat 32 n))
  modify (fun s => s.nullOuterSegments (rpl csel))
  modify (fun s => { s with eip := neip })
  pure .normal

/-- `far_ret(N)` (42_control_transfer.md R491, R499). -/
def returnFar (p : Prefixes) (n : Nat) : M Done := do
  let s ← get
  let b := s.opBytes p
  if !s.protectedMode then returnFarReal b n
  else do
    requireStack s.sp (2 * b)
    let neip ← readStack s.sp b
    let csel := BitVec.ofNat 16 (← readStack (s.sp + BitVec.ofNat 32 b) 2)
    let d ← returnCode csel
    if rpl csel = s.cpl then do
      checkTarget (descLimit d) (BitVec.ofNat 32 neip) false
      let acc ← probeAccessed csel d
      modify (fun s => s.setSp (s.sp + BitVec.ofNat 32 (2 * b + n)))
      commitCs csel d s.cpl acc
      modify (fun s => { s with eip := BitVec.ofNat 32 neip })
      pure .normal
    else returnOuter (s.op32 p) n csel d (BitVec.ofNat 32 neip)

/-- JMP rel8 (42_control_transfer.md R453, R468). -/
def execJmpRel8 (p : Prefixes) (d : BitVec 8) (s : State) : Out :=
  runInstr (do
    plainPrefixes p
    jumpNear ((← get).relTarget p 2 (d.signExtend 32))) s

/-- JMP rel16/32 (42_control_transfer.md R453, R468). -/
def execJmpRel (p : Prefixes) (d : Rel) (s : State) : Out :=
  runInstr (do
    plainPrefixes p
    jumpNear ((← get).relTarget p (1 + d.size) (Rel.value d))) s

/-- JMP r/m16/32 (42_control_transfer.md R468). -/
def execJmpRm (p : Prefixes) (rm : Rm) (s : State) : Out :=
  runInstr (do
    plainPrefixes p
    jumpNear (← readRmV p rm)) s

/-- JMP ptr16:16/32 (42_control_transfer.md R484). -/
def execJmpFar (p : Prefixes) (t : FarPtr) (s : State) : Out :=
  runInstr (do
    plainPrefixes p
    farTransfer false p (FarPtr.sel t) (FarPtr.off t) ((← get).nextPc p (1 + t.size))) s

/-- JMP m16:16/32 (42_control_transfer.md R484). -/
def execJmpFarMem (p : Prefixes) (rm : Rm) (s : State) : Out :=
  runInstr (do
    plainPrefixes p
    match rm with
    | .reg _ => raiseUd
    | .mem m => do
      let (off, sel) ← readFar p m ((← get).opBytes p)
      farTransfer false p sel off ((← get).nextPc p (1 + m.size))) s

/-- CALL rel16/32 (42_control_transfer.md R453, R469). -/
def execCallRel (p : Prefixes) (d : Rel) (s : State) : Out :=
  runInstr (do
    plainPrefixes p
    let s ← get
    callNear p (s.nextPc p (1 + d.size)) (s.relTarget p (1 + d.size) (Rel.value d))) s

/-- CALL r/m16/32: the operand is read before the push (42_control_transfer.md R469). -/
def execCallRm (p : Prefixes) (rm : Rm) (s : State) : Out :=
  runInstr (do
    plainPrefixes p
    let target ← readRmV p rm
    callNear p ((← get).nextPc p (1 + rm.size)) target) s

/-- CALL ptr16:16/32 (42_control_transfer.md R485). -/
def execCallFar (p : Prefixes) (t : FarPtr) (s : State) : Out :=
  runInstr (do
    plainPrefixes p
    farTransfer true p (FarPtr.sel t) (FarPtr.off t) ((← get).nextPc p (1 + t.size))) s

/-- CALL m16:16/32 (42_control_transfer.md R485). -/
def execCallFarMem (p : Prefixes) (rm : Rm) (s : State) : Out :=
  runInstr (do
    plainPrefixes p
    match rm with
    | .reg _ => raiseUd
    | .mem m => do
      let (off, sel) ← readFar p m ((← get).opBytes p)
      farTransfer true p sel off ((← get).nextPc p (1 + m.size))) s

/-- RET near (42_control_transfer.md R490). -/
def execRet (p : Prefixes) (s : State) : Out :=
  runInstr (do
    plainPrefixes p
    returnNear p 0) s

/-- RET imm16 near (42_control_transfer.md R490). -/
def execRetImm (p : Prefixes) (n : BitVec 16) (s : State) : Out :=
  runInstr (do
    plainPrefixes p
    returnNear p n.toNat) s

/-- RET far (42_control_transfer.md R491, R499). -/
def execRetFar (p : Prefixes) (s : State) : Out :=
  runInstr (do
    plainPrefixes p
    returnFar p 0) s

/-- RET imm16 far (42_control_transfer.md R491, R499). -/
def execRetFarImm (p : Prefixes) (n : BitVec 16) (s : State) : Out :=
  runInstr (do
    plainPrefixes p
    returnFar p n.toNat) s

end Sys2Proof.Machine
end

