-- ==== Sys2Proof/Machine/Fpu.lean ====
section
/-! DEFINITION. The floating-point unit at system level: WAIT, ESC and the no-wait control instructions
(47_fpu_system.md). The layouts FNSTENV and FNSAVE write are the family's (PRESUMED, log entry 17). -/

namespace Sys2Proof.Machine

open Sys2Proof

/-- `fp_error_pending`: an unmasked exception flag is set (47_fpu_system.md R720, 10_state.md R114). -/
def fpuErrorPending (f : FpuState) : Bool := decide (f.status &&& ~~~f.control &&& 0x3F ≠ 0)

/-- The status word as an instruction sees it: bit 7, the summary bit, is `fp_error_pending` (10_state.md R114,
47_fpu_system.md R720). -/
def fpuStatusWord (f : FpuState) : Word16 := (f.status &&& 0xFF7F) ||| (if fpuErrorPending f then 0x0080 else 0)

/-- The FERR# output: active while an unmasked exception is pending, whatever CR0.NE (47_fpu_system.md R720, R722). -/
def State.ferr (s : State) : Bool := fpuErrorPending s.fpu

/-- ESC raises `#NM` when CR0.EM or CR0.TS is 1 (47_fpu_system.md R714, R716). -/
def escAvailable : M Unit := do
  let s ← get
  if s.em || s.ts then raisePlain .nm else pure ()

/-- `check_fp_error()`: answers whether the processor froze (47_fpu_system.md R720, R722). The instruction has not
executed, so its single-step condition is dropped (log entry 16). -/
def checkFpError : M Bool := do
  let s ← get
  if !fpuErrorPending s.fpu then pure false
  else if s.ne then raisePlain .mf
  else if s.ignne then pure false
  else do
    set { s with run := .fpFrozen, dbPending := { s.dbPending with bs := false } }
    pure true

/-- WAIT (47_fpu_system.md R715). -/
def execWait (p : Prefixes) (s : State) : Out :=
  runInstr (do
    plainPrefixes p
    let s ← get
    if s.mp && s.ts then raisePlain .nm else pure ()
    if ← checkFpError then pure .keepRf else advance p 1) s

/-- ESC: the checks are the spec's, what a floating-point instruction computes is outside it (47_fpu_system.md R716). -/
def execEsc (p : Prefixes) (_op _reg : BitVec 3) (_rm : Rm) (s : State) : Out :=
  runInstr (do
    plainPrefixes p
    escAvailable
    if ← checkFpError then pure .keepRf else refuse .fpuDataPath) s

/-- The unit after FNINIT (47_fpu_system.md R730, R733). The three exception pointers are 0 as in R730 and R905, where N22 of
91_not_in_source.md says that they are unchanged: PRESUMED, log entry 51. The numeric registers that are kept are the physical
ones, while the top of the stack becomes 0: PRESUMED, log entry 52. -/
def fpuInitialised (f : FpuState) : FpuState :=
  { f with control := 0x037F, status := 0, tag := 0xFFFF, opcode := 0, instrSel := 0, instrOff := 0,
           dataSel := 0, dataOff := 0 }

/-- FNINIT (47_fpu_system.md R730). -/
def execFninit (p : Prefixes) (s : State) : Out :=
  runInstr (do
    plainPrefixes p
    escAvailable
    modify (fun s => { s with fpu := fpuInitialised s.fpu })
    advance p 2) s

/-- The unit with its exceptions cleared: the exception flags, the stack flag, the summary and busy bits (47_fpu_system.md
R734). -/
def fpuCleared (f : FpuState) : FpuState := { f with status := f.status &&& 0x7F00 }

/-- FNCLEX (47_fpu_system.md R734). -/
def execFnclex (p : Prefixes) (s : State) : Out :=
  runInstr (do
    plainPrefixes p
    escAvailable
    modify (fun s => { s with fpu := fpuCleared s.fpu })
    advance p 2) s

/-- FNSTSW AX (47_fpu_system.md R735). -/
def execFnstswAx (p : Prefixes) (s : State) : Out :=
  runInstr (do
    plainPrefixes p
    escAvailable
    modify (fun s => s.setReg16 .eax (fpuStatusWord s.fpu))
    advance p 2) s

/-- FNSTSW m16 (47_fpu_system.md R736). -/
def execFnstswMem (p : Prefixes) (m : MemOp) (s : State) : Out :=
  runInstr (do
    plainPrefixes p
    escAvailable
    writeMem p m 2 2 (fpuStatusWord (← get).fpu).toNat
    advance p (1 + m.size)) s

/-- FNSTCW m16 (47_fpu_system.md R737). -/
def execFnstcw (p : Prefixes) (m : MemOp) (s : State) : Out :=
  runInstr (do
    plainPrefixes p
    escAvailable
    writeMem p m 2 2 (← get).fpu.control.toNat
    advance p (1 + m.size)) s

/-- Values laid out one after another, the first lowest: (size in bytes, value). -/
def packFields : List (Nat × Nat) → Nat
  | [] => 0
  | (n, v) :: rest => v % 256 ^ n + 256 ^ n * packFields rest

/-- A linear address made of a selector and an offset in real-address mode. -/
def realLinear (sel : Word16) (off : Word32) : Word32 := (sel.setWidth 32 <<< 4) + off

/-- A word in a doubleword slot; the upper half is reserved, a free value of its own (log entry 17). -/
def slotWord (w : Word16) (k : Nat) : Nat := (setLo16 (Config.freeWord k) w).toNat

/-- How many free values an environment has room for: those of its reserved halves. -/
def envFree : Nat := 5

/-- The environment by format: operand size and protected mode or not (47_fpu_system.md R710, R738). The layouts, and the
zeros beside the opcode and the high parts of the pointers, are PRESUMED (the family's), log entry 17; each reserved half of
a doubleword is the free value of its own number, counted from `k`. -/
def fpuEnvironment (f : FpuState) (wide pm : Bool) (k : Nat) : List (Nat × Nat) :=
  let ip := realLinear f.instrSel f.instrOff
  let dp := realLinear f.dataSel f.dataOff
  let op := f.opcode.toNat
  let st := fpuStatusWord f
  if wide then
    [(4, slotWord f.control k), (4, slotWord st (k + 1)), (4, slotWord f.tag (k + 2))] ++
      (if pm then
        [(4, f.instrOff.toNat), (4, f.instrSel.toNat + op * 2 ^ 16), (4, f.dataOff.toNat),
         (4, slotWord f.dataSel (k + 3))]
      else
        [(4, slotWord (lo16 ip) (k + 3)), (4, op + (hi16 ip).toNat * 2 ^ 12), (4, slotWord (lo16 dp) (k + 4)),
         (4, (hi16 dp).toNat * 2 ^ 12)])
  else
    [(2, f.control.toNat), (2, st.toNat), (2, f.tag.toNat)] ++
      (if pm then [(2, f.instrOff.toNat), (2, f.instrSel.toNat), (2, f.dataOff.toNat), (2, f.dataSel.toNat)]
      else
        [(2, ip.toNat), (2, op + (hi16 ip).toNat * 2 ^ 12), (2, dp.toNat), (2, (hi16 dp).toNat * 2 ^ 12)])

/-- A physical numeric register, by its number modulo 8 (log entry 52). -/
def fpuPhys (f : FpuState) (n : Nat) : BitVec 80 :=
  match n % 8 with
  | 0 => f.r0
  | 1 => f.r1
  | 2 => f.r2
  | 3 => f.r3
  | 4 => f.r4
  | 5 => f.r5
  | 6 => f.r6
  | _ => f.r7

/-- The top-of-stack field of the status word (47_fpu_system.md R733). -/
def fpuTop (f : FpuState) : Nat := (f.status.extractLsb' 11 3).toNat

/-- The eight numeric registers as FNSAVE writes them, ST(0) first (47_fpu_system.md R739). That ST(i) is the physical register
TOP + i modulo 8 is not stated: PRESUMED, log entry 52. -/
def fpuStack (f : FpuState) : List (Nat × Nat) :=
  (List.range 8).map (fun i => (10, (fpuPhys f (fpuTop f + i)).toNat))

/-- How many bytes an environment takes (47_fpu_system.md R738). -/
def envSize (wide : Bool) : Nat := if wide then 28 else 14

/-- Write a save area, checked as a whole for limit, alignment and pages before a byte is written (47_fpu_system.md R738,
20_memory.md R132). -/
def storeArea (p : Prefixes) (m : MemOp) (n : Nat) (fields : List (Nat × Nat)) : M Unit := do
  writeMem p m n ((← get).opBytes p) (packFields fields)

/-- FNSTENV: the environment, then all exceptions masked (47_fpu_system.md R738) and cleared (R721). That it clears what FNCLEX
clears is DEDUCED, log entry 46. -/
def execFnstenv (p : Prefixes) (m : MemOp) (s : State) : Out :=
  runInstr (do
    plainPrefixes p
    escAvailable
    let k ← takeFree envFree
    let s ← get
    storeArea p m (envSize (s.op32 p)) (fpuEnvironment s.fpu (s.op32 p) s.protectedMode k)
    modify (fun s => { s with fpu := { fpuCleared s.fpu with control := s.fpu.control ||| 0x3F } })
    advance p (1 + m.size)) s

/-- FNSAVE: the environment and the numeric registers, then FNINIT's effect (47_fpu_system.md R739). -/
def execFnsave (p : Prefixes) (m : MemOp) (s : State) : Out :=
  runInstr (do
    plainPrefixes p
    escAvailable
    let k ← takeFree envFree
    let s ← get
    storeArea p m (envSize (s.op32 p) + 80) (fpuEnvironment s.fpu (s.op32 p) s.protectedMode k ++ fpuStack s.fpu)
    modify (fun s => { s with fpu := fpuInitialised s.fpu })
    advance p (1 + m.size)) s

end Sys2Proof.Machine
end

