-- ==== Sys2Proof/Machine/Interrupts.lean ====
section
/-! DEFINITION. The interrupt instructions INT n, INT 3, INTO, BOUND and IRET (45_interrupt_instructions.md). -/

namespace Sys2Proof.Machine

open Sys2Proof

/-- A software interrupt; RF is kept where it switched tasks (45_interrupt_instructions.md R630, 46_debug.md R677). -/
def softInterrupt (vector : Byte) (next : Word32) : M Done := do
  let switched ← deliver vector true next none false
  pure (if switched then .keepRf else .normal)

/-- INT 3 (45_interrupt_instructions.md R631). -/
def execInt3 (p : Prefixes) (s : State) : Out :=
  runInstr (do
    plainPrefixes p
    softInterrupt 3 ((← get).nextPc p 1)) s

/-- INT n: IOPL-sensitive in virtual-8086 mode (45_interrupt_instructions.md R630). -/
def execIntImm (p : Prefixes) (vector : BitVec 8) (s : State) : Out :=
  runInstr (do
    plainPrefixes p
    let s ← get
    if s.v86 && decide (s.iopl.toNat < 3) then raiseGp0
    else softInterrupt vector (s.nextPc p 2)) s

/-- INTO (45_interrupt_instructions.md R632). -/
def execInto (p : Prefixes) (s : State) : Out :=
  runInstr (do
    plainPrefixes p
    let s ← get
    if s.off then softInterrupt 4 (s.nextPc p 1) else advance p 1) s

/-- BOUND: both bounds, one operand of two parts (20_memory.md R121), are read before the signed comparison
(45_interrupt_instructions.md R634). -/
def execBound (p : Prefixes) (r : Reg) (rm : Rm) (s : State) : Out :=
  runInstr (do
    plainPrefixes p
    match rm with
    | .reg _ => raiseUd
    | .mem m => do
      let s ← get
      let b := s.opBytes p
      checkExtent p m (2 * b) false
      let lower ← readMem p m 0 b b
      let upper ← readMem p m b b b
      let inside :=
        if s.op32 p then
          decide ((BitVec.ofNat 32 lower).toInt ≤ (s.reg r).toInt) &&
            decide ((s.reg r).toInt ≤ (BitVec.ofNat 32 upper).toInt)
        else
          decide ((BitVec.ofNat 16 lower).toInt ≤ (lo16 (s.reg r)).toInt) &&
            decide ((lo16 (s.reg r)).toInt ≤ (BitVec.ofNat 16 upper).toInt)
      if inside then advance p (1 + m.size) else raisePlain .br) s

/-- IRET, IRETD (45_interrupt_instructions.md R640). -/
def execIret (p : Prefixes) (s : State) : Out :=
  runInstr (do
    plainPrefixes p
    let s ← get
    exceptionReturn (s.op32 p) (s.nextPc p 1)) s

end Sys2Proof.Machine
end

