-- ==== Sys2Proof/Machine/Io.lean ====
section
/-! DEFINITION. Input and output, and the flag instructions CLI, STI, PUSHF, POPF (44_io.md). -/

namespace Sys2Proof.Machine

open Sys2Proof

/-- `io_permission(port, n)` (44_io.md R585). -/
def ioPermission (port : Word16) (n : Nat) : M Unit := do
  let s ← get
  if !s.pe then pure ()
  else if !s.vm && decide (s.cpl.toNat ≤ s.iopl.toNat) then pure ()
  else if !s.tr.valid then raiseGp0
  else if !s.tss32 then raiseGp0
  else if s.tr.limit.toNat < 0x67 then raiseGp0
  else do
    let iobase ← linRead (s.tr.base + 0x66) 2 Acc.supRead
    let off := iobase + port.toNat / 8
    if off + 1 > s.tr.limit.toNat then raiseGp0
    else do
      let w ← linRead (s.tr.base + BitVec.ofNat 32 off) 2 Acc.supRead
      if (w >>> (port.toNat % 8)) % 2 ^ n ≠ 0 then raiseGp0 else pure ()

/-- The low `n` bytes of a value. -/
def lowBytes (n : Nat) (v : Word32) : Word32 := v &&& BitVec.ofNat 32 (2 ^ (8 * n) - 1)

/-- `IoRead(port, n)`: the platform's answer is a free value, and the transaction is recorded (20_memory.md R140,
R142). -/
def ioRead (port : Word16) (n : Nat) : M Word32 := do
  let s ← get
  let v := lowBytes n (Config.portValue s.free port n)
  set { s with free := s.free + 1, io := .read port n v :: s.io }
  pure v

/-- `IoWrite(port, n, v)`: the transaction is recorded (20_memory.md R140, R142). -/
def ioWrite (port : Word16) (n : Nat) (v : Word32) : M Unit :=
  modify (fun s => { s with io := .write port n (lowBytes n v) :: s.io })

/-- The checks before a port access: the access lies within the port space, or the model refuses (20_memory.md R142, D35),
and it is permitted (44_io.md R585). -/
def portAccess (port : Word16) (n : Nat) : M Unit := do
  if port.toNat + n - 1 > 0xFFFF then refuse .portOverrun else ioPermission port n

/-- The low `n` bytes of EAX written, the rest unchanged (44_io.md R590). -/
def State.setAcc (s : State) (n : Nat) (v : Word32) : State :=
  s.setReg .eax (mergeBits (BitVec.ofNat 32 (2 ^ (8 * n) - 1)) (s.reg .eax) v)

/-- IN of `n` bytes (44_io.md R590). -/
def inPort (port : Word16) (n : Nat) : M Unit := do
  portAccess port n
  let v ← ioRead port n
  modify (fun s => s.setAcc n v)

/-- OUT of `n` bytes (44_io.md R592). -/
def outPort (port : Word16) (n : Nat) : M Unit := do
  portAccess port n
  ioWrite port n ((← get).reg .eax)

/-- The port in DX (44_io.md R591). -/
def State.dx (s : State) : Word16 := lo16 (s.reg .edx)

/-- IN AL, imm8 (44_io.md R590). -/
def execInAlImm (p : Prefixes) (port : BitVec 8) (s : State) : Out :=
  runInstr (do
    plainPrefixes p
    inPort (port.setWidth 16) 1
    advance p 2) s

/-- IN AX/EAX, imm8 (44_io.md R590). -/
def execInAxImm (p : Prefixes) (port : BitVec 8) (s : State) : Out :=
  runInstr (do
    plainPrefixes p
    inPort (port.setWidth 16) ((← get).opBytes p)
    advance p 2) s

/-- IN AL, DX (44_io.md R591). -/
def execInAlDx (p : Prefixes) (s : State) : Out :=
  runInstr (do
    plainPrefixes p
    inPort (← get).dx 1
    advance p 1) s

/-- IN AX/EAX, DX (44_io.md R591). -/
def execInAxDx (p : Prefixes) (s : State) : Out :=
  runInstr (do
    plainPrefixes p
    let s ← get
    inPort s.dx (s.opBytes p)
    advance p 1) s

/-- OUT imm8, AL (44_io.md R592). -/
def execOutImmAl (p : Prefixes) (port : BitVec 8) (s : State) : Out :=
  runInstr (do
    plainPrefixes p
    outPort (port.setWidth 16) 1
    advance p 2) s

/-- OUT imm8, AX/EAX (44_io.md R592). -/
def execOutImmAx (p : Prefixes) (port : BitVec 8) (s : State) : Out :=
  runInstr (do
    plainPrefixes p
    outPort (port.setWidth 16) ((← get).opBytes p)
    advance p 2) s

/-- OUT DX, AL (44_io.md R593). -/
def execOutDxAl (p : Prefixes) (s : State) : Out :=
  runInstr (do
    plainPrefixes p
    outPort (← get).dx 1
    advance p 1) s

/-- OUT DX, AX/EAX (44_io.md R593). -/
def execOutDxAx (p : Prefixes) (s : State) : Out :=
  runInstr (do
    plainPrefixes p
    let s ← get
    outPort s.dx (s.opBytes p)
    advance p 1) s

/-- An address or count register at address size (30_encoding.md R336, 44_io.md R594, R596). -/
def State.addrReg (s : State) (p : Prefixes) (r : Reg) : Word32 :=
  if s.addr32 p then s.reg r else (lo16 (s.reg r)).setWidth 32

/-- Move an address or count register by `d` within the address size (44_io.md R594, R596). -/
def State.moveAddrReg (s : State) (p : Prefixes) (r : Reg) (d : Word32) : State :=
  if s.addr32 p then s.setReg r (s.reg r + d) else s.setReg16 r (lo16 (s.reg r + d))

/-- The step of a string element by DF (44_io.md R594). -/
def State.stringDelta (s : State) (n : Nat) : Word32 := if s.df then -(BitVec.ofNat 32 n) else BitVec.ofNat 32 n

/-- `ins_once()`: permission, destination check, port read, store (44_io.md R595). -/
def insOnce (p : Prefixes) (n : Nat) : M Unit := do
  let s ← get
  portAccess s.dx n
  let slot ← memProbe .es (s.addrReg p .edi) n n true
  let v ← ioRead s.dx n
  slotWrite slot v.toNat
  modify (fun x => x.moveAddrReg p .edi (s.stringDelta n))

/-- `outs_once()`: permission, memory read, port write (44_io.md R594). The source segment is DS or the override's. -/
def outsOnce (p : Prefixes) (n : Nat) : M Unit := do
  let s ← get
  portAccess s.dx n
  let v ← memRead (p.segOverride.getD .ds) (s.addrReg p .esi) n n
  ioWrite s.dx n (BitVec.ofNat 32 v)
  modify (fun x => x.moveAddrReg p .esi (s.stringDelta n))

/-- `rep_string(once)`, one iteration; F2H acts as F3H (44_io.md R596, 60_exceptions.md R757). Without a repeat prefix,
one element. -/
def stringInstr (p : Prefixes) (once : M Unit) : M Done := do
  noLock p
  if !p.hasRep then do
    once
    advance p 1
  else if (← get).addrReg p .ecx = 0 then advance p 1
  else do
    once
    modify (fun s => s.moveAddrReg p .ecx (-1))
    if (← get).addrReg p .ecx = 0 then advance p 1 else pure .iterate

/-- INSB (44_io.md R595, R596). -/
def execInsb (p : Prefixes) (s : State) : Out := runInstr (stringInstr p (insOnce p 1)) s

/-- INSW, INSD (44_io.md R595, R596). -/
def execInsv (p : Prefixes) (s : State) : Out := runInstr (stringInstr p (do insOnce p ((← get).opBytes p))) s

/-- OUTSB (44_io.md R594, R596). -/
def execOutsb (p : Prefixes) (s : State) : Out := runInstr (stringInstr p (outsOnce p 1)) s

/-- OUTSW, OUTSD (44_io.md R594, R596). -/
def execOutsv (p : Prefixes) (s : State) : Out := runInstr (stringInstr p (do outsOnce p ((← get).opBytes p))) s

/-- Does IOPL deny CLI and STI at this level (44_io.md R600, R601)? -/
def State.ioplDenies (s : State) : Bool := s.pe && decide (s.cpl.toNat > s.iopl.toNat)

/-- The IOPL check of STI (44_io.md R601). -/
def requireIopl : M Unit := do if (← get).ioplDenies then raiseGp0 else pure ()

/-- Does CLI act on VIF where IOPL denies it: CR4.VME in virtual-8086 mode, CR4.PVI at level 3 of protected mode (44_io.md
R600, HAS_VME)? -/
def State.hasVirtualIf (s : State) : Bool :=
  s.params.hasVME && ((s.v86 && bit s.cr4 0) || (s.protectedMode && decide (s.cpl = 3) && bit s.cr4 1))

/-- The IOPL check of PUSHF and POPF in virtual-8086 mode (44_io.md R603, R604). -/
def requireV86Iopl : M Unit := do
  let s ← get
  if s.v86 && decide (s.iopl.toNat < 3) then raiseGp0 else pure ()

/-- CLI: it clears IF, or VIF where IOPL denies it and virtual interrupts are on, else faults (44_io.md R600). -/
def execCli (p : Prefixes) (s : State) : Out :=
  runInstr (do
    plainPrefixes p
    let s ← get
    if !s.ioplDenies then modify (fun s => s.setFlag 9 false)
    else if s.hasVirtualIf then modify (fun s => s.setFlag 19 false)
    else raiseGp0
    advance p 1) s

/-- STI, with the one-instruction hold of STI_SHADOW (44_io.md R601). -/
def execSti (p : Prefixes) (s : State) : Out :=
  runInstr (do
    plainPrefixes p
    requireIopl
    modify (fun s => { s with inhibitSti := s.inhibitSti || (!s.ifl && s.params.stiShadow) })
    modify (fun s => s.setFlag 9 true)
    advance p 1) s

/-- PUSHF, PUSHFD (44_io.md R603). -/
def execPushf (p : Prefixes) (s : State) : Out :=
  runInstr (do
    plainPrefixes p
    requireV86Iopl
    let s ← get
    push (s.opBytes p) s.eflags.toNat
    advance p 1) s

/-- POPF, POPFD (44_io.md R604). POPFD alone keeps RF as loaded (46_debug.md R677 item 4). -/
def execPopf (p : Prefixes) (s : State) : Out :=
  runInstr (do
    plainPrefixes p
    requireV86Iopl
    let s ← get
    let v ← readStack s.sp (s.opBytes p)
    modify (fun x => x.setSp (x.sp + BitVec.ofNat 32 (s.opBytes p)))
    loadEflags (s.op32 p) (popfMask s.params s.iopl (s.op32 p) s.cpl) (BitVec.ofNat 32 v)
    let d ← advance p 1
    pure (if s.op32 p then .keepRf else d)) s

end Sys2Proof.Machine
end

