-- ==== Sys2Proof/Machine/Pointer.lean ====
section
/-! DEFINITION. The pointer-validation instructions LAR, LSL, VERR, VERW and ARPL (41_pointer_validation.md). -/

namespace Sys2Proof.Machine

open Sys2Proof

/-- `fetch_for_check(sel)`: none for a null selector or one outside its table (41_pointer_validation.md R430). -/
def fetchForCheck (sel : Word16) : M (Option Desc) := if isNull sel then pure none else readDescriptor sel

/-- A conforming code segment, or a descriptor visible at this level (41_pointer_validation.md R430, R431). -/
def visibleOrConforming (cpl : BitVec 2) (sel : Word16) (d : Desc) : Bool :=
  conforming (descAttr d) || dataPrivilegeOk cpl sel d

/-- The descriptors LAR answers for (41_pointer_validation.md R431). -/
def larType (d : Desc) : Bool := descS d || decide ((descType d).toNat ∈ [1, 2, 3, 4, 5, 9, 11, 12])

/-- The descriptors LSL answers for (41_pointer_validation.md R432). -/
def lslType (d : Desc) : Bool := descS d || decide ((descType d).toNat ∈ [1, 2, 3, 9, 11])

/-- What LAR loads: the second doubleword masked by 00FXFF00H, bits 19:16 from a free value
(41_pointer_validation.md R431, U22). -/
def larValue (d : Desc) (free : Word32) : Word32 := (d.hi &&& 0x00F0FF00) ||| (free &&& 0x000F0000)

/-- Write ZF alone (41_pointer_validation.md R431). -/
def setZf (b : Bool) : M Unit := modify (fun s => s.setFlag 6 b)

/-- LAR (41_pointer_validation.md R431). -/
def execLar (p : Prefixes) (r : Reg) (rm : Rm) (s : State) : Out :=
  runInstr (do
    plainPrefixes p
    requireProtected
    let sel ← readRm16 p rm
    let s ← get
    match ← fetchForCheck sel with
    | none => setZf false
    | some d =>
      if larType d && visibleOrConforming s.cpl sel d then do
        let f ← freshWord
        modify (fun s => s.setRegV p r (larValue d f))
        setZf true
      else setZf false
    advance p (2 + rm.size)) s

/-- LSL (41_pointer_validation.md R432). -/
def execLsl (p : Prefixes) (r : Reg) (rm : Rm) (s : State) : Out :=
  runInstr (do
    plainPrefixes p
    requireProtected
    let sel ← readRm16 p rm
    let s ← get
    match ← fetchForCheck sel with
    | none => setZf false
    | some d =>
      if lslType d && visibleOrConforming s.cpl sel d then do
        modify (fun s => s.setRegV p r (descLimit d))
        setZf true
      else setZf false
    advance p (2 + rm.size)) s

/-- Is a segment readable at this level (41_pointer_validation.md R433)? -/
def verrOk (cpl : BitVec 2) (sel : Word16) (d : Desc) : Bool :=
  visibleOrConforming cpl sel d && readable (descAttr d)

/-- Is a segment writable at this level (41_pointer_validation.md R434)? -/
def verwOk (cpl : BitVec 2) (sel : Word16) (d : Desc) : Bool :=
  dataPrivilegeOk cpl sel d && writable (descAttr d)

/-- VERR (41_pointer_validation.md R433). -/
def execVerr (p : Prefixes) (rm : Rm) (s : State) : Out :=
  runInstr (do
    plainPrefixes p
    requireProtected
    let sel ← readRm16 p rm
    let s ← get
    match ← fetchForCheck sel with
    | none => setZf false
    | some d => setZf (verrOk s.cpl sel d)
    advance p (2 + rm.size)) s

/-- VERW (41_pointer_validation.md R434). -/
def execVerw (p : Prefixes) (rm : Rm) (s : State) : Out :=
  runInstr (do
    plainPrefixes p
    requireProtected
    let sel ← readRm16 p rm
    let s ← get
    match ← fetchForCheck sel with
    | none => setZf false
    | some d => setZf (verwOk s.cpl sel d)
    advance p (2 + rm.size)) s

/-- The selector ARPL leaves: the greater RPL of the two (41_pointer_validation.md R435). -/
def adjustRpl (d s : Word16) : Word16 := if (rpl d).toNat < (rpl s).toNat then withRpl d (rpl s) else d

/-- ARPL (41_pointer_validation.md R435). A memory destination is checked for writing before it is read. -/
def execArpl (p : Prefixes) (rm : Rm) (r : Reg) (s : State) : Out :=
  runInstr (do
    plainPrefixes p
    requireProtected
    let src := lo16 ((← get).reg r)
    match rm with
    | .reg d => do
      let old := lo16 ((← get).reg d)
      modify (fun s => s.setReg16 d (adjustRpl old src))
      setZf (decide ((rpl old).toNat < (rpl src).toNat))
    | .mem m => do
      let slot ← probeMem p m 0 2 2
      let old := BitVec.ofNat 16 (← slotRead slot)
      if (rpl old).toNat < (rpl src).toNat then do
        slotWrite slot (adjustRpl old src).toNat
        setZf true
      else setZf false
    advance p (1 + rm.size)) s

end Sys2Proof.Machine
end

