-- ==== Sys2Proof/Machine/System.lean ====
section
/-! DEFINITION. The system-register and system-control instructions (40_system_registers.md). -/

namespace Sys2Proof.Machine

open Sys2Proof

/-- The arithmetic flags OF, SF, ZF, AF, PF, CF take free values (40_system_registers.md R380, U20). -/
def freeArithFlags : M Unit := do
  let f ← freshWord
  modify (fun s => s.mergeEflags 0x000008D5 f)

/-- An instruction of the i486 and later: `#UD` on the i386 (40_system_registers.md R370). -/
def requireI486 : M Unit := do if (← get).params.family = .i386 then raiseUd else pure ()

/-- The linear operand of an instruction whose r/m operand must be memory: `#UD` for a register (30_encoding.md R355). -/
def requireMem : Rm → M MemOp
  | .reg _ => raiseUd
  | .mem m => pure m

/-- The pseudo-descriptor load of LGDT and LIDT: one operand of six bytes (40_system_registers.md R372, R374,
21_segmentation.md R234). -/
def loadPseudo (p : Prefixes) (m : MemOp) : M TableReg := do
  checkExtent p m 6 false
  let lim ← readMem p m 0 2 2
  let base ← readMem p m 2 4 4
  let b : Word32 := BitVec.ofNat 32 base
  pure ⟨if (← get).op32 p then b else b &&& 0x00FFFFFF, BitVec.ofNat 16 lim⟩

/-- The pseudo-descriptor store of SGDT and SIDT: one operand of six bytes, both of whose parts are checked before either is written; with a 16-bit operand
size byte 5 is a free value (40_system_registers.md R373, R375, U19). -/
def storePseudo (p : Prefixes) (m : MemOp) (t : TableReg) : M Unit := do
  checkExtent p m 6 true
  let limSlot ← probeMem p m 0 2 2
  let baseSlot ← probeMem p m 2 4 4
  let base ← if (← get).op32 p then pure t.base
    else do
      let f ← freshWord
      pure (f.extractLsb' 24 8 ++ t.base.extractLsb' 0 24)
  slotWrite limSlot t.limit.toNat
  slotWrite baseSlot base.toNat

/-- A descriptor of the GDT by selector, or `#GP(sel)`: TI set or beyond the limit (40_system_registers.md R376,
R378). -/
def gdtDescriptor (sel : Word16) : M Desc := do
  let s ← get
  if selTi sel then raiseSel .gp sel false
  else do
    match ← tableRead s.gdtr.base s.gdtr.limit.toNat true (selIndex sel) with
    | none => raiseSel .gp sel false
    | some d => pure d

/-- SLDT (40_system_registers.md R377). -/
def execSldt (p : Prefixes) (rm : Rm) (s : State) : Out :=
  runInstr (do
    plainPrefixes p
    requireProtected
    storeRm16 p rm (← get).ldtr.sel
    advance p (2 + rm.size)) s

/-- STR (40_system_registers.md R379). -/
def execStr (p : Prefixes) (rm : Rm) (s : State) : Out :=
  runInstr (do
    plainPrefixes p
    requireProtected
    storeRm16 p rm (← get).tr.sel
    advance p (2 + rm.size)) s

/-- The load of LDTR with a selector that is not null (40_system_registers.md R376). -/
def loadLdtr (sel : Word16) : M Unit := do
  let d ← gdtDescriptor sel
  if descS d || decide (descType d ≠ 2) then raiseSel .gp sel false
  else if !descP d then raiseSel .np sel false
  else modify (fun s => { s with ldtr := ⟨sel, descBase d, descLimit d, descAttr d, true⟩ })

/-- LLDT (40_system_registers.md R376). -/
def execLldt (p : Prefixes) (rm : Rm) (s : State) : Out :=
  runInstr (do
    plainPrefixes p
    requireProtected
    requireCpl0
    let sel ← readRm16 p rm
    if isNull sel then modify (fun s => { s with ldtr := { s.ldtr with sel := sel, valid := false } })
    else loadLdtr sel
    advance p (2 + rm.size)) s

/-- The load of TR, marking the TSS descriptor busy (40_system_registers.md R378). -/
def loadTr (sel : Word16) : M Unit := do
  let d ← gdtDescriptor sel
  if descS d || !decide ((descType d).toNat ∈ [1, 9]) then raiseSel .gp sel false
  else if !descP d then raiseSel .np sel false
  else do
    let busy ← linAddrs ((← get).descAddr sel 5) 1 Acc.supWrite
    updateByte busy 0 2
    modify (fun s => { s with
      tr := ⟨sel, descBase d, descLimit d, tssAttr d, true⟩ })

/-- LTR (40_system_registers.md R378). -/
def execLtr (p : Prefixes) (rm : Rm) (s : State) : Out :=
  runInstr (do
    plainPrefixes p
    requireProtected
    requireCpl0
    let sel ← readRm16 p rm
    if isNull sel then raiseGp0 else loadTr sel
    advance p (2 + rm.size)) s

/-- 0F 00 /6: an undefined encoding (30_encoding.md R355, R360). -/
def execUndef0F00r6 (_p : Prefixes) (_rm : Rm) (s : State) : Out := runInstr raiseUd s

/-- 0F 00 /7: an undefined encoding (30_encoding.md R355, R360). -/
def execUndef0F00r7 (_p : Prefixes) (_rm : Rm) (s : State) : Out := runInstr raiseUd s

/-- SGDT (40_system_registers.md R373). -/
def execSgdt (p : Prefixes) (rm : Rm) (s : State) : Out :=
  runInstr (do
    plainPrefixes p
    let m ← requireMem rm
    storePseudo p m (← get).gdtr
    advance p (2 + rm.size)) s

/-- SIDT (40_system_registers.md R375). -/
def execSidt (p : Prefixes) (rm : Rm) (s : State) : Out :=
  runInstr (do
    plainPrefixes p
    let m ← requireMem rm
    storePseudo p m (← get).idtr
    advance p (2 + rm.size)) s

/-- LGDT (40_system_registers.md R372). -/
def execLgdt (p : Prefixes) (rm : Rm) (s : State) : Out :=
  runInstr (do
    plainPrefixes p
    let m ← requireMem rm
    requireCpl0
    let t ← loadPseudo p m
    modify (fun s => { s with gdtr := t })
    advance p (2 + rm.size)) s

/-- LIDT (40_system_registers.md R374). -/
def execLidt (p : Prefixes) (rm : Rm) (s : State) : Out :=
  runInstr (do
    plainPrefixes p
    let m ← requireMem rm
    requireCpl0
    let t ← loadPseudo p m
    modify (fun s => { s with idtr := t })
    advance p (2 + rm.size)) s

/-- SMSW (40_system_registers.md R385). -/
def execSmsw (p : Prefixes) (rm : Rm) (s : State) : Out :=
  runInstr (do
    plainPrefixes p
    storeRm16 p rm (lo16 (← get).cr0)
    advance p (2 + rm.size)) s

/-- 0F 01 /5: an undefined encoding (30_encoding.md R355, R360). -/
def execUndef0F01r5 (_p : Prefixes) (_rm : Rm) (s : State) : Out := runInstr raiseUd s

/-- Entering protected mode needs CS.sel[1:0] = 0, else the model refuses (21_segmentation.md R214, D80, U34). -/
def requireEvenCs (setsPe : Bool) : M Unit := do
  let s ← get
  if setsPe && !s.pe && decide (rpl s.cs.sel ≠ 0) then refuse .protectionFromOddCs else pure ()

/-- LMSW (40_system_registers.md R384). -/
def execLmsw (p : Prefixes) (rm : Rm) (s : State) : Out :=
  runInstr (do
    plainPrefixes p
    requireCpl0
    let w ← readRm16 p rm
    requireEvenCs (w.getLsbD 0)
    modify (fun s => { s with
      cr0 := mergeBits 0x0000000E s.cr0 (w.setWidth 32) ||| (w.setWidth 32 &&& 1) })
    advance p (2 + rm.size)) s

/-- INVLPG (40_system_registers.md R399, 22_paging.md R306). That it drops the recorded translations whatever CR0.PG holds is the
model's choice, log entry 47 (DESIGN CHOICE): the code of R399 and R306 drop them, corner case (d) of R399 says that there is no
effect with paging off. -/
def execInvlpg (p : Prefixes) (rm : Rm) (s : State) : Out :=
  runInstr (do
    plainPrefixes p
    requireI486
    let m ← requireMem rm
    requireCpl0
    modify (fun s => s.invalidatePage ((s.seg (operandSeg p m)).base + s.ea m))
    advance p (2 + rm.size)) s

/-- CLTS (40_system_registers.md R386). -/
def execClts (p : Prefixes) (s : State) : Out :=
  runInstr (do
    plainPrefixes p
    requireCpl0
    modify (fun s => { s with cr0 := setBit s.cr0 3 false })
    advance p 2) s

/-- INVD: no state of the model changes, caches are not modelled (40_system_registers.md R397). -/
def execInvd (p : Prefixes) (s : State) : Out :=
  runInstr (do
    plainPrefixes p
    requireI486
    requireCpl0
    advance p 2) s

/-- WBINVD: no state of the model changes, caches are not modelled (40_system_registers.md R398). -/
def execWbinvd (p : Prefixes) (s : State) : Out :=
  runInstr (do
    plainPrefixes p
    requireI486
    requireCpl0
    advance p 2) s

/-- Does the control register exist (10_state.md R83, R87; 40_system_registers.md R380)? -/
def crExists (p : Params) (n : BitVec 3) : Bool :=
  decide (n = 0) || decide (n = 2) || decide (n = 3) || (decide (n = 4) && p.hasCR4)

/-- A control register by number (40_system_registers.md R380). -/
def State.cr (s : State) (n : BitVec 3) : Word32 :=
  match n.toNat with
  | 0 => s.cr0
  | 2 => s.cr2
  | 3 => s.cr3
  | _ => s.cr4

/-- MOV r32, CRn (40_system_registers.md R380). -/
def execMovFromCr (p : Prefixes) (r : Reg) (n : BitVec 3) (s : State) : Out :=
  runInstr (do
    plainPrefixes p
    if !crExists (← get).params n then raiseUd else pure ()
    requireCpl0
    modify (fun s => s.setReg r (s.cr n))
    freeArithFlags
    advance p 3) s

/-- The bits of CR0 a MOV writes; ET reads as 1 on the i486 and P6 (40_system_registers.md R381, 10_state.md R76). On the
i386 they are bits 0 to 4, as the mask of R381 has it, which lists PG under "i486 and later", although 10_state.md R71
reserves only NE, WP, AM, NW and CD there (DEDUCED, log entry 14). -/
def cr0Value (f : Family) (v : Word32) : Word32 :=
  match f with
  | .i386 => v &&& 0x0000001F
  | .i486 => (v &&& 0xE005002F) ||| 0x10
  | .pentium => v &&& 0xE005002F
  | .p6 => (v &&& 0xE005002F) ||| 0x10

/-- `check_pdpt` (22_paging.md R313). -/
def checkPdpt (needed : Bool) (cr3 : Word32) : M Unit := do
  if needed then
    if ← pdptOk cr3 then pure () else raiseGp0
  else pure ()

/-- `write_CR0(v)` (40_system_registers.md R381). The page-directory-pointer entries are checked whenever PG and PAE are set
afterwards, as 22_paging.md R313 and D48 say (DEDUCED, log entry 44). -/
def writeCr0 (v : Word32) : M Unit := do
  let s ← get
  if bit v 31 && !bit v 0 then raiseGp0
  else do
    requireEvenCs (bit v 0)
    let new := cr0Value s.params.family v
    checkPdpt (s.params.hasPAE && bit new 31 && s.cr4Pae) s.cr3
    modify (fun s => { s with cr0 := new })

/-- `write_CR3(v)` (40_system_registers.md R382; 00_scope.md R8). -/
def writeCr3 (v : Word32) : M Unit := do
  let s ← get
  let new := cr3Value s.cr4Pae v
  checkPdpt (s.params.hasPAE && s.cr4Pae && s.pg) new
  requireAsRead (cr3AsRead s.cr4Pae v)
  modify (fun s => State.flushTlb { s with cr3 := new })

/-- The bits of CR4 whose feature is present (10_state.md R87, 40_system_registers.md R383). -/
def cr4Present (p : Params) : Word32 :=
  (if p.hasVME then 0x3 else 0) ||| (if p.hasTSC then 0x4 else 0) ||| (if p.hasDE then 0x8 else 0) |||
    (if p.hasPSE then 0x10 else 0) ||| (if p.hasPAE then 0x20 else 0) ||| (if p.hasMCE then 0x40 else 0) |||
    (if p.hasPGE then 0x80 else 0) ||| (if p.hasPMC then 0x100 else 0) ||| (if p.hasFXSR then 0x200 else 0) |||
    (if p.hasXMM then 0x400 else 0)

/-- `write_CR4(v)` (40_system_registers.md R383); the page-directory-pointer entries as for CR0 (22_paging.md R313, D48; DEDUCED,
log entry 44). -/
def writeCr4 (v : Word32) : M Unit := do
  let s ← get
  if v &&& ~~~(cr4Present s.params) ≠ 0 then raiseGp0
  else do
    checkPdpt (s.params.hasPAE && bit v 5 && s.pg) s.cr3
    modify (fun s => { s with cr4 := v })

/-- MOV CRn, r32 (40_system_registers.md R380). -/
def execMovToCr (p : Prefixes) (n : BitVec 3) (r : Reg) (s : State) : Out :=
  runInstr (do
    plainPrefixes p
    if !crExists (← get).params n then raiseUd else pure ()
    requireCpl0
    let v := (← get).reg r
    match n.toNat with
    | 0 => writeCr0 v
    | 2 => modify (fun s => { s with cr2 := v })
    | 3 => writeCr3 v
    | _ => writeCr4 v
    freeArithFlags
    advance p 3) s

/-- A debug register by number, DR4 and DR5 naming DR6 and DR7 (40_system_registers.md R390). -/
def State.dr (s : State) (n : BitVec 3) : Word32 :=
  match n.toNat with
  | 0 => s.dr0
  | 1 => s.dr1
  | 2 => s.dr2
  | 3 => s.dr3
  | 4 => s.dr6
  | 5 => s.dr7
  | 6 => s.dr6
  | _ => s.dr7

/-- Write a debug register by number; reserved bits of DR6 and DR7 stay 0 (40_system_registers.md R390). -/
def State.setDr (s : State) (n : BitVec 3) (v : Word32) : State :=
  match n.toNat with
  | 0 => { s with dr0 := v }
  | 1 => { s with dr1 := v }
  | 2 => { s with dr2 := v }
  | 3 => { s with dr3 := v }
  | 4 => { s with dr6 := v &&& 0x0000E00F }
  | 5 => { s with dr7 := v &&& 0xFFFF03FF }
  | 6 => { s with dr6 := v &&& 0x0000E00F }
  | _ => { s with dr7 := v &&& 0xFFFF03FF }

/-- DR4 and DR5 raise `#UD` when CR4.DE is set (40_system_registers.md R390). -/
def State.drUndefined (s : State) (n : BitVec 3) : Bool :=
  (decide (n = 4) || decide (n = 5)) && s.params.hasDE && s.cr4De

/-- MOV r32, DRn (40_system_registers.md R390). -/
def execMovFromDr (p : Prefixes) (r : Reg) (n : BitVec 3) (s : State) : Out :=
  runInstr (do
    plainPrefixes p
    if (← get).drUndefined n then raiseUd else pure ()
    requireCpl0
    modify (fun s => s.setReg r (s.dr n))
    freeArithFlags
    advance p 3) s

/-- MOV DRn, r32 (40_system_registers.md R390). -/
def execMovToDr (p : Prefixes) (n : BitVec 3) (r : Reg) (s : State) : Out :=
  runInstr (do
    plainPrefixes p
    if (← get).drUndefined n then raiseUd else pure ()
    requireCpl0
    modify (fun s => s.setDr n (s.reg r))
    freeArithFlags
    advance p 3) s

/-- Does the test register exist? The i386 has TR6 and TR7, the i486 TR3 to TR7, the Pentium and the P6 none (10_state.md
R102, 40_system_registers.md R394, U3). -/
def trExists (p : Params) (n : BitVec 3) : Bool :=
  p.hasTestRegs &&
    match p.family with
    | .i386 => decide (6 ≤ n.toNat)
    | .i486 => decide (3 ≤ n.toNat)
    | .pentium => false
    | .p6 => false

/-- A test register by number (40_system_registers.md R394). -/
def State.testReg (s : State) (n : BitVec 3) : Word32 :=
  match n.toNat with
  | 3 => s.testRegs.tr3
  | 4 => s.testRegs.tr4
  | 5 => s.testRegs.tr5
  | 6 => s.testRegs.tr6
  | _ => s.testRegs.tr7

/-- Write a test register by number: plain storage (40_system_registers.md R394). -/
def State.setTestReg (s : State) (n : BitVec 3) (v : Word32) : State :=
  { s with testRegs :=
      match n.toNat with
      | 3 => { s.testRegs with tr3 := v }
      | 4 => { s.testRegs with tr4 := v }
      | 5 => { s.testRegs with tr5 := v }
      | 6 => { s.testRegs with tr6 := v }
      | _ => { s.testRegs with tr7 := v } }

/-- MOV r32, TRn (40_system_registers.md R394). -/
def execMovFromTr (p : Prefixes) (r : Reg) (n : BitVec 3) (s : State) : Out :=
  runInstr (do
    plainPrefixes p
    if !trExists (← get).params n then raiseUd else pure ()
    requireCpl0
    modify (fun s => s.setReg r (s.testReg n))
    freeArithFlags
    advance p 3) s

/-- MOV TRn, r32 (40_system_registers.md R394). -/
def execMovToTr (p : Prefixes) (n : BitVec 3) (r : Reg) (s : State) : Out :=
  runInstr (do
    plainPrefixes p
    if !trExists (← get).params n then raiseUd else pure ()
    requireCpl0
    modify (fun s => s.setTestReg n (s.reg r))
    freeArithFlags
    advance p 3) s

/-- A feature of the family: its instruction raises `#UD` without it (30_encoding.md R355 item 1). -/
def requireFeature (has : Bool) : M Unit := if has then pure () else raiseUd

/-- The value of a model-specific register, if the file has it (10_state.md R110). -/
def msrValue : List Msr → Word32 → Option (BitVec 64)
  | [], _ => none
  | m :: ms, n => if m.number = n then some m.value else msrValue ms n

/-- A file of model-specific registers with the one of a number written. -/
def setMsr (n : Word32) (v : BitVec 64) : List Msr → List Msr
  | [] => []
  | m :: ms => if m.number = n then { m with value := v } :: ms else m :: setMsr n v ms

/-- Does the number name the time-stamp counter (40_system_registers.md R412)? -/
def State.isTscMsr (s : State) (n : Word32) : Bool := s.params.hasTSC && decide (s.params.tscMsr = some n)

/-- The value RDMSR reads under a number, if any: the time-stamp counter's or one of the file (40_system_registers.md R412). -/
def State.msr (s : State) (n : Word32) : Option (BitVec 64) :=
  if s.isTscMsr n then some s.tsc else msrValue s.msrs n

/-- The state once WRMSR has written the value under a number (40_system_registers.md R413). That the time-stamp counter is
written through its number is PRESUMED, log entry 5; that no number names a performance counter, which R415 leaves open, is the
model's choice, log entry 48 (DESIGN CHOICE). -/
def State.setMsr (s : State) (n : Word32) (v : BitVec 64) : State :=
  if s.isTscMsr n then { s with tsc := v } else { s with msrs := Machine.setMsr n v s.msrs }

/-- A 64-bit value in EDX:EAX. -/
def State.setEdxEax (s : State) (v : BitVec 64) : State :=
  (s.setReg .edx (v.extractLsb' 32 32)).setReg .eax (v.extractLsb' 0 32)

/-- WRMSR (40_system_registers.md R413). -/
def execWrmsr (p : Prefixes) (s : State) : Out :=
  runInstr (do
    plainPrefixes p
    requireFeature (← get).params.hasMSR
    requireCpl0
    let s ← get
    match s.msr (s.reg .ecx) with
    | none => raiseGp0
    | some _ => set (s.setMsr (s.reg .ecx) (s.reg .edx ++ s.reg .eax))
    advance p 2) s

/-- RDTSC (40_system_registers.md R414). -/
def execRdtsc (p : Prefixes) (s : State) : Out :=
  runInstr (do
    plainPrefixes p
    requireFeature (← get).params.hasTSC
    if (← get).cr4Tsd then requireCpl0 else pure ()
    modify (fun s => s.setEdxEax s.tsc)
    advance p 2) s

/-- RDMSR (40_system_registers.md R412). -/
def execRdmsr (p : Prefixes) (s : State) : Out :=
  runInstr (do
    plainPrefixes p
    requireFeature (← get).params.hasMSR
    requireCpl0
    let s ← get
    match s.msr (s.reg .ecx) with
    | none => raiseGp0
    | some v => set (s.setEdxEax v)
    advance p 2) s

/-- RDPMC (40_system_registers.md R415). No instruction changes the counters: log entry 48. -/
def execRdpmc (p : Prefixes) (s : State) : Out :=
  runInstr (do
    plainPrefixes p
    requireFeature (← get).params.hasPMC
    if (← get).cr4Pce then pure () else requireCpl0
    let s ← get
    if s.reg .ecx = 0 then set (s.setEdxEax (s.pmc0.setWidth 64))
    else if s.reg .ecx = 1 then set (s.setEdxEax (s.pmc1.setWidth 64))
    else raiseGp0
    advance p 2) s

/-- RSM outside system-management mode, which is not modelled: `#UD` (40_system_registers.md R408, D55). -/
def execRsm (_p : Prefixes) (s : State) : Out := runInstr raiseUd s

/-- HLT (40_system_registers.md R405). -/
def execHlt (p : Prefixes) (s : State) : Out :=
  runInstr (do
    plainPrefixes p
    requireCpl0
    modify (fun s => { s with run := .halted })
    advance p 1) s

end Sys2Proof.Machine
end

