-- ==== Sys2Proof/Machine/Reserved.lean ====
section
/-! DEFINITION. Prefixes that stand before no instruction of the spec (30_encoding.md R338, R360), and the reserved opcodes
(R356). -/

namespace Sys2Proof.Machine

open Sys2Proof

/-- Is the r/m operand a register? -/
def Rm.isReg : Rm → Bool
  | .reg _ => true
  | .mem _ => false

/-- Does the instruction raise `#UD` in this state before anything else of it is looked at: an encoding that is no
instruction of this processor, a register where memory must be, a segment register that does not exist, an instruction of
protected mode outside it, LOCK before an instruction that cannot be locked (30_encoding.md R355, R340)? The reserved opcodes
do not (R356). -/
def undefinedForm (s : State) (lock : Bool) : Instr → Bool
  | .undef0F00r6 _ _ | .undef0F00r7 _ _ | .undef0F01r5 _ _ | .rsm _ => true
  | .sldt _ _ | .str _ _ | .lldt _ _ | .ltr _ _ | .verr _ _ | .verw _ _ | .lar _ _ _ | .lsl _ _ _ | .arpl _ _ _ =>
    lock || !s.protectedMode
  | .sgdt _ rm | .sidt _ rm | .lgdt _ rm | .lidt _ rm | .les _ _ rm | .lds _ _ rm | .lss _ _ rm | .lfs _ _ rm
  | .lgs _ _ rm | .jmpFarMem _ rm | .callFarMem _ rm | .bound _ _ rm => lock || Rm.isReg rm
  | .invlpg _ rm => lock || Rm.isReg rm || decide (s.params.family = .i386)
  | .invd _ | .wbinvd _ => lock || decide (s.params.family = .i386)
  | .movFromCr _ _ n | .movToCr _ n _ => lock || !crExists s.params n
  | .movFromDr _ _ n | .movToDr _ n _ => lock || s.drUndefined n
  | .movFromTr _ _ n | .movToTr _ n _ => lock || !trExists s.params n
  | .rdmsr _ | .wrmsr _ => lock || !s.params.hasMSR
  | .rdtsc _ => lock || !s.params.hasTSC
  | .rdpmc _ => lock || !s.params.hasPMC
  | .movToSeg _ c _ => lock || decide (c = 1) || (SegReg.ofCode? c).isNone
  | .movFromSeg _ _ c => lock || (SegReg.ofCode? c).isNone
  | .smsw _ _ | .lmsw _ _ | .clts _ | .hlt _ | .popEs _ | .popSs _ | .popDs _ | .popFs _ | .popGs _ | .pushEs _ | .pushCs _
  | .pushSs _ | .pushDs _ | .pushFs _ | .pushGs _ | .jmpRel8 _ _ | .jmpRel _ _ | .jmpRm _ _ | .jmpFar _ _ | .callRel _ _
  | .callRm _ _ | .callFar _ _ | .ret _ | .retImm _ _ | .retFar _ | .retFarImm _ _ | .inAlImm _ _ | .inAxImm _ _ | .inAlDx _
  | .inAxDx _ | .outImmAl _ _ | .outImmAx _ _ | .outDxAl _ | .outDxAx _ | .insb _ | .insv _ | .outsb _ | .outsv _ | .cli _
  | .sti _ | .pushf _ | .popf _ | .int3 _ | .intImm _ _ | .into _ | .iret _ | .wait _ | .esc _ _ _ _ | .fninit _ | .fnclex _
  | .fnstswAx _ | .fnstswMem _ _ | .fnstcw _ _ | .fnstenv _ _ | .fnsave _ _ => lock
  | .prefixLock _ _ | .prefixRepne _ _ | .prefixRep _ _ | .prefixEs _ _ | .prefixCs _ _ | .prefixSs _ _ | .prefixDs _ _
  | .prefixFs _ _ | .prefixGs _ _ | .prefixOpSize _ _ | .prefixAddrSize _ _ => false
  | .reserved82 _ | .reservedD6 _ | .reservedF1 _ | .reserved0F07 _ | .reserved0F10 _ | .reserved0F11 _ | .reserved0F12 _
  | .reserved0F13 _ | .reservedF6r1 _ _ | .reservedF7r1 _ _ | .reservedC0r6 _ _ | .reservedC1r6 _ _ | .reservedD0r6 _ _
  | .reservedD1r6 _ _ | .reservedD2r6 _ _ | .reservedD3r6 _ _ => false

/-- Do the fifteen bytes of a string that is too long settle already that it raises `#UD`, whatever follows them? Then `#UD`
comes before the length (60_exceptions.md R790 item 2). -/
def undefinedSoFar (s : State) (p : Prefixes) (body : List Byte) : Bool :=
  (beginnings s.cs.attr.db p body).all (fun d =>
    match d with
    | .instr i _ => undefinedForm s (p.has .lock) i
    | .more => false
    | .application _ => false)

/-- What a prefix row does, `p` being all the prefixes: a string that is too long raises `#GP(0)`, after `#UD` (30_encoding.md
R338, 60_exceptions.md R790); before an opcode of the application instruction set the model refuses (R360, D51). -/
def strayPrefix (p : Prefixes) (t : PrefixTail) : M Done := do
  match t with
  | .overlong body => if undefinedSoFar (← get) p body then raiseUd else raiseGp0
  | .application _ => refuse .applicationOpcode

/-- LOCK (F0) before no instruction of the spec (30_encoding.md R340, R338, R360). -/
def execPrefixLock (p : Prefixes) (t : PrefixTail) (s : State) : Out := runInstr (strayPrefix (.lock :: p) t) s

/-- REPNE (F2) before no instruction of the spec (30_encoding.md R339, R338, R360). -/
def execPrefixRepne (p : Prefixes) (t : PrefixTail) (s : State) : Out := runInstr (strayPrefix (.repne :: p) t) s

/-- REP (F3) before no instruction of the spec (30_encoding.md R339, R338, R360). -/
def execPrefixRep (p : Prefixes) (t : PrefixTail) (s : State) : Out := runInstr (strayPrefix (.rep :: p) t) s

/-- ES: (26) before no instruction of the spec (30_encoding.md R337, R338, R360). -/
def execPrefixEs (p : Prefixes) (t : PrefixTail) (s : State) : Out := runInstr (strayPrefix (.es :: p) t) s

/-- CS: (2E) before no instruction of the spec (30_encoding.md R337, R338, R360). -/
def execPrefixCs (p : Prefixes) (t : PrefixTail) (s : State) : Out := runInstr (strayPrefix (.cs :: p) t) s

/-- SS: (36) before no instruction of the spec (30_encoding.md R337, R338, R360). -/
def execPrefixSs (p : Prefixes) (t : PrefixTail) (s : State) : Out := runInstr (strayPrefix (.ss :: p) t) s

/-- DS: (3E) before no instruction of the spec (30_encoding.md R337, R338, R360). -/
def execPrefixDs (p : Prefixes) (t : PrefixTail) (s : State) : Out := runInstr (strayPrefix (.ds :: p) t) s

/-- FS: (64) before no instruction of the spec (30_encoding.md R337, R338, R360). -/
def execPrefixFs (p : Prefixes) (t : PrefixTail) (s : State) : Out := runInstr (strayPrefix (.fs :: p) t) s

/-- GS: (65) before no instruction of the spec (30_encoding.md R337, R338, R360). -/
def execPrefixGs (p : Prefixes) (t : PrefixTail) (s : State) : Out := runInstr (strayPrefix (.gs :: p) t) s

/-- The operand-size prefix (66) before no instruction of the spec (30_encoding.md R335, R338, R360). -/
def execPrefixOpSize (p : Prefixes) (t : PrefixTail) (s : State) : Out := runInstr (strayPrefix (.opSize :: p) t) s

/-- The address-size prefix (67) before no instruction of the spec (30_encoding.md R335, R338, R360). -/
def execPrefixAddrSize (p : Prefixes) (t : PrefixTail) (s : State) : Out := runInstr (strayPrefix (.addrSize :: p) t) s

/-- The reserved opcode 82: what it does is not stated (30_encoding.md R356, U18). -/
def execReserved82 (_p : Prefixes) (s : State) : Out := runInstr (refuse .reservedOpcode) s

/-- The reserved opcode D6: what it does is not stated (30_encoding.md R356, U18). -/
def execReservedD6 (_p : Prefixes) (s : State) : Out := runInstr (refuse .reservedOpcode) s

/-- The reserved opcode F1: what it does is not stated (30_encoding.md R356, U18). -/
def execReservedF1 (_p : Prefixes) (s : State) : Out := runInstr (refuse .reservedOpcode) s

/-- The reserved opcode 0F 07: what it does is not stated (30_encoding.md R356, U18). -/
def execReserved0F07 (_p : Prefixes) (s : State) : Out := runInstr (refuse .reservedOpcode) s

/-- The reserved opcode 0F 10: what it does is not stated (30_encoding.md R356, U18). -/
def execReserved0F10 (_p : Prefixes) (s : State) : Out := runInstr (refuse .reservedOpcode) s

/-- The reserved opcode 0F 11: what it does is not stated (30_encoding.md R356, U18). -/
def execReserved0F11 (_p : Prefixes) (s : State) : Out := runInstr (refuse .reservedOpcode) s

/-- The reserved opcode 0F 12: what it does is not stated (30_encoding.md R356, U18). -/
def execReserved0F12 (_p : Prefixes) (s : State) : Out := runInstr (refuse .reservedOpcode) s

/-- The reserved opcode 0F 13: what it does is not stated (30_encoding.md R356, U18). -/
def execReserved0F13 (_p : Prefixes) (s : State) : Out := runInstr (refuse .reservedOpcode) s

/-- The reserved opcode F6 /1: what it does is not stated (30_encoding.md R356, U18). -/
def execReservedF6r1 (_p : Prefixes) (_rm : Rm) (s : State) : Out := runInstr (refuse .reservedOpcode) s

/-- The reserved opcode F7 /1: what it does is not stated (30_encoding.md R356, U18). -/
def execReservedF7r1 (_p : Prefixes) (_rm : Rm) (s : State) : Out := runInstr (refuse .reservedOpcode) s

/-- The reserved opcode C0 /6: what it does is not stated (30_encoding.md R356, U18). -/
def execReservedC0r6 (_p : Prefixes) (_rm : Rm) (s : State) : Out := runInstr (refuse .reservedOpcode) s

/-- The reserved opcode C1 /6: what it does is not stated (30_encoding.md R356, U18). -/
def execReservedC1r6 (_p : Prefixes) (_rm : Rm) (s : State) : Out := runInstr (refuse .reservedOpcode) s

/-- The reserved opcode D0 /6: what it does is not stated (30_encoding.md R356, U18). -/
def execReservedD0r6 (_p : Prefixes) (_rm : Rm) (s : State) : Out := runInstr (refuse .reservedOpcode) s

/-- The reserved opcode D1 /6: what it does is not stated (30_encoding.md R356, U18). -/
def execReservedD1r6 (_p : Prefixes) (_rm : Rm) (s : State) : Out := runInstr (refuse .reservedOpcode) s

/-- The reserved opcode D2 /6: what it does is not stated (30_encoding.md R356, U18). -/
def execReservedD2r6 (_p : Prefixes) (_rm : Rm) (s : State) : Out := runInstr (refuse .reservedOpcode) s

/-- The reserved opcode D3 /6: what it does is not stated (30_encoding.md R356, U18). -/
def execReservedD3r6 (_p : Prefixes) (_rm : Rm) (s : State) : Out := runInstr (refuse .reservedOpcode) s

end Sys2Proof.Machine
end

