-- ==== Sys2Proof/Machine/Segments.lean ====
section
/-! DEFINITION. Loading and storing segment registers: MOV, POP, PUSH and the LDS family (42_control_transfer.md R463 to
R467). -/

namespace Sys2Proof.Machine

open Sys2Proof

/-- MOV Sreg, r/m16 (42_control_transfer.md R463, 45_interrupt_instructions.md R650). -/
def execMovToSeg (p : Prefixes) (sreg : BitVec 3) (rm : Rm) (s : State) : Out :=
  runInstr (do
    plainPrefixes p
    match SegReg.ofCode? sreg with
    | none => raiseUd
    | some r =>
      if r = .cs then raiseUd
      else do
        let sel ← readRm16 p rm
        loadSeg r sel
        if r = .ss then modify (fun s => { s with inhibitSs := true }) else pure ()
        advance p (1 + rm.size)) s

/-- MOV r/m16, Sreg (42_control_transfer.md R464). -/
def execMovFromSeg (p : Prefixes) (rm : Rm) (sreg : BitVec 3) (s : State) : Out :=
  runInstr (do
    plainPrefixes p
    match SegReg.ofCode? sreg with
    | none => raiseUd
    | some r => do
      storeRm16 p rm ((← get).seg r).sel
      advance p (1 + rm.size)) s

/-- POP of a segment register: the pointer moves after the register is replaced (42_control_transfer.md R465). -/
def popSeg (p : Prefixes) (r : SegReg) : M Unit := do
  let s ← get
  let b := s.opBytes p
  let v ← readStack s.sp b
  loadSeg r (BitVec.ofNat 16 v)
  modify (fun s => s.setSp (s.sp + BitVec.ofNat 32 b))

/-- PUSH of a segment register: the upper word of a doubleword is 0 (42_control_transfer.md R466). -/
def pushSeg (p : Prefixes) (r : SegReg) : M Unit := do
  let s ← get
  push (s.opBytes p) (s.seg r).sel.toNat

/-- LDS, LES, LSS, LFS, LGS: both registers are written or neither (42_control_transfer.md R467). -/
def loadFarPointer (p : Prefixes) (g : SegReg) (r : Reg) (rm : Rm) : M Unit := do
  let m ← match rm with
    | .reg _ => raiseUd
    | .mem m => pure m
  let (off, sel) ← readFar p m ((← get).opBytes p)
  let s ← get
  loadSeg g sel
  modify (fun x => if s.op32 p then x.setReg r off else x.setReg16 r (lo16 off))

/-- POP ES (42_control_transfer.md R465). -/
def execPopEs (p : Prefixes) (s : State) : Out :=
  runInstr (do
    plainPrefixes p
    popSeg p .es
    advance p 1) s

/-- POP DS (42_control_transfer.md R465). -/
def execPopDs (p : Prefixes) (s : State) : Out :=
  runInstr (do
    plainPrefixes p
    popSeg p .ds
    advance p 1) s

/-- POP FS (42_control_transfer.md R465). -/
def execPopFs (p : Prefixes) (s : State) : Out :=
  runInstr (do
    plainPrefixes p
    popSeg p .fs
    advance p 2) s

/-- POP GS (42_control_transfer.md R465). -/
def execPopGs (p : Prefixes) (s : State) : Out :=
  runInstr (do
    plainPrefixes p
    popSeg p .gs
    advance p 2) s

/-- POP SS, which holds the next boundary (42_control_transfer.md R465, 45_interrupt_instructions.md R650). -/
def execPopSs (p : Prefixes) (s : State) : Out :=
  runInstr (do
    plainPrefixes p
    popSeg p .ss
    modify (fun s => { s with inhibitSs := true })
    advance p 1) s

/-- PUSH ES (42_control_transfer.md R466). -/
def execPushEs (p : Prefixes) (s : State) : Out :=
  runInstr (do
    plainPrefixes p
    pushSeg p .es
    advance p 1) s

/-- PUSH CS (42_control_transfer.md R466). -/
def execPushCs (p : Prefixes) (s : State) : Out :=
  runInstr (do
    plainPrefixes p
    pushSeg p .cs
    advance p 1) s

/-- PUSH SS (42_control_transfer.md R466). -/
def execPushSs (p : Prefixes) (s : State) : Out :=
  runInstr (do
    plainPrefixes p
    pushSeg p .ss
    advance p 1) s

/-- PUSH DS (42_control_transfer.md R466). -/
def execPushDs (p : Prefixes) (s : State) : Out :=
  runInstr (do
    plainPrefixes p
    pushSeg p .ds
    advance p 1) s

/-- PUSH FS (42_control_transfer.md R466). -/
def execPushFs (p : Prefixes) (s : State) : Out :=
  runInstr (do
    plainPrefixes p
    pushSeg p .fs
    advance p 2) s

/-- PUSH GS (42_control_transfer.md R466). -/
def execPushGs (p : Prefixes) (s : State) : Out :=
  runInstr (do
    plainPrefixes p
    pushSeg p .gs
    advance p 2) s

/-- LES (42_control_transfer.md R467). -/
def execLes (p : Prefixes) (r : Reg) (rm : Rm) (s : State) : Out :=
  runInstr (do
    plainPrefixes p
    loadFarPointer p .es r rm
    advance p (1 + rm.size)) s

/-- LDS (42_control_transfer.md R467). -/
def execLds (p : Prefixes) (r : Reg) (rm : Rm) (s : State) : Out :=
  runInstr (do
    plainPrefixes p
    loadFarPointer p .ds r rm
    advance p (1 + rm.size)) s

/-- LSS (42_control_transfer.md R467). It holds no boundary. -/
def execLss (p : Prefixes) (r : Reg) (rm : Rm) (s : State) : Out :=
  runInstr (do
    plainPrefixes p
    loadFarPointer p .ss r rm
    advance p (2 + rm.size)) s

/-- LFS (42_control_transfer.md R467). -/
def execLfs (p : Prefixes) (r : Reg) (rm : Rm) (s : State) : Out :=
  runInstr (do
    plainPrefixes p
    loadFarPointer p .fs r rm
    advance p (2 + rm.size)) s

/-- LGS (42_control_transfer.md R467). -/
def execLgs (p : Prefixes) (r : Reg) (rm : Rm) (s : State) : Out :=
  runInstr (do
    plainPrefixes p
    loadFarPointer p .gs r rm
    advance p (2 + rm.size)) s

end Sys2Proof.Machine
end

