-- ==== Sys2Proof/Machine/Dispatch.lean ====
section
/-! DEFINITION. The meaning of each instruction: one arm per constructor of `Instr`, each one direct call. -/

namespace Sys2Proof.Machine

open Sys2Proof

/-- The meaning of an instruction at a state whose EIP is the offset of its first byte. -/
def exec (i : Instr) (s : State) : Host.Outcome State Fault Refusal :=
  match i with
  | .sldt p rm => Sys2Proof.Machine.execSldt p rm s
  | .str p rm => Sys2Proof.Machine.execStr p rm s
  | .lldt p rm => Sys2Proof.Machine.execLldt p rm s
  | .ltr p rm => Sys2Proof.Machine.execLtr p rm s
  | .verr p rm => Sys2Proof.Machine.execVerr p rm s
  | .verw p rm => Sys2Proof.Machine.execVerw p rm s
  | .undef0F00r6 p rm => Sys2Proof.Machine.execUndef0F00r6 p rm s
  | .undef0F00r7 p rm => Sys2Proof.Machine.execUndef0F00r7 p rm s
  | .sgdt p rm => Sys2Proof.Machine.execSgdt p rm s
  | .sidt p rm => Sys2Proof.Machine.execSidt p rm s
  | .lgdt p rm => Sys2Proof.Machine.execLgdt p rm s
  | .lidt p rm => Sys2Proof.Machine.execLidt p rm s
  | .smsw p rm => Sys2Proof.Machine.execSmsw p rm s
  | .undef0F01r5 p rm => Sys2Proof.Machine.execUndef0F01r5 p rm s
  | .lmsw p rm => Sys2Proof.Machine.execLmsw p rm s
  | .invlpg p rm => Sys2Proof.Machine.execInvlpg p rm s
  | .lar p r rm => Sys2Proof.Machine.execLar p r rm s
  | .lsl p r rm => Sys2Proof.Machine.execLsl p r rm s
  | .clts p => Sys2Proof.Machine.execClts p s
  | .invd p => Sys2Proof.Machine.execInvd p s
  | .wbinvd p => Sys2Proof.Machine.execWbinvd p s
  | .movFromCr p r cr => Sys2Proof.Machine.execMovFromCr p r cr s
  | .movFromDr p r dr => Sys2Proof.Machine.execMovFromDr p r dr s
  | .movToCr p cr r => Sys2Proof.Machine.execMovToCr p cr r s
  | .movToDr p dr r => Sys2Proof.Machine.execMovToDr p dr r s
  | .movFromTr p r tr => Sys2Proof.Machine.execMovFromTr p r tr s
  | .movToTr p tr r => Sys2Proof.Machine.execMovToTr p tr r s
  | .wrmsr p => Sys2Proof.Machine.execWrmsr p s
  | .rdtsc p => Sys2Proof.Machine.execRdtsc p s
  | .rdmsr p => Sys2Proof.Machine.execRdmsr p s
  | .rdpmc p => Sys2Proof.Machine.execRdpmc p s
  | .rsm p => Sys2Proof.Machine.execRsm p s
  | .hlt p => Sys2Proof.Machine.execHlt p s
  | .arpl p rm r => Sys2Proof.Machine.execArpl p rm r s
  | .movToSeg p sreg rm => Sys2Proof.Machine.execMovToSeg p sreg rm s
  | .movFromSeg p rm sreg => Sys2Proof.Machine.execMovFromSeg p rm sreg s
  | .popEs p => Sys2Proof.Machine.execPopEs p s
  | .popSs p => Sys2Proof.Machine.execPopSs p s
  | .popDs p => Sys2Proof.Machine.execPopDs p s
  | .popFs p => Sys2Proof.Machine.execPopFs p s
  | .popGs p => Sys2Proof.Machine.execPopGs p s
  | .pushEs p => Sys2Proof.Machine.execPushEs p s
  | .pushCs p => Sys2Proof.Machine.execPushCs p s
  | .pushSs p => Sys2Proof.Machine.execPushSs p s
  | .pushDs p => Sys2Proof.Machine.execPushDs p s
  | .pushFs p => Sys2Proof.Machine.execPushFs p s
  | .pushGs p => Sys2Proof.Machine.execPushGs p s
  | .les p r rm => Sys2Proof.Machine.execLes p r rm s
  | .lds p r rm => Sys2Proof.Machine.execLds p r rm s
  | .lss p r rm => Sys2Proof.Machine.execLss p r rm s
  | .lfs p r rm => Sys2Proof.Machine.execLfs p r rm s
  | .lgs p r rm => Sys2Proof.Machine.execLgs p r rm s
  | .jmpRel8 p d => Sys2Proof.Machine.execJmpRel8 p d s
  | .jmpRel p d => Sys2Proof.Machine.execJmpRel p d s
  | .jmpRm p rm => Sys2Proof.Machine.execJmpRm p rm s
  | .jmpFar p t => Sys2Proof.Machine.execJmpFar p t s
  | .jmpFarMem p rm => Sys2Proof.Machine.execJmpFarMem p rm s
  | .callRel p d => Sys2Proof.Machine.execCallRel p d s
  | .callRm p rm => Sys2Proof.Machine.execCallRm p rm s
  | .callFar p t => Sys2Proof.Machine.execCallFar p t s
  | .callFarMem p rm => Sys2Proof.Machine.execCallFarMem p rm s
  | .ret p => Sys2Proof.Machine.execRet p s
  | .retImm p n => Sys2Proof.Machine.execRetImm p n s
  | .retFar p => Sys2Proof.Machine.execRetFar p s
  | .retFarImm p n => Sys2Proof.Machine.execRetFarImm p n s
  | .inAlImm p port => Sys2Proof.Machine.execInAlImm p port s
  | .inAxImm p port => Sys2Proof.Machine.execInAxImm p port s
  | .inAlDx p => Sys2Proof.Machine.execInAlDx p s
  | .inAxDx p => Sys2Proof.Machine.execInAxDx p s
  | .outImmAl p port => Sys2Proof.Machine.execOutImmAl p port s
  | .outImmAx p port => Sys2Proof.Machine.execOutImmAx p port s
  | .outDxAl p => Sys2Proof.Machine.execOutDxAl p s
  | .outDxAx p => Sys2Proof.Machine.execOutDxAx p s
  | .insb p => Sys2Proof.Machine.execInsb p s
  | .insv p => Sys2Proof.Machine.execInsv p s
  | .outsb p => Sys2Proof.Machine.execOutsb p s
  | .outsv p => Sys2Proof.Machine.execOutsv p s
  | .cli p => Sys2Proof.Machine.execCli p s
  | .sti p => Sys2Proof.Machine.execSti p s
  | .pushf p => Sys2Proof.Machine.execPushf p s
  | .popf p => Sys2Proof.Machine.execPopf p s
  | .int3 p => Sys2Proof.Machine.execInt3 p s
  | .intImm p vector => Sys2Proof.Machine.execIntImm p vector s
  | .into p => Sys2Proof.Machine.execInto p s
  | .bound p r rm => Sys2Proof.Machine.execBound p r rm s
  | .iret p => Sys2Proof.Machine.execIret p s
  | .wait p => Sys2Proof.Machine.execWait p s
  | .esc p op reg rm => Sys2Proof.Machine.execEsc p op reg rm s
  | .fninit p => Sys2Proof.Machine.execFninit p s
  | .fnclex p => Sys2Proof.Machine.execFnclex p s
  | .fnstswAx p => Sys2Proof.Machine.execFnstswAx p s
  | .fnstswMem p m => Sys2Proof.Machine.execFnstswMem p m s
  | .fnstcw p m => Sys2Proof.Machine.execFnstcw p m s
  | .fnstenv p m => Sys2Proof.Machine.execFnstenv p m s
  | .fnsave p m => Sys2Proof.Machine.execFnsave p m s
  | .prefixLock p tail => Sys2Proof.Machine.execPrefixLock p tail s
  | .prefixRepne p tail => Sys2Proof.Machine.execPrefixRepne p tail s
  | .prefixRep p tail => Sys2Proof.Machine.execPrefixRep p tail s
  | .prefixEs p tail => Sys2Proof.Machine.execPrefixEs p tail s
  | .prefixCs p tail => Sys2Proof.Machine.execPrefixCs p tail s
  | .prefixSs p tail => Sys2Proof.Machine.execPrefixSs p tail s
  | .prefixDs p tail => Sys2Proof.Machine.execPrefixDs p tail s
  | .prefixFs p tail => Sys2Proof.Machine.execPrefixFs p tail s
  | .prefixGs p tail => Sys2Proof.Machine.execPrefixGs p tail s
  | .prefixOpSize p tail => Sys2Proof.Machine.execPrefixOpSize p tail s
  | .prefixAddrSize p tail => Sys2Proof.Machine.execPrefixAddrSize p tail s
  | .reserved82 p => Sys2Proof.Machine.execReserved82 p s
  | .reservedD6 p => Sys2Proof.Machine.execReservedD6 p s
  | .reservedF1 p => Sys2Proof.Machine.execReservedF1 p s
  | .reserved0F07 p => Sys2Proof.Machine.execReserved0F07 p s
  | .reserved0F10 p => Sys2Proof.Machine.execReserved0F10 p s
  | .reserved0F11 p => Sys2Proof.Machine.execReserved0F11 p s
  | .reserved0F12 p => Sys2Proof.Machine.execReserved0F12 p s
  | .reserved0F13 p => Sys2Proof.Machine.execReserved0F13 p s
  | .reservedF6r1 p rm => Sys2Proof.Machine.execReservedF6r1 p rm s
  | .reservedF7r1 p rm => Sys2Proof.Machine.execReservedF7r1 p rm s
  | .reservedC0r6 p rm => Sys2Proof.Machine.execReservedC0r6 p rm s
  | .reservedC1r6 p rm => Sys2Proof.Machine.execReservedC1r6 p rm s
  | .reservedD0r6 p rm => Sys2Proof.Machine.execReservedD0r6 p rm s
  | .reservedD1r6 p rm => Sys2Proof.Machine.execReservedD1r6 p rm s
  | .reservedD2r6 p rm => Sys2Proof.Machine.execReservedD2r6 p rm s
  | .reservedD3r6 p rm => Sys2Proof.Machine.execReservedD3r6 p rm s

end Sys2Proof.Machine
end

