-- ==== Sys2Proof/Machine/Boundary.lean ====
section
/-! DEFINITION. The instruction boundary: fetching (30_encoding.md R338, 20_memory.md R163), what is recognised before an
instruction and in which order (60_exceptions.md R760, 46_debug.md R676, R686), and RESET (70_reset_and_hazards.md R900,
R905). -/

namespace Sys2Proof.Machine

open Sys2Proof

/-- Fetch the byte `k` bytes after EIP: a byte beyond the limit of CS raises `#GP(0)` (21_segmentation.md R234, R237). The
offset wraps modulo 2^32, which only a limit of FFFFFFFFH lets through: below it the byte at FFFFFFFFH faults first
(10_state.md R32, D28). -/
def fetchByte (k : Nat) : M Byte := do
  let s ← get
  if (s.eip + BitVec.ofNat 32 k).toNat > s.cs.limit.toNat then raiseGp0
  else do
    let v ← linRead (s.cs.base + s.eip + BitVec.ofNat 32 k) 1 (s.userAcc false)
    pure (BitVec.ofNat 8 v)

/-- Fetch until the bytes in hand are a whole instruction. `fuel` is how many more bytes the limit of 15 allows; a
longer instruction raises `#GP(0)` (30_encoding.md R338). -/
def fetchFrom (db : Bool) : Nat → List Byte → M (Option Instr)
  | fuel, bs =>
    match decode db bs with
    | .instr i _ => pure (some i)
    | .application _ => pure none
    | .more =>
      match fuel with
      | 0 => raiseGp0
      | n + 1 => do
        let b ← fetchByte bs.length
        fetchFrom db n (bs ++ [b])

/-- Fetch and decode the instruction at CS:EIP, one byte at a time, no byte beyond its last. `none`: the opcode belongs
to the application instruction set, which this spec does not define (30_encoding.md R360, D51). -/
def fetchInstr : M (Option Instr) := do
  let s ← get
  fetchFrom s.cs.attr.db 15 []

/-- `execute_one()` (60_exceptions.md R760). -/
def executeOne (s : State) : Out :=
  match fetchInstr s with
  | .ok (some i) t => exec i t
  | .ok none _ => .refused .applicationOpcode
  | .error e t => failed s e t

/-- Deliver an event recognised at an instruction boundary (60_exceptions.md R760, R800, 61_exceptions_by_vector.md
R841): the saved address is that of the next instruction, RF is saved as it stands, there is no error code. -/
def deliverEvent (vector : Byte) (s : State) : Out := settle 5 .benign (deliver vector false s.eip none false) s

/-- `take_nmi()` (60_exceptions.md R760, R770). -/
def takeNmi (s : State) : Out :=
  deliverEvent Exc.nmi.vector { s with run := .running, nmiPending := false, nmiBlocked := true }

/-- `take_intr()` (60_exceptions.md R760, R772): the acknowledge cycle supplies the vector and ends the request
(log entry 7). -/
def takeIntr (v : Byte) (s : State) : Out := deliverEvent v { s with run := .running, intr := none }

/-- Is a debug trap to be reported (46_debug.md R686)? -/
def DbPending.reports (p : DbPending) : Bool := p.bs || p.bt || p.enabledHit

/-- The low four bits of DR6 from four conditions (46_debug.md R686). -/
def hitBits (h0 h1 h2 h3 : Bool) : Word32 :=
  (if h0 then 1 else 0) ||| (if h1 then 2 else 0) ||| (if h2 then 4 else 0) ||| (if h3 then 8 else 0)

/-- What a debug trap adds to DR6 (46_debug.md R686). -/
def DbPending.dr6Bits (p : DbPending) : Word32 :=
  hitBits p.hit0 p.hit1 p.hit2 p.hit3 ||| (if p.bs then 0x4000 else 0) ||| (if p.bt then 0x8000 else 0)

/-- The state in which a debug trap is delivered; DR6 only gains bits (46_debug.md R686). -/
def State.debugTrapped (s : State) : State :=
  { s with run := .running, dr6 := s.dr6 ||| s.dbPending.dr6Bits, dbPending := DbPending.none }

/-- The delivery of `report_debug_traps()` (46_debug.md R686); the trap of the switch to a debug handler's own task loops
(R688). -/
def reportDebug (s : State) : Out :=
  if s.dbPending.bt && s.debugTrapped.ownDebugTask then settle 5 .benign debugAgain s.debugTrapped
  else deliverEvent Exc.db.vector s.debugTrapped

/-- Does instruction breakpoint `n` match the next instruction (46_debug.md R676)? -/
def codeBpMatch (s : State) (n : Nat) (dr : Word32) : Bool :=
  decide (bpRw s.dr7 n = 0) && decide (bpLen s.dr7 n = some 1) && decide (dr = s.cs.base + s.eip)

/-- Is an enabled instruction breakpoint met, with RF clear (46_debug.md R676, R677)? -/
def codeBpFires (s : State) : Bool :=
  !s.rf && ((codeBpMatch s 0 s.dr0 && bpEnabled s.dr7 0) || (codeBpMatch s 1 s.dr1 && bpEnabled s.dr7 1) ||
    (codeBpMatch s 2 s.dr2 && bpEnabled s.dr7 2) || (codeBpMatch s 3 s.dr3 && bpEnabled s.dr7 3))

/-- The delivery of `code_bp_check()`: every matching breakpoint is reported, enabled or not (46_debug.md R676). -/
def reportCodeBp (s : State) : Out :=
  deliverEvent Exc.db.vector
    { s with dr6 := s.dr6 ||| hitBits (codeBpMatch s 0 s.dr0) (codeBpMatch s 1 s.dr1) (codeBpMatch s 2 s.dr2)
                      (codeBpMatch s 3 s.dr3) }

/-- Is an NMI to be taken (60_exceptions.md R760)? -/
def nmiReady (s : State) : Bool := s.nmiPending && !s.nmiBlocked

/-- The interrupt to be taken, if INTR is asserted and IF is set (60_exceptions.md R772). -/
def intrReady (s : State) : Option Byte := if s.ifl then s.intr else none

/-- The boundary of a running machine, in the priority order of 60_exceptions.md R760 and R790. -/
def runBoundary (s : State) : Out :=
  if s.inhibitSs then
    executeOne { s with inhibitSs := false, inhibitSti := false, dbPending := { s.dbPending with bs := false } }
  else
    let b := { s with inhibitSti := false }
    if b.dbPending.reports then reportDebug b
    else
      let c := { b with dbPending := DbPending.none }
      if codeBpFires c then reportCodeBp c
      else if nmiReady c then takeNmi c
      else
        match intrReady c with
        | some v => if s.inhibitSti then executeOne c else takeIntr v c
        | none => executeOne c

/-- A halted machine: nothing happens but that time passes (60_exceptions.md R760, 40_system_registers.md R405). -/
def haltedBoundary (s : State) : Out :=
  if s.dbPending.reports then reportDebug s
  else if nmiReady s then takeNmi s
  else
    match intrReady s with
    | some v => takeIntr v s
    | none => .next s.tick

/-- A machine frozen by a floating-point error: time passes (60_exceptions.md R760, 47_fpu_system.md R722). -/
def frozenBoundary (s : State) : Out :=
  if !fpuErrorPending s.fpu || s.ignne then runBoundary { s with run := .running }
  else if nmiReady s then takeNmi s
  else
    match intrReady s with
    | some v => takeIntr v s
    | none => .next s.tick

/-- A machine in shutdown: only an NMI or RESET ends it; time passes (60_exceptions.md R760, 61_exceptions_by_vector.md R851). -/
def shutdownBoundary (s : State) : Out := if nmiReady s then takeNmi s else .next s.tick

/-- RESET of a machine that has run (70_reset_and_hazards.md R900, R905): the state of R905 takes its reset values;
memory, the model-specific registers and counters, the stack registers of the floating-point unit (all of that unit
without the self test) and the outside world keep theirs. The line itself is taken back (log entry 7). -/
def State.resetFrom (s : State) : State :=
  { State.resetWith s.params s.mem with
    fpu := if s.params.bist then fpuInitialised s.fpu else s.fpu
    pmc0 := s.pmc0
    pmc1 := s.pmc1
    msrs := s.msrs
    mxcsr := s.mxcsr
    io := s.io
    free := s.free
    intr := s.intr
    ignne := s.ignne }

/-- An NMI edge since the last step is latched (60_exceptions.md R760, R770). -/
def State.sampleNmi (s : State) : State :=
  { s with nmiPending := s.nmiPending || s.nmiEdge, nmiEdge := false }

/-- What a step does by the run state (60_exceptions.md R760). -/
def boundary (s : State) : Out :=
  match s.run with
  | .running => runBoundary s
  | .halted => haltedBoundary s
  | .fpFrozen => frozenBoundary s
  | .shutdown => shutdownBoundary s

/-- Store the bytes of an instruction at consecutive physical addresses from `a` up. -/
def placeBytes (m : List Host.Cell) (a : Nat) : List Byte → List Host.Cell
  | [] => m
  | b :: bs => placeBytes (setCell m a b) (a + 1) bs

end Sys2Proof.Machine
end

