-- ==== Sys2Proof/Machine/Step.lean ====
section
/-! DEFINITION. The step (60_exceptions.md R760), and placing an instruction where the step fetches it. -/

namespace Sys2Proof.Machine

open Sys2Proof

/-- One step of the processor: RESET, one event, or one instruction (60_exceptions.md R760). -/
def step (s : State) : Host.Outcome State Fault Refusal :=
  if s.resetLine then .next s.resetFrom else boundary s.sampleNmi

/-- The state with an instruction stored where the step fetches the next one: 15 bytes from the linear address CS.base +
EIP up, which is the physical address while paging is off (20_memory.md R126; log entry 19). -/
def State.withFetchWord (s : State) (nbits w : Nat) : State :=
  { s with mem := placeBytes s.mem (s.cs.base + s.eip).toNat (bytesOf 15 (w % 2 ^ nbits)) }

end Sys2Proof.Machine
end

