-- ==== Sys2Proof/Safety.lean ====
section
/-! DEFINITION. The terms the statements are written in: what a safe state is, when nothing is to be recognised at an
instruction boundary, and the state an instruction leaves when it completes. -/

namespace Sys2Proof.Machine

open Sys2Proof

/-- The invariant of the machine: memory is in its canonical form; the reserved bits of EFLAGS read as fixed (10_state.md
R40); CR0.PG is set only together with CR0.PE (R81); CR4 holds only bits of present features (R87); the reserved bits of DR6
and DR7 read as 0 (R95, R96). -/
structure State.Inv (s : State) : Prop where
  mem : Memory.wf s.mem = true
  eflags : fixEflags s.params s.eflags = s.eflags
  paging : s.pg = true → s.pe = true
  cr4 : s.cr4 &&& ~~~(cr4Present s.params) = 0
  dr6 : s.dr6 &&& ~~~(0x0000E00F#32) = 0
  dr7 : s.dr7 &&& ~~~(0xFFFF03FF#32) = 0

/-- The machine is running and a step has nothing to recognise before the next instruction (60_exceptions.md R760): no RESET,
no hold of the boundary, no debug condition, no NMI, no interrupt that IF admits. -/
def State.quiet (s : State) : Bool :=
  decide (s.run = .running) && !s.resetLine && !s.inhibitSs && !s.inhibitSti && decide (s.dbPending = DbPending.none) &&
    !codeBpFires s && !s.nmiPending && !s.nmiEdge && (intrReady s).isNone

/-- The first `n` bytes at CS:EIP while paging is off (20_memory.md R126). -/
def State.codeBytes (s : State) : Nat → List Byte
  | 0 => []
  | n + 1 => s.codeBytes n ++ [s.byteAt (s.cs.base + s.eip + BitVec.ofNat 32 n).toNat]

/-- Is the term one of the eleven prefix rows? -/
def isPrefixRow : Instr → Bool
  | .prefixLock _ _ => true
  | .prefixRepne _ _ => true
  | .prefixRep _ _ => true
  | .prefixEs _ _ => true
  | .prefixCs _ _ => true
  | .prefixSs _ _ => true
  | .prefixDs _ _ => true
  | .prefixFs _ _ => true
  | .prefixGs _ _ => true
  | .prefixOpSize _ _ => true
  | .prefixAddrSize _ _ => true
  | _ => false

/-- No prefix that an instruction of this spec refuses or rejects: neither LOCK nor a repeat prefix (30_encoding.md R339,
R340). -/
def Prefixes.plain (p : Prefixes) : Bool := !p.has .lock && !p.hasRep

/-- The instruction completes and the next one follows: `t` with EIP moved past the prefixes and `n` bytes, and RF clear
(42_control_transfer.md R453, 46_debug.md R677). -/
def State.retire (t : State) (p : Prefixes) (n : Nat) : State :=
  State.finish { t with eip := t.nextPc p n } .normal

/-- A transfer of control within the code segment completes: EIP is the target, RF is clear (42_control_transfer.md R468,
46_debug.md R677). -/
def State.goTo (t : State) (target : Word32) : State := State.finish { t with eip := target } .normal

/-- A word stored in a general register by SLDT, STR, SMSW or MOV from a segment register: with a 32-bit operand size the
upper half is a free value (40_system_registers.md R377, U21). -/
def State.putWord (s : State) (p : Prefixes) (r : Reg) (v : Word16) : State :=
  if s.op32 p then State.setReg { s with free := s.free + 1 } r (setLo16 (Config.freeWord s.free) v)
  else s.setReg16 r v

/-- OF, SF, ZF, AF, PF and CF hold free values (40_system_registers.md R380, U20). -/
def State.freeFlags (s : State) : State :=
  State.mergeEflags { s with free := s.free + 1 } 0x000008D5 (Config.freeWord s.free)

/-- Every byte of the slot is memory that can be written (20_memory.md R122, R123). -/
def Slot.isRam (t : State) (x : Slot) : Bool := x.addrs.all (fun a => decide (physKind t.params a = .ram))

/-- The state once the value `v` is stored in a checked slot: its bytes, little endian, and the data breakpoints it meets
(20_memory.md R120, R127). -/
def State.stored (t : State) (x : Slot) (v : Nat) : State :=
  State.dataBp { t with mem := setCells t.mem x.addrs (bytesOf x.addrs.length v) } x.la x.addrs.length true

/-- The `n`-byte value in memory at a physical address (20_memory.md R120). -/
def State.entry (s : State) (a n : Nat) : Nat := ofBytes ((addrsFrom a n).map s.byteAt)

/-- Where the page-directory entry of a linear address is, with 32-bit entries (22_paging.md R270). -/
def State.dirAddr32 (s : State) (la : Word32) : Nat := field s.cr3.toNat 31 12 * 4096 + field la.toNat 31 22 * 4

/-- Where the page-table entry of a linear address is, with 32-bit entries (22_paging.md R270). -/
def State.tableAddr32 (s : State) (la : Word32) : Nat :=
  field (s.entry (s.dirAddr32 la) 4) 31 12 * 4096 + field la.toNat 21 12 * 4

/-- Does the page-directory entry map a 4-Mbyte page (22_paging.md R290)? -/
def State.large32 (s : State) (la : Word32) : Bool :=
  s.params.hasPSE && s.cr4Pse && (s.entry (s.dirAddr32 la) 4).testBit 7

/-- The page-directory-pointer-table entry of a linear address (22_paging.md R312). -/
def State.pointerPae (s : State) (la : Word32) : Nat :=
  s.entry (field s.cr3.toNat 31 5 * 32 + field la.toNat 31 30 * 8) 8

/-- Where the page-directory entry of a linear address is, with 64-bit entries (22_paging.md R312). -/
def State.dirAddrPae (s : State) (la : Word32) : Nat :=
  field (s.pointerPae la) 35 12 * 4096 + field la.toNat 29 21 * 8

/-- Where the page-table entry of a linear address is, with 64-bit entries (22_paging.md R312). -/
def State.tableAddrPae (s : State) (la : Word32) : Nat :=
  field (s.entry (s.dirAddrPae la) 8) 35 12 * 4096 + field la.toNat 20 12 * 8

/-- The outcome of a translation is a page fault that names the linear address: CR2 holds it, and the error code says whether
the page was present, whether the access was a write, whether it was made at level 3, and, where that bit is defined, whether
a reserved bit was found set (22_paging.md R286, R287, U31). -/
def pageFaults {α : Type} (out : EStateM.Result Err State α) (s : State) (la : Word32) (acc : Acc) (present rsvd : Bool) :
    Prop :=
  ∃ code, out = .error (.exn ⟨.pf, some code, false⟩) { s with cr2 := la, free := s.free + 1 } ∧
    bit code 0 = present ∧ bit code 1 = acc.write ∧ bit code 2 = decide (s.cpl = 3) ∧
    (s.params.hasPSE36 = true ∨ s.params.hasPAE = true → bit code 3 = rsvd)

/-- An entry's rights admit the access: a user access needs US, and RW to write; a supervisor access needs RW only to write
while CR0.WP is set (22_paging.md R283). -/
def pageAllows (s : State) (acc : Acc) (us rw : Bool) : Prop :=
  (acc.user = true → us = true ∧ (acc.write = true → rw = true)) ∧
    (acc.user = false → acc.write = true → s.wp = true → rw = true)

/-- The bytes that `n` pushes of `b` bytes take on a stack, from its segment and its stack pointer (42_control_transfer.md
R452). -/
def frameBytes (seg : SegState) (esp : Word32) (b n : Nat) : List Nat :=
  (pushOffsets seg.attr.db (spOf seg.attr.db esp) b n).flatMap (fun off => linearSpan (seg.base + off) b)

/-- The items, pushed in order, stand on a stack: item by item, `b` bytes each (42_control_transfer.md R452). -/
def frameStands (t : State) (seg : SegState) (esp : Word32) (b : Nat) (items : List Nat) : Prop :=
  ∀ (k : Nat) (off : Word32) (v : Nat),
    (pushOffsets seg.attr.db (spOf seg.attr.db esp) b items.length)[k]? = some off → items[k]? = some v →
    ofBytes ((linearSpan (seg.base + off) b).map t.byteAt) = v % 256 ^ b

/-- Memory once values are stored, one after another, at offsets from a linear address while paging is off: offset, size in bytes,
value; each little endian (20_memory.md R120, R126). -/
def storedAt (m : List Host.Cell) (base : Word32) (fields : List (Nat × Nat × Nat)) : List Host.Cell :=
  fields.foldl (fun m x => setCells m (linearSpan (base + BitVec.ofNat 32 x.1) x.2.1) (bytesOf x.2.1 x.2.2)) m

/-- The `n`-byte value in memory at an offset from a linear address while paging is off (20_memory.md R120, R126). -/
def valueAt (m : List Host.Cell) (base : Word32) (off n : Nat) : Nat :=
  ofBytes ((linearSpan (base + BitVec.ofNat 32 off) n).map (cellByte m))

/-- Items read from the stack one after another, each at an offset with its size in bytes (45_interrupt_instructions.md R641,
R643). -/
def readItems : List (Word32 × Nat) → M (List Nat)
  | [] => pure []
  | x :: xs => do
    let v ← readStack x.1 x.2
    pure (v :: (← readItems xs))

/-- Does IRET at a privilege level, with an IOPL, load bit `k` of EFLAGS from the image (45_interrupt_instructions.md R642)? `vm`:
a return to virtual-8086 mode, which alone loads VM (R643). -/
def iretLoads (p : Params) (iopl cpl : BitVec 2) (wide vm : Bool) (k : Nat) : Prop :=
  k ∈ [0, 2, 4, 6, 7, 8, 10, 11, 14] ∨ k = 9 ∧ cpl.toNat ≤ iopl.toNat ∨ k ∈ [12, 13] ∧ cpl = 0 ∨ k = 17 ∧ vm = true ∨
    wide = true ∧ (k = 16 ∨ k = 18 ∧ p.hasAC = true ∨ k = 21 ∧ p.hasID = true ∨ k ∈ [19, 20] ∧ p.hasVME = true ∧ cpl = 0)

/-- EFLAGS once an image is loaded: each bit that is not reserved is the image's where IRET loads it, and otherwise as it was
(45_interrupt_instructions.md R642). -/
def flagsLoaded (s t : State) (wide vm : Bool) (image : Word32) : Prop :=
  ∀ k, bit (eflagsMask s.params) k = true →
    (iretLoads s.params s.iopl s.cpl wide vm k → bit t.eflags k = bit image k) ∧
    (¬iretLoads s.params s.iopl s.cpl wide vm k → bit t.eflags k = bit s.eflags k)

/-- Is bit `k` of EFLAGS reserved (10_state.md R40)? -/
def flagReserved (p : Params) (k : Nat) : Prop :=
  k ∈ [1, 3, 5, 15] ∨ k = 18 ∧ p.hasAC = false ∨ k ∈ [19, 20] ∧ p.hasVME = false ∨ k = 21 ∧ p.hasID = false ∨ 22 ≤ k

/-- A load of EFLAGS from an image, of 32 or of 16 bits, goes on: its reserved bits are as they read, bit 1 set and the others
clear (10_state.md R40), or the implementation keeps what they read (00_scope.md R8, U1; log entry 22). -/
def admitsImage (p : Params) (wide : Bool) (image : Word32) : Prop :=
  p.reservedWrites = .keep ∨ ∀ k, k < (if wide then 32 else 16) → flagReserved p k → bit image k = decide (k = 1)

/-- A load of CR3 goes on: the reserved bits of the value are 0, as they read (10_state.md R85), or the implementation keeps what
they read (00_scope.md R8, U1; log entry 22). -/
def admitsCr3 (s : State) (v : Word32) : Prop :=
  s.params.reservedWrites = .keep ∨ ∀ k, k < 3 ∨ s.cr4Pae = false ∧ 5 ≤ k ∧ k < 12 → bit v k = false

/-- Every byte reads the same in both states, but for those at the listed addresses. -/
def sameBytes (s t : State) (stored : List Nat) : Prop := ∀ a, a ∉ stored → t.byteAt a = s.byteAt a

/-- The exception's handler is entered, and `u` is the state there (60_exceptions.md R756, R800): `s0` is the state the
instruction began in, `t` the state it raised the exception in. -/
def enters (s0 t : State) (e : Exc) (code : Option Word32) (u : State) : Prop :=
  ∃ switched, deliver e.vector false s0.eip code true (rollback s0 t false) = .ok switched u

/-- The outcome of an instruction that began in `s0` and raises an exception in the state `t`: the exception is delivered
(60_exceptions.md R756, R800). -/
def raised (s0 t : State) (e : Exc) (code : Option Word32) : Out := failed s0 (.exn ⟨e, code, false⟩) t

end Sys2Proof.Machine
end

