-- ==== Sys2Proof/WellFormed.lean ====
section
/-! DEFINITION. When a term of `Instr` stands for a byte string: the checks an encoding makes by its form
(30_encoding.md R335, R338, R345 to R351, R360). `db` is the D bit of CS, which fixes the default sizes. -/

namespace Sys2Proof

/-- mod = 00 with rm = 110 is `[disp16]`, so BP alone needs a displacement (R347). -/
def wfBased16 : Base16 → Disp16 → Bool
  | .bp, .none => false
  | .bp, .d8 _ => true
  | .bp, .d16 _ => true
  | .bxsi, _ => true
  | .bxdi, _ => true
  | .bpsi, _ => true
  | .bpdi, _ => true
  | .si, _ => true
  | .di, _ => true
  | .bx, _ => true

/-- rm = 100 is the SIB escape and mod = 00 with rm = 101 is `[disp32]` (R346). -/
def wfBased32 (b : Reg) (d : Disp32) : Bool :=
  !decide (b = .esp) && !(decide (b = .ebp) && decide (d = .none))

/-- SIB base = 101 with mod = 00 means no base register (R346). -/
def wfSib (b : Reg) (d : Disp32) : Bool := !(decide (b = .ebp) && decide (d = .none))

/-- The memory operand has the form of the address size (R335, R346, R347). -/
def MemOp.wf (a32 : Bool) : MemOp → Bool
  | .direct16 _ => !a32
  | .based16 b d => !a32 && wfBased16 b d
  | .direct32 _ => a32
  | .based32 b d => a32 && wfBased32 b d
  | .sib _ _ b d => a32 && wfSib b d
  | .sibNoBase _ _ _ => a32

/-- An r/m operand is well formed when its memory form, if any, is. -/
def Rm.wf (a32 : Bool) : Rm → Bool
  | .reg _ => true
  | .mem m => m.wf a32

/-- A relative displacement has operand-size width (R351). -/
def Rel.wf (o32 : Bool) : Rel → Bool
  | .w16 _ => !o32
  | .w32 _ => o32

/-- A far pointer has an operand-size offset (R351). -/
def FarPtr.wf (o32 : Bool) : FarPtr → Bool
  | .p16 _ _ => !o32
  | .p32 _ _ => o32

/-- The whole instruction has at most 15 bytes (R338): `n` bytes after the prefixes. -/
def wfLen (p : Prefixes) (n : Nat) : Bool := decide (p.length + n ≤ 15)

/-- An instruction with no operand bytes after its `n` opcode bytes. -/
def wfPlain (p : Prefixes) (n : Nat) : Bool := wfLen p n

/-- An instruction with a ModR/M operand after its `n` opcode bytes. -/
def wfRm (db : Bool) (p : Prefixes) (n : Nat) (rm : Rm) : Bool :=
  rm.wf (addrSize32 db p) && wfLen p (n + rm.size)

/-- A memory-only form after its `n` opcode bytes. -/
def wfMem (db : Bool) (p : Prefixes) (n : Nat) (m : MemOp) : Bool :=
  m.wf (addrSize32 db p) && wfLen p (n + m.size)

/-- The floating-point encodings that have a row of their own (R360): they are not ESC terms. -/
def escHasOwnRow (op reg : BitVec 3) (rm : Rm) : Bool :=
  match rm with
  | .reg r =>
    (decide (op = 3) && decide (reg = 4) && (decide (r = .ebx) || decide (r = .edx)))
      || (decide (op = 7) && decide (reg = 4) && decide (r = .eax))
  | .mem _ =>
    (decide (op = 5) && (decide (reg = 6) || decide (reg = 7)))
      || (decide (op = 1) && (decide (reg = 6) || decide (reg = 7)))

/-- The opcode bytes (after the prefixes) of an instruction that no row of the table names, so that it belongs to the
application instruction set (R360, D51): one byte, 0F and a byte, or a group byte and its ModR/M byte. -/
def isApplicationOp : List Byte → Bool
  | [b] =>
    !([0xF4, 0x63, 0x8E, 0x8C, 0x07, 0x17, 0x1F, 0x06, 0x0E, 0x16, 0x1E, 0xC4, 0xC5, 0xEB, 0xE9, 0xFF, 0xEA, 0xE8, 0x9A,
       0xC3, 0xC2, 0xCB, 0xCA, 0xE4, 0xE5, 0xEC, 0xED, 0xE6, 0xE7, 0xEE, 0xEF, 0x6C, 0x6D, 0x6E, 0x6F, 0xFA, 0xFB, 0x9C,
       0x9D, 0xCC, 0xCD, 0xCE, 0x62, 0xCF, 0x9B, 0xD8, 0xD9, 0xDA, 0xDB, 0xDC, 0xDD, 0xDE, 0xDF, 0xF0, 0xF2, 0xF3, 0x26,
       0x2E, 0x36, 0x3E, 0x64, 0x65, 0x66, 0x67, 0x82, 0xD6, 0xF1, 0xF6, 0xF7, 0xC0, 0xC1, 0xD0, 0xD1, 0xD2, 0xD3,
       0x0F] : List Byte).contains b
  | [b, c] =>
    if b = 0x0F then
      !([0x00, 0x01, 0x02, 0x03, 0x06, 0x07, 0x08, 0x09, 0x10, 0x11, 0x12, 0x13, 0x20, 0x21, 0x22, 0x23, 0x24, 0x26,
         0x30, 0x31, 0x32, 0x33, 0xA0, 0xA1, 0xA8, 0xA9, 0xAA, 0xB2, 0xB4, 0xB5] : List Byte).contains c
    else if b = 0xFF then
      ([0, 1, 6, 7] : List (BitVec 3)).contains (c.extractLsb' 3 3)
    else if b = 0xF6 ∨ b = 0xF7 then !decide (c.extractLsb' 3 3 = 1)
    else if ([0xC0, 0xC1, 0xD0, 0xD1, 0xD2, 0xD3] : List Byte).contains b then !decide (c.extractLsb' 3 3 = 6)
    else false
  | [] => false
  | _ :: _ :: _ :: _ => false

/-- Is the bit list a proper beginning of an instruction: are its first bytes those of a row that needs more? It is
stated on the prefix row's own terms: a fifteen-byte string that holds no whole instruction (R338). The decoder decides
it; the check here is of the length alone. -/
def PrefixTail.wf (p : Prefixes) : PrefixTail → Bool
  | .overlong rest => decide (1 + p.length + rest.length = 15)
  | .application op => isApplicationOp op && decide (1 + p.length + op.length ≤ 15)

/-- The syntactic well-formedness of an instruction under the D bit `db` of CS. -/
def Instr.wf (db : Bool) : Instr → Bool
  | .sldt p rm => wfRm db p 2 rm
  | .str p rm => wfRm db p 2 rm
  | .lldt p rm => wfRm db p 2 rm
  | .ltr p rm => wfRm db p 2 rm
  | .verr p rm => wfRm db p 2 rm
  | .verw p rm => wfRm db p 2 rm
  | .undef0F00r6 p rm => wfRm db p 2 rm
  | .undef0F00r7 p rm => wfRm db p 2 rm
  | .sgdt p rm => wfRm db p 2 rm
  | .sidt p rm => wfRm db p 2 rm
  | .lgdt p rm => wfRm db p 2 rm
  | .lidt p rm => wfRm db p 2 rm
  | .smsw p rm => wfRm db p 2 rm
  | .undef0F01r5 p rm => wfRm db p 2 rm
  | .lmsw p rm => wfRm db p 2 rm
  | .invlpg p rm => wfRm db p 2 rm
  | .lar p _ rm => wfRm db p 2 rm
  | .lsl p _ rm => wfRm db p 2 rm
  | .clts p => wfPlain p 2
  | .invd p => wfPlain p 2
  | .wbinvd p => wfPlain p 2
  | .movFromCr p _ _ => wfPlain p 3
  | .movFromDr p _ _ => wfPlain p 3
  | .movToCr p _ _ => wfPlain p 3
  | .movToDr p _ _ => wfPlain p 3
  | .movFromTr p _ _ => wfPlain p 3
  | .movToTr p _ _ => wfPlain p 3
  | .wrmsr p => wfPlain p 2
  | .rdtsc p => wfPlain p 2
  | .rdmsr p => wfPlain p 2
  | .rdpmc p => wfPlain p 2
  | .rsm p => wfPlain p 2
  | .hlt p => wfPlain p 1
  | .arpl p rm _ => wfRm db p 1 rm
  | .movToSeg p _ rm => wfRm db p 1 rm
  | .movFromSeg p rm _ => wfRm db p 1 rm
  | .popEs p => wfPlain p 1
  | .popSs p => wfPlain p 1
  | .popDs p => wfPlain p 1
  | .popFs p => wfPlain p 2
  | .popGs p => wfPlain p 2
  | .pushEs p => wfPlain p 1
  | .pushCs p => wfPlain p 1
  | .pushSs p => wfPlain p 1
  | .pushDs p => wfPlain p 1
  | .pushFs p => wfPlain p 2
  | .pushGs p => wfPlain p 2
  | .les p _ rm => wfRm db p 1 rm
  | .lds p _ rm => wfRm db p 1 rm
  | .lss p _ rm => wfRm db p 2 rm
  | .lfs p _ rm => wfRm db p 2 rm
  | .lgs p _ rm => wfRm db p 2 rm
  | .jmpRel8 p _ => wfPlain p 2
  | .jmpRel p d => d.wf (opSize32 db p) && wfLen p (1 + d.size)
  | .jmpRm p rm => wfRm db p 1 rm
  | .jmpFar p t => t.wf (opSize32 db p) && wfLen p (1 + t.size)
  | .jmpFarMem p rm => wfRm db p 1 rm
  | .callRel p d => d.wf (opSize32 db p) && wfLen p (1 + d.size)
  | .callRm p rm => wfRm db p 1 rm
  | .callFar p t => t.wf (opSize32 db p) && wfLen p (1 + t.size)
  | .callFarMem p rm => wfRm db p 1 rm
  | .ret p => wfPlain p 1
  | .retImm p _ => wfPlain p 3
  | .retFar p => wfPlain p 1
  | .retFarImm p _ => wfPlain p 3
  | .inAlImm p _ => wfPlain p 2
  | .inAxImm p _ => wfPlain p 2
  | .inAlDx p => wfPlain p 1
  | .inAxDx p => wfPlain p 1
  | .outImmAl p _ => wfPlain p 2
  | .outImmAx p _ => wfPlain p 2
  | .outDxAl p => wfPlain p 1
  | .outDxAx p => wfPlain p 1
  | .insb p => wfPlain p 1
  | .insv p => wfPlain p 1
  | .outsb p => wfPlain p 1
  | .outsv p => wfPlain p 1
  | .cli p => wfPlain p 1
  | .sti p => wfPlain p 1
  | .pushf p => wfPlain p 1
  | .popf p => wfPlain p 1
  | .int3 p => wfPlain p 1
  | .intImm p _ => wfPlain p 2
  | .into p => wfPlain p 1
  | .bound p _ rm => wfRm db p 1 rm
  | .iret p => wfPlain p 1
  | .wait p => wfPlain p 1
  | .esc p op reg rm => !escHasOwnRow op reg rm && wfRm db p 1 rm
  | .fninit p => wfPlain p 2
  | .fnclex p => wfPlain p 2
  | .fnstswAx p => wfPlain p 2
  | .fnstswMem p m => wfMem db p 1 m
  | .fnstcw p m => wfMem db p 1 m
  | .fnstenv p m => wfMem db p 1 m
  | .fnsave p m => wfMem db p 1 m
  | .prefixLock p t => t.wf p
  | .prefixRepne p t => t.wf p
  | .prefixRep p t => t.wf p
  | .prefixEs p t => t.wf p
  | .prefixCs p t => t.wf p
  | .prefixSs p t => t.wf p
  | .prefixDs p t => t.wf p
  | .prefixFs p t => t.wf p
  | .prefixGs p t => t.wf p
  | .prefixOpSize p t => t.wf p
  | .prefixAddrSize p t => t.wf p
  | .reserved82 p => wfPlain p 1
  | .reservedD6 p => wfPlain p 1
  | .reservedF1 p => wfPlain p 1
  | .reserved0F07 p => wfPlain p 2
  | .reserved0F10 p => wfPlain p 2
  | .reserved0F11 p => wfPlain p 2
  | .reserved0F12 p => wfPlain p 2
  | .reserved0F13 p => wfPlain p 2
  | .reservedF6r1 p rm => wfRm db p 1 rm
  | .reservedF7r1 p rm => wfRm db p 1 rm
  | .reservedC0r6 p rm => wfRm db p 1 rm
  | .reservedC1r6 p rm => wfRm db p 1 rm
  | .reservedD0r6 p rm => wfRm db p 1 rm
  | .reservedD1r6 p rm => wfRm db p 1 rm
  | .reservedD2r6 p rm => wfRm db p 1 rm
  | .reservedD3r6 p rm => wfRm db p 1 rm

end Sys2Proof
end

