-- ==== Sys2Proof/Certificates/Slice0/Obligations.lean ====
section
/-! DEFINITION. The statements for the provers. Each one says what its title in OBLIGATIONS.json says. -/

open Sys2Proof Sys2Proof.Machine

/-! ## System registers and privileged instructions -/

/-- CLTS, HLT, INVD and WBINVD at privilege level 0: CR0.TS cleared, the processor halted, nothing changed; at another level
`#GP(0)`; INVD and WBINVD on an i386 `#UD` (40_system_registers.md R386, R405, R397, R398). That INVD and WBINVD change nothing is
the choice of 20_memory.md R161 and D37 and the model's, log entry 37; that CLTS executes in real-address mode is D52's. -/
def Obligations.PrivilegedPlainResults : Prop :=
  ∀ (p : Prefixes) (s : State), Prefixes.plain p = true →
    (s.cpl = 0 →
      (∃ t, exec (.clts p) s = .next t ∧ t = State.retire { s.begin with cr0 := s.cr0 &&& 0xFFFFFFF7 } p 2 ∧
        sameBytes s t []) ∧
      (∃ t, exec (.hlt p) s = .next t ∧ t = State.retire { s.begin with run := .halted } p 1 ∧ sameBytes s t []) ∧
      (s.params.family ≠ .i386 →
        (∃ t, exec (.invd p) s = .next t ∧ t = s.begin.retire p 2 ∧ sameBytes s t []) ∧
        (∃ t, exec (.wbinvd p) s = .next t ∧ t = s.begin.retire p 2 ∧ sameBytes s t []))) ∧
    (s.cpl ≠ 0 → ∀ i ∈ [Instr.clts p, .hlt p], exec i s = raised s s.begin .gp (some 0)) ∧
    (∀ i ∈ [Instr.invd p, .wbinvd p],
      (s.params.family = .i386 → exec i s = raised s s.begin .ud none) ∧
      (s.params.family ≠ .i386 → s.cpl ≠ 0 → exec i s = raised s s.begin .gp (some 0)))

/-- SLDT, STR, SMSW and MOV from a segment register (40_system_registers.md R377, R379, R385; 42_control_transfer.md R464). Into a
general register: the upper half is free where the operand size is 32 bits (U21, log entry 10). Into memory: two bytes at the
operand's address, whatever the operand size. -/
def Obligations.StoreWord : Prop :=
  (∀ (p : Prefixes) (r : Reg) (s : State), Prefixes.plain p = true →
    (s.protectedMode = true → ∀ x ∈ [(Instr.sldt p (.reg r), s.ldtr.sel), (.str p (.reg r), s.tr.sel)],
      ∃ t, exec x.1 s = .next t ∧ t = State.retire (s.begin.putWord p r x.2) p 3 ∧ sameBytes s t []) ∧
    (∃ t, exec (.smsw p (.reg r)) s = .next t ∧ t = State.retire (s.begin.putWord p r (lo16 s.cr0)) p 3 ∧
      sameBytes s t []) ∧
    (∀ c g, SegReg.ofCode? c = some g → ∃ t, exec (.movFromSeg p (.reg r) c) s = .next t ∧
      t = State.retire (s.begin.putWord p r (s.seg g).sel) p 2 ∧ sameBytes s t [])) ∧
  (∀ (p : Prefixes) (m : MemOp) (s u : State) (x : Slot), Prefixes.plain p = true →
    memProbe (operandSeg p m) (s.ea m) 2 2 true s.begin = .ok x u → x.isRam u = true →
    (s.protectedMode = true → ∀ y ∈ [(Instr.sldt p (.mem m), s.ldtr.sel), (.str p (.mem m), s.tr.sel)],
      ∃ t, exec y.1 s = .next t ∧ t = State.retire (u.stored x y.2.toNat) p (2 + m.size) ∧ sameBytes u t x.addrs) ∧
    (∃ t, exec (.smsw p (.mem m)) s = .next t ∧ t = State.retire (u.stored x (lo16 s.cr0).toNat) p (2 + m.size) ∧
      sameBytes u t x.addrs) ∧
    (∀ c g, SegReg.ofCode? c = some g → ∃ t, exec (.movFromSeg p (.mem m) c) s = .next t ∧
      t = State.retire (u.stored x (s.seg g).sel.toNat) p (1 + m.size) ∧ sameBytes u t x.addrs))

/-- LLDT with a null selector makes LDTR invalid, with that of an LDT descriptor loads LDTR; LTR loads TR from the descriptor of an
available TSS and marks it busy, in TR and in the table (40_system_registers.md R376, R378). A selector of an LDT or beyond the
limit of the GDT, and a descriptor of another type, takes `#GP` with the selector, one that suits and is not present `#NP` with it;
an exception of the operand's read, of the descriptor's or of LTR's write is theirs. `v` is the state after the operand is read, `w`
that after the descriptor is read, `u` that after its sixth byte, at `a`, is checked for writing. -/
def Obligations.LldtLtrResults : Prop :=
  ∀ (p : Prefixes) (rm : Rm) (s v w u : State) (sel : Word16) (d : Desc) (a : List Nat) (e : Err), Prefixes.plain p = true →
    s.protectedMode = true → s.cpl = 0 →
    (readRm16 p rm s.begin = .error e v → ∀ i ∈ [Instr.lldt p rm, .ltr p rm], exec i s = failed s e v) ∧
    (readRm16 p rm s.begin = .ok sel v →
    (isNull sel = true → ∃ t, exec (.lldt p rm) s = .next t ∧
      t = State.retire { v with ldtr := { v.ldtr with sel := sel, valid := false } } p (2 + rm.size) ∧
      sameBytes v t []) ∧
    (isNull sel = true → exec (.ltr p rm) s = raised s v .gp (some 0)) ∧
    (isNull sel = false → gdtDescriptor sel v = .ok d w → descS d = false → descP d = true →
      (descType d = 2 → ∃ t, exec (.lldt p rm) s = .next t ∧
        t = State.retire { w with ldtr := ⟨sel, descBase d, descLimit d, descAttr d, true⟩ } p (2 + rm.size) ∧
        sameBytes w t []) ∧
      ((descType d = 1 ∨ descType d = 9) → linAddrs (w.descAddr sel 5) 1 Acc.supWrite w = .ok a u →
        Slot.isRam u ⟨0, a⟩ = true →
        ∃ t, exec (.ltr p rm) s = .next t ∧ sameBytes u t a ∧
          t.tr = ⟨sel, descBase d, descLimit d, { descAttr d with type := descType d ||| 2, db := false }, true⟩ ∧
          t = State.retire { u with tr := t.tr, mem := t.mem } p (2 + rm.size) ∧
          ∀ x, a = [x] → t.byteAt x = u.byteAt x ||| 2)) ∧
    (isNull sel = false →
      let raises := fun (i : Instr) (x : Exc) (from_ : State) =>
        exec i s = raised s from_ x (some (selectorErrorCode sel false))
      (selTi sel = true ∨ v.gdtr.limit.toNat < selIndex sel * 8 + 7 → ∀ i ∈ [Instr.lldt p rm, .ltr p rm], raises i .gp v) ∧
      (gdtDescriptor sel v = .error e w → ∀ i ∈ [Instr.lldt p rm, .ltr p rm], exec i s = failed s e w) ∧
      (gdtDescriptor sel v = .ok d w →
        (descS d = true ∨ descType d ≠ 2 → raises (.lldt p rm) .gp w) ∧
        (descS d = true ∨ descType d ≠ 1 ∧ descType d ≠ 9 → raises (.ltr p rm) .gp w) ∧
        (descS d = false → descP d = false →
          (descType d = 2 → raises (.lldt p rm) .np w) ∧ (descType d = 1 ∨ descType d = 9 → raises (.ltr p rm) .np w)) ∧
        (descS d = false → descP d = true → descType d = 1 ∨ descType d = 9 →
          linAddrs (w.descAddr sel 5) 1 Acc.supWrite w = .error e u → exec (.ltr p rm) s = failed s e u))))

/-- VERR and VERW write ZF alone: 1 when the selector names a segment that can be read, or written, from this level
(41_pointer_validation.md R433, R434). `o` is the descriptor, none for a null selector or one outside its table. Outside protected
mode they take `#UD`; an exception of the operand or of the descriptor's read is theirs (R430). -/
def Obligations.VerifySetsZf : Prop :=
  ∀ (p : Prefixes) (rm : Rm) (s v u : State) (sel : Word16) (o : Option Desc) (e : Err), Prefixes.plain p = true →
    (s.protectedMode = true → readRm16 p rm s.begin = .ok sel v → fetchForCheck sel v = .ok o u →
      (∃ t, exec (.verr p rm) s = .next t ∧ t = State.retire (u.setFlag 6 t.zf) p (2 + rm.size) ∧ sameBytes u t [] ∧
        (t.zf = true ↔ ∃ d, o = some d ∧ readable (descAttr d) = true ∧
          (conforming (descAttr d) = true ∨ max s.cpl.toNat (rpl sel).toNat ≤ (descDpl d).toNat))) ∧
      (∃ t, exec (.verw p rm) s = .next t ∧ t = State.retire (u.setFlag 6 t.zf) p (2 + rm.size) ∧ sameBytes u t [] ∧
        (t.zf = true ↔ ∃ d, o = some d ∧ writable (descAttr d) = true ∧
          max s.cpl.toNat (rpl sel).toNat ≤ (descDpl d).toNat))) ∧
    (∀ i ∈ [Instr.verr p rm, .verw p rm],
      (s.protectedMode = false → exec i s = raised s s.begin .ud none) ∧
      (s.protectedMode = true → readRm16 p rm s.begin = .error e v → exec i s = failed s e v) ∧
      (s.protectedMode = true → readRm16 p rm s.begin = .ok sel v → fetchForCheck sel v = .error e u →
        exec i s = failed s e u))

/-- LAR loads the masked second doubleword of a visible descriptor, LSL its effective limit, and ZF says whether
(41_pointer_validation.md R431, R432). Bits 19:16 of LAR's value are free (U22). -/
def Obligations.LarLslResults : Prop :=
  ∀ (p : Prefixes) (r : Reg) (rm : Rm) (s v u : State) (sel : Word16) (o : Option Desc), Prefixes.plain p = true →
    s.protectedMode = true → readRm16 p rm s.begin = .ok sel v → fetchForCheck sel v = .ok o u →
    (∀ d, o = some d →
      (conforming (descAttr d) = true ∨ max s.cpl.toNat (rpl sel).toNat ≤ (descDpl d).toNat) →
      ((descS d = true ∨ (descType d).toNat ∈ [1, 2, 3, 4, 5, 9, 11, 12]) →
        ∃ t, exec (.lar p r rm) s = .next t ∧ sameBytes u t [] ∧
          t = State.retire (State.setFlag (State.setRegV { u with free := u.free + 1 } p r
            ((d.hi &&& 0x00F0FF00) ||| (Config.freeWord u.free &&& 0x000F0000))) 6 true) p (2 + rm.size)) ∧
      ((descS d = true ∨ (descType d).toNat ∈ [1, 2, 3, 9, 11]) →
        ∃ t, exec (.lsl p r rm) s = .next t ∧ sameBytes u t [] ∧
          t = State.retire (State.setFlag (u.setRegV p r (descLimit d)) 6 true) p (2 + rm.size))) ∧
    ((∀ d, o = some d → (conforming (descAttr d) = false ∧ (descDpl d).toNat < max s.cpl.toNat (rpl sel).toNat) ∨
        (descS d = false ∧ (descType d).toNat ∉ [1, 2, 3, 4, 5, 9, 11, 12])) →
      ∃ t, exec (.lar p r rm) s = .next t ∧ t = State.retire (u.setFlag 6 false) p (2 + rm.size) ∧ sameBytes u t []) ∧
    ((∀ d, o = some d → (conforming (descAttr d) = false ∧ (descDpl d).toNat < max s.cpl.toNat (rpl sel).toNat) ∨
        (descS d = false ∧ (descType d).toNat ∉ [1, 2, 3, 9, 11])) →
      ∃ t, exec (.lsl p r rm) s = .next t ∧ t = State.retire (u.setFlag 6 false) p (2 + rm.size) ∧ sameBytes u t [])

/-- SGDT and SIDT store the limit in two bytes and the base in the next four, both checked before either is stored; with a 16-bit
operand size the last byte is free (40_system_registers.md R373, R375, U19). LGDT and LIDT at privilege level 0 load a limit and a
base, of which a 16-bit operand size keeps 24 bits (R372, R374). The six bytes are one operand, which does not wrap around: where
they do not all pass the segment's checks, `#SS(0)` or `#GP(0)` (21_segmentation.md R234, R237). A register operand takes `#UD`
(30_encoding.md R355). -/
def Obligations.DescriptorTableRegisters : Prop :=
  ∀ (p : Prefixes) (m : MemOp) (r : Reg) (s u w : State) (x y : Slot) (lim base : Nat), Prefixes.plain p = true →
    (∀ i ∈ [Instr.sgdt p, .sidt p, .lgdt p, .lidt p], exec (i (.reg r)) s = raised s s.begin .ud none) ∧
    (segOk s.protectedMode (s.seg (operandSeg p m)) (s.ea m) 6 true = false → ∀ i ∈ [Instr.sgdt p, .sidt p],
      exec (i (.mem m)) s = raised s s.begin (if operandSeg p m = .ss then .ss else .gp) (some 0)) ∧
    (s.cpl = 0 → segOk s.protectedMode (s.seg (operandSeg p m)) (s.ea m) 6 false = false → ∀ i ∈ [Instr.lgdt p, .lidt p],
      exec (i (.mem m)) s = raised s s.begin (if operandSeg p m = .ss then .ss else .gp) (some 0)) ∧
    (segOk s.protectedMode (s.seg (operandSeg p m)) (s.ea m) 6 true = true →
      probeMem p m 0 2 2 s.begin = .ok x u → probeMem p m 2 4 4 u = .ok y w → x.isRam w = true → y.isRam w = true →
      ∀ i ∈ [(Instr.sgdt p (.mem m), s.gdtr), (.sidt p (.mem m), s.idtr)],
        ∃ t, exec i.1 s = .next t ∧ sameBytes w t (x.addrs ++ y.addrs) ∧
          t = State.retire (if s.op32 p then State.stored (w.stored x i.2.limit.toNat) y i.2.base.toNat
            else State.stored (State.stored { w with free := w.free + 1 } x i.2.limit.toNat) y
              ((Config.freeWord w.free).extractLsb' 24 8 ++ i.2.base.extractLsb' 0 24).toNat) p (2 + m.size)) ∧
    (s.cpl = 0 → segOk s.protectedMode (s.seg (operandSeg p m)) (s.ea m) 6 false = true →
      readMem p m 0 2 2 s.begin = .ok lim u → readMem p m 2 4 4 u = .ok base w →
      ∀ b : Word32, b = (if s.op32 p then BitVec.ofNat 32 base else BitVec.ofNat 32 base &&& 0x00FFFFFF) →
        (∃ t, exec (.lgdt p (.mem m)) s = .next t ∧ sameBytes w t [] ∧
          t = State.retire { w with gdtr := ⟨b, BitVec.ofNat 16 lim⟩ } p (2 + m.size)) ∧
        (∃ t, exec (.lidt p (.mem m)) s = .next t ∧ sameBytes w t [] ∧
          t = State.retire { w with idtr := ⟨b, BitVec.ofNat 16 lim⟩ } p (2 + m.size)))

/-- LMSW at privilege level 0 writes MP, EM and TS and can set PE but not clear it; no other bit of CR0 changes; at another level it
takes `#GP(0)`, and an exception of its operand is its own (40_system_registers.md R384). That PE may be set only while CS.sel[1:0]
is 0, and is refused otherwise, is the spec's own decision D80 (21_segmentation.md R214, U34) and the model's choice, log entry 26
(DESIGN CHOICE). -/
def Obligations.LmswWritesLowBits : Prop :=
  ∀ (p : Prefixes) (rm : Rm) (s v : State) (w : Word16) (e : Err), Prefixes.plain p = true →
    (s.cpl ≠ 0 → exec (.lmsw p rm) s = raised s s.begin .gp (some 0)) ∧
    (s.cpl = 0 → readRm16 p rm s.begin = .error e v → exec (.lmsw p rm) s = failed s e v) ∧
    (s.cpl = 0 → readRm16 p rm s.begin = .ok w v →
      ((w.getLsbD 0 = true → s.pe = true ∨ rpl s.cs.sel = 0) →
        ∃ t, exec (.lmsw p rm) s = .next t ∧ sameBytes v t [] ∧
          t = State.retire { v with cr0 := (s.cr0 &&& 0xFFFFFFF1) ||| (w.setWidth 32 &&& 0x0000000F) } p (2 + rm.size) ∧
          (s.pe = true → t.pe = true)) ∧
      (w.getLsbD 0 = true → s.pe = false → rpl s.cs.sel ≠ 0 → exec (.lmsw p rm) s = .refused .protectionFromOddCs))

/-- INVLPG at privilege level 0 removes the translations of one linear address (40_system_registers.md R399, 22_paging.md R306).
The model's own: that it removes no other (log entry 12; R306 and R399 let a processor remove others), and that it removes them also
while paging is off (log entry 47; corner case (d) of R399 says that it has no effect there). -/
def Obligations.InvlpgDropsOnePage : Prop :=
  ∀ (p : Prefixes) (m : MemOp) (s : State), Prefixes.plain p = true → s.cpl = 0 → s.params.family ≠ .i386 →
    ∃ t, exec (.invlpg p (.mem m)) s = .next t ∧ sameBytes s t [] ∧
      t = State.retire { s.begin with tlb := t.tlb } p (2 + m.size) ∧
      ∀ e, e ∈ t.tlb ↔ e ∈ s.tlb ∧ covers e ((s.seg (operandSeg p m)).base + s.ea m) = false

/-- MOV from a control register at privilege level 0; the arithmetic flags are free (40_system_registers.md R380, U20). CR1 and
CR5 to CR7 do not exist. -/
def Obligations.MovFromControlRegister : Prop :=
  ∀ (p : Prefixes) (r : Reg) (s : State), Prefixes.plain p = true →
    (s.cpl = 0 → ∀ x ∈ [(0#3, s.cr0), (2#3, s.cr2), (3#3, s.cr3)] ++ (if s.params.hasCR4 then [(4#3, s.cr4)] else []),
      ∃ t, exec (.movFromCr p r x.1) s = .next t ∧ t = State.retire (State.freeFlags (s.begin.setReg r x.2)) p 3 ∧
        sameBytes s t []) ∧
    (∀ n ∈ [1#3, 5#3, 6#3, 7#3] ++ (if s.params.hasCR4 then [] else [4#3]),
      exec (.movFromCr p r n) s = raised s s.begin .ud none)

/-- MOV to a control register at privilege level 0 (40_system_registers.md R380 to R383). CR1, CR5 to CR7, and CR4 where there is
none, take `#UD`. PG without PE takes `#GP(0)`; PE set while CS.sel[1:0] is not 0 is refused (21_segmentation.md R214, D80); else
CR0 takes the family's writable bits. CR2 takes the value; CR3 keeps the base, PCD and PWT and drops the translations that are not
global, and a value whose reserved bits are not 0 is refused where the implementation does not keep them (00_scope.md R8, U1; which
it does is a parameter of the model's own, log entry 22); CR4 takes only bits of present features, else `#GP(0)`. Where the new
value leaves PG and PAE set, the page-directory-pointer entries are checked first, and what the check raises is the instruction's
(22_paging.md R313, D48). The model's own: that the bits of an i386's CR0 it can write are 0 to 4, to the letter of R381's mask (log
entry 14, DEDUCED); that CR0 and CR4 are checked also where PG and PAE were set already, which the code of R381 and R383 does not do
(log entry 44); and the arithmetic flags, which are free values (log entry 10, U20). -/
def Obligations.MovToControlRegister : Prop :=
  ∀ (p : Prefixes) (r : Reg) (s u : State), Prefixes.plain p = true → s.cpl = 0 →
    (∀ n ∈ [1#3, 5#3, 6#3, 7#3] ++ (if s.params.hasCR4 then [] else [4#3]),
      exec (.movToCr p n r) s = raised s s.begin .ud none) ∧
    (bit (s.reg r) 31 = true → bit (s.reg r) 0 = false →
      exec (.movToCr p 0 r) s = raised s s.begin .gp (some 0)) ∧
    (bit (s.reg r) 0 = true → s.pe = false → rpl s.cs.sel ≠ 0 →
      exec (.movToCr p 0 r) s = .refused .protectionFromOddCs) ∧
    ((bit (s.reg r) 31 = true → bit (s.reg r) 0 = true) →
      (bit (s.reg r) 0 = true → s.pe = true ∨ rpl s.cs.sel = 0) →
      ∀ new, new = cr0Value s.params.family (s.reg r) →
      (checkPdpt (s.params.hasPAE && bit new 31 && s.cr4Pae) s.cr3 s.begin = .ok () u →
        ∃ t, exec (.movToCr p 0 r) s = .next t ∧ sameBytes u t [] ∧
          t = State.retire (State.freeFlags { u with cr0 := new }) p 3) ∧
      (∀ e, checkPdpt (s.params.hasPAE && bit new 31 && s.cr4Pae) s.cr3 s.begin = .error e u →
        exec (.movToCr p 0 r) s = failed s e u)) ∧
    (∃ t, exec (.movToCr p 2 r) s = .next t ∧ sameBytes s t [] ∧
      t = State.retire (State.freeFlags { s.begin with cr2 := s.reg r }) p 3) ∧
    (∀ b, b = (if s.cr4Pae then s.reg r &&& 0xFFFFFFF8 else s.reg r &&& 0xFFFFF018) →
      (checkPdpt (s.params.hasPAE && s.cr4Pae && s.pg) b s.begin = .ok () u →
        (admitsCr3 s (s.reg r) → ∃ t, exec (.movToCr p 3 r) s = .next t ∧ sameBytes u t [] ∧
          t = State.retire (State.freeFlags { u with cr3 := b, tlb := t.tlb }) p 3 ∧
          ∀ e, e ∈ t.tlb ↔ e ∈ u.tlb ∧ e.global = true ∧ s.cr4Pge = true) ∧
        (¬admitsCr3 s (s.reg r) → exec (.movToCr p 3 r) s = .refused .reservedBits)) ∧
      (∀ e, checkPdpt (s.params.hasPAE && s.cr4Pae && s.pg) b s.begin = .error e u →
        exec (.movToCr p 3 r) s = failed s e u)) ∧
    (s.params.hasCR4 = true →
      (s.reg r &&& ~~~(cr4Present s.params) ≠ 0 → exec (.movToCr p 4 r) s = raised s s.begin .gp (some 0)) ∧
      (s.reg r &&& ~~~(cr4Present s.params) = 0 →
        (checkPdpt (s.params.hasPAE && bit (s.reg r) 5 && s.pg) s.cr3 s.begin = .ok () u →
          ∃ t, exec (.movToCr p 4 r) s = .next t ∧ sameBytes u t [] ∧
            t = State.retire (State.freeFlags { u with cr4 := s.reg r }) p 3) ∧
        (∀ e, checkPdpt (s.params.hasPAE && bit (s.reg r) 5 && s.pg) s.cr3 s.begin = .error e u →
          exec (.movToCr p 4 r) s = failed s e u)))

/-- MOV from and to the debug registers at privilege level 0: DR4 and DR5 name DR6 and DR7, unless CR4.DE is set, when they take
`#UD` at every level; the reserved bits of DR6 and DR7 stay 0; at another level `#GP(0)` (40_system_registers.md R390). MOV from
and to the test registers: an i486 has TR3 to TR7, an i386 TR6 and TR7, and the others, all of them on a Pentium or a P6 or where
there are none, take `#UD`; at another level those that exist take `#GP(0)` (R394, 10_state.md R102). The model's own: the test
registers are plain storage (log entry 39, U3, D6), and the arithmetic flags are free values (log entry 10, U20). -/
def Obligations.MovDebugAndTestRegisters : Prop :=
  ∀ (p : Prefixes) (r : Reg) (s : State), Prefixes.plain p = true →
    (s.cpl = 0 →
      (∀ x ∈ [(0#3, s.dr0), (1#3, s.dr1), (2#3, s.dr2), (3#3, s.dr3), (6#3, s.dr6), (7#3, s.dr7)] ++
          (if s.params.hasDE && s.cr4De then [] else [(4#3, s.dr6), (5#3, s.dr7)]),
        ∃ t, exec (.movFromDr p r x.1) s = .next t ∧ sameBytes s t [] ∧
          t = State.retire (State.freeFlags (s.begin.setReg r x.2)) p 3) ∧
      (∀ x ∈ [(0#3, { s.begin with dr0 := s.reg r }), (1#3, { s.begin with dr1 := s.reg r }),
            (2#3, { s.begin with dr2 := s.reg r }), (3#3, { s.begin with dr3 := s.reg r }),
            (6#3, { s.begin with dr6 := s.reg r &&& 0x0000E00F }), (7#3, { s.begin with dr7 := s.reg r &&& 0xFFFF03FF })] ++
          (if s.params.hasDE && s.cr4De then [] else
            [(4#3, { s.begin with dr6 := s.reg r &&& 0x0000E00F }), (5#3, { s.begin with dr7 := s.reg r &&& 0xFFFF03FF })]),
        ∃ t, exec (.movToDr p x.1 r) s = .next t ∧ sameBytes s t [] ∧ t = State.retire (State.freeFlags x.2) p 3)) ∧
    (s.params.hasDE = true → s.cr4De = true → ∀ n ∈ [4#3, 5#3],
      exec (.movFromDr p r n) s = raised s s.begin .ud none ∧ exec (.movToDr p n r) s = raised s s.begin .ud none) ∧
    (s.cpl ≠ 0 → ∀ n ∈ [0#3, 1#3, 2#3, 3#3, 6#3, 7#3] ++ (if s.params.hasDE && s.cr4De then [] else [4#3, 5#3]),
      exec (.movFromDr p r n) s = raised s s.begin .gp (some 0) ∧
      exec (.movToDr p n r) s = raised s s.begin .gp (some 0)) ∧
    ((s.params.family = .pentium ∨ s.params.family = .p6) → ∀ n,
      exec (.movFromTr p r n) s = raised s s.begin .ud none ∧ exec (.movToTr p n r) s = raised s s.begin .ud none) ∧
    (s.params.hasTestRegs = false → ∀ n,
      exec (.movFromTr p r n) s = raised s s.begin .ud none ∧ exec (.movToTr p n r) s = raised s s.begin .ud none) ∧
    (s.params.hasTestRegs = true → (s.params.family = .i386 ∨ s.params.family = .i486) →
      (∀ x ∈ [(6#3, s.testRegs.tr6, { s.testRegs with tr6 := s.reg r }),
            (7#3, s.testRegs.tr7, { s.testRegs with tr7 := s.reg r })] ++
          (if s.params.family = .i386 then [] else [(3#3, s.testRegs.tr3, { s.testRegs with tr3 := s.reg r }),
            (4#3, s.testRegs.tr4, { s.testRegs with tr4 := s.reg r }),
            (5#3, s.testRegs.tr5, { s.testRegs with tr5 := s.reg r })]),
        (s.cpl = 0 →
          (∃ t, exec (.movFromTr p r x.1) s = .next t ∧ sameBytes s t [] ∧
            t = State.retire (State.freeFlags (s.begin.setReg r x.2.1)) p 3) ∧
          (∃ t, exec (.movToTr p x.1 r) s = .next t ∧ sameBytes s t [] ∧
            t = State.retire (State.freeFlags { s.begin with testRegs := x.2.2 }) p 3)) ∧
        (s.cpl ≠ 0 → exec (.movFromTr p r x.1) s = raised s s.begin .gp (some 0) ∧
          exec (.movToTr p x.1 r) s = raised s s.begin .gp (some 0))) ∧
      (∀ n ∈ [0#3, 1#3, 2#3] ++ (if s.params.family = .i386 then [3#3, 4#3, 5#3] else []),
        exec (.movFromTr p r n) s = raised s s.begin .ud none ∧ exec (.movToTr p n r) s = raised s s.begin .ud none))

/-- RDMSR, WRMSR, RDTSC and RDPMC: EDX:EAX holds the register's value; WRMSR writes EDX:EAX; a number that names no register, or
no counter, takes `#GP(0)`; each takes `#UD` where its feature is absent, and `#GP(0)` at a level that may not run it: above 0, but
that CR4.TSD clear admits RDTSC and CR4.PCE set RDPMC (40_system_registers.md R412 to R415). The model's own: WRMSR under the
time-stamp counter's number writes that counter and no other register, and under any other number leaves it alone (log entry 5), the
other model-specific registers are plain storage (log entry 39), and none of them is a performance counter, so that WRMSR changes
neither (log entry 48). -/
def Obligations.CountersAndModelRegisters : Prop :=
  ∀ (p : Prefixes) (s : State) (v : BitVec 64), Prefixes.plain p = true →
    (s.params.hasMSR = true → s.cpl = 0 → s.begin.msr (s.reg .ecx) = some v →
      (∃ t, exec (.rdmsr p) s = .next t ∧ t = State.retire (s.begin.setEdxEax v) p 2 ∧ sameBytes s t []) ∧
      (∃ t, exec (.wrmsr p) s = .next t ∧ t = State.retire { s.begin with msrs := t.msrs, tsc := t.tsc } p 2 ∧
        sameBytes s t [] ∧ t.msr (s.reg .ecx) = some (s.reg .edx ++ s.reg .eax) ∧
        (∀ n, n ≠ s.reg .ecx → t.msr n = s.begin.msr n) ∧
        ∀ counter : Prop, (counter ↔ s.params.hasTSC = true ∧ s.params.tscMsr = some (s.reg .ecx)) →
          (counter → t.msrs = s.msrs ∧ t.tsc = s.reg .edx ++ s.reg .eax) ∧ (¬counter → t.tsc = s.begin.tsc))) ∧
    (s.params.hasMSR = true → s.cpl = 0 → s.begin.msr (s.reg .ecx) = none →
      exec (.rdmsr p) s = raised s s.begin .gp (some 0) ∧ exec (.wrmsr p) s = raised s s.begin .gp (some 0)) ∧
    (s.params.hasTSC = true → (s.cr4Tsd = false ∨ s.cpl = 0) →
      ∃ t, exec (.rdtsc p) s = .next t ∧ t = State.retire (s.begin.setEdxEax s.begin.tsc) p 2 ∧ sameBytes s t []) ∧
    (s.params.hasTSC = false → exec (.rdtsc p) s = raised s s.begin .ud none) ∧
    (s.params.hasTSC = true → s.cr4Tsd = true → s.cpl ≠ 0 → exec (.rdtsc p) s = raised s s.begin .gp (some 0)) ∧
    (s.params.hasPMC = true → (s.cr4Pce = true ∨ s.cpl = 0) →
      (∀ x ∈ [(0#32, s.pmc0), (1#32, s.pmc1)], s.reg .ecx = x.1 →
        ∃ t, exec (.rdpmc p) s = .next t ∧ t = State.retire (s.begin.setEdxEax (x.2.setWidth 64)) p 2 ∧
          sameBytes s t []) ∧
      (1 < (s.reg .ecx).toNat → exec (.rdpmc p) s = raised s s.begin .gp (some 0))) ∧
    (s.params.hasPMC = true → s.cr4Pce = false → s.cpl ≠ 0 → exec (.rdpmc p) s = raised s s.begin .gp (some 0)) ∧
    (s.params.hasPMC = false → exec (.rdpmc p) s = raised s s.begin .ud none) ∧
    (∀ i ∈ [Instr.rdmsr p, .wrmsr p],
      (s.params.hasMSR = false → exec i s = raised s s.begin .ud none) ∧
      (s.params.hasMSR = true → s.cpl ≠ 0 → exec i s = raised s s.begin .gp (some 0)))

/-- ARPL raises the RPL of its destination to that of the source and sets ZF, or clears ZF and leaves it
(41_pointer_validation.md R435). -/
def Obligations.ArplAdjustsRpl : Prop :=
  ∀ (p : Prefixes) (d r : Reg) (m : MemOp) (s u v : State) (x : Slot) (old : Nat), Prefixes.plain p = true →
    s.protectedMode = true →
    (∃ t, exec (.arpl p (.reg d) r) s = .next t ∧ sameBytes s t [] ∧
      t = State.retire (if (rpl (lo16 (s.reg d))).toNat < (rpl (lo16 (s.reg r))).toNat
        then State.setFlag (s.begin.setReg16 d (withRpl (lo16 (s.reg d)) (rpl (lo16 (s.reg r))))) 6 true
        else s.begin.setFlag 6 false) p 2) ∧
    (probeMem p m 0 2 2 s.begin = .ok x u → slotRead x u = .ok old v → x.isRam v = true →
      ∃ t, exec (.arpl p (.mem m) r) s = .next t ∧ sameBytes v t x.addrs ∧
        t = State.retire (if (rpl (BitVec.ofNat 16 old)).toNat < (rpl (lo16 (s.reg r))).toNat
          then State.setFlag (v.stored x (withRpl (BitVec.ofNat 16 old) (rpl (lo16 (s.reg r)))).toNat) 6 true
          else v.setFlag 6 false) p (1 + m.size))

/-! ## Segment registers and control transfers -/

/-- A direct load of a segment register (42_control_transfer.md R455, R457, R458, R462). In real-address and virtual-8086 mode the
base is the selector times 16 (the accessed, AVL and conforming bits of a virtual-8086 load are the model's, log entry 42). In
protected mode a null selector makes a data-segment register null and takes `#GP(0)` for SS. Another selector takes `#GP` with
itself where its table has no such entry; where the descriptor is not that of a readable segment, or is not conforming code and its
DPL is below CPL or RPL; and for SS where it is not that of a writable data segment with DPL and RPL equal to CPL. A descriptor that
passes and is not present takes `#NP`, for SS `#SS`, with the selector; one that is present is loaded and marked accessed. What the
fields of a selector and the types of a descriptor mean, the effective limit, and the mark: the descriptor of a code or data
segment, on an i386 always and on a later family where its accessed bit is clear, has bit 0 of its sixth byte, at index times 8 plus
5 in its table, set, and no other byte of memory changes (21_segmentation.md R190, R191, R196, R198, R199, R205). What is read from
the table is `Obligations.DescriptorTableReads`. That a load in real-address mode keeps limit and attributes and one in virtual-8086
mode sets DPL 3 follows R462, where 10_state.md R57 says otherwise: the model's reading, log entry 49 (DEDUCED). -/
def Obligations.LoadSegmentRegister : Prop :=
  ∀ (r : SegReg) (sel : Word16) (s u v w : State) (d : Desc) (e : Err) (a : List Nat),
    (s.protectedMode = false → loadSeg r sel s = .ok () (s.setSeg r
      { s.seg r with
        sel := sel
        base := sel.setWidth 32 <<< 4
        valid := true
        limit := if s.v86 then 0xFFFF else (s.seg r).limit
        attr := if s.v86 then attrV86 (decide (r = .cs)) else (s.seg r).attr })) ∧
    (s.protectedMode = true → isNull sel = true →
      (r ≠ .ss → loadSeg r sel s = .ok () (s.setSeg r { s.seg r with sel := sel, valid := false })) ∧
      loadSeg .ss sel s = .error (.exn ⟨.gp, some 0, false⟩) s) ∧
    (s.protectedMode = true → isNull sel = false →
      let raises := fun (x : Exc) => loadSeg r sel s = .error (.exn ⟨x, some (selectorErrorCode sel false), false⟩) u
      let type := (descType d).toNat
      let suits := descS d = true ∧
        (if r = .ss then type ∈ [2, 3, 6, 7] ∧ rpl sel = s.cpl ∧ descDpl d = s.cpl
          else type ∈ [14, 15] ∨ type ∈ [0, 1, 2, 3, 4, 5, 6, 7, 10, 11] ∧ s.cpl.toNat ≤ (descDpl d).toNat ∧
            (rpl sel).toNat ≤ (descDpl d).toNat)
      (readDescriptor sel s = .error e u → loadSeg r sel s = .error e u) ∧
      (readDescriptor sel s = .ok none u → raises .gp) ∧
      (readDescriptor sel s = .ok (some d) u →
        (¬suits → raises .gp) ∧
        (suits → descP d = false → raises (if r = .ss then .ss else .np)) ∧
        (suits → descP d = true → probeAccessed sel d u = .ok a v → commitAccessed a v = .ok () w →
          loadSeg r sel s = .ok () (w.setSeg r ⟨sel, descBase d, descLimit d, withAccessed (descAttr d), true⟩)))) ∧
    ((isNull sel = true ↔ sel.toNat / 4 = 0) ∧ (rpl sel).toNat = sel.toNat % 4 ∧ selIndex sel = sel.toNat / 8 ∧
      (selTi sel = true ↔ sel.toNat / 4 % 2 = 1)) ∧
    (∀ g : Attr,
      let type := g.type.toNat
      (isCode g = true ↔ g.s = true ∧ 8 ≤ type) ∧ (conforming g = true ↔ g.s = true ∧ 12 ≤ type) ∧
        (writable g = true ↔ g.s = true ∧ type ∈ [2, 3, 6, 7]) ∧
        (readable g = true ↔ g.s = true ∧ type ∈ [0, 1, 2, 3, 4, 5, 6, 7, 10, 11, 14, 15]) ∧
        withAccessed g = { g with type := (withAccessed g).type } ∧
        (withAccessed g).type.toNat = if g.s = true then type / 2 * 2 + 1 else type) ∧
    (descLimit d).toNat =
      (if bit d.hi 23 = true then (descLimit20 d).toNat * 4096 + 4095 else (descLimit20 d).toNat) ∧
    (∀ place, place = (if selTi sel = true then s.ldtr.base else s.gdtr.base) + BitVec.ofNat 32 (selIndex sel * 8 + 5) →
      ∀ marks : Prop, (marks ↔ descS d = true ∧ (s.params.family = .i386 ∨ bit d.hi 8 = false)) →
        (¬marks → probeAccessed sel d s = .ok [] s) ∧
        (marks → probeAccessed sel d s = linAddrs place 1 Acc.supWrite s) ∧
        (s.pg = false → linAddrs place 1 Acc.supWrite s = .ok [place.toNat] s)) ∧
    commitAccessed [] s = .ok () s ∧
    (∀ x, physKind s.params x = .ram → Memory.wf s.mem = true →
      ∃ t, commitAccessed [x] s = .ok () t ∧ t = { s with mem := t.mem } ∧ t.byteAt x = s.byteAt x ||| 1 ∧ sameBytes s t [x])

/-- An entry of a descriptor table. One that does not lie wholly within the table's limit, or in an LDT where there is none, is not
read; another is read as eight bytes at the table's base plus eight times the index, modulo 2^32, by a linear access made with
supervisor privilege whatever the level: its low doubleword, then its high one, each little endian, with no check of alignment. A
selector names the table, GDT or LDT, by its bit 2 and the entry by its bits 15:3; the IDT is read so too (21_segmentation.md R206).
The fields of a descriptor are those of R192. -/
def Obligations.DescriptorTableReads : Prop :=
  ∀ (base : Word32) (limit index raw : Nat) (ok soft : Bool) (vector : Byte) (sel : Word16) (d : Desc) (s u : State) (e : Err),
    let place := base + BitVec.ofNat 32 (index * 8)
    let out := tableRead base limit ok index s
    let idt := tableRead s.idtr.base s.idtr.limit.toNat true vector.toNat s
    (ok = false ∨ limit < index * 8 + 7 → out = .ok none s) ∧
    (ok = true → index * 8 + 7 ≤ limit →
      (linRead place 8 ⟨false, false⟩ s = .error e u → out = .error e u) ∧
      (linRead place 8 ⟨false, false⟩ s = .ok raw u →
        ∃ x, out = .ok (some x) u ∧ x.lo.toNat = raw % 2 ^ 32 ∧ x.hi.toNat = raw / 2 ^ 32 % 2 ^ 32) ∧
      (s.pg = false → s.params.physMap = [] →
        ∃ x, out = .ok (some x) s ∧ x.lo.toNat = ofBytes ((linearSpan place 4).map s.byteAt) ∧
          x.hi.toNat = ofBytes ((linearSpan (place + 4) 4).map s.byteAt))) ∧
    (sel.toNat / 4 % 2 = 0 → readDescriptor sel s = tableRead s.gdtr.base s.gdtr.limit.toNat true (sel.toNat / 8) s) ∧
    (sel.toNat / 4 % 2 = 1 →
      readDescriptor sel s = tableRead s.ldtr.base s.ldtr.limit.toNat s.ldtr.valid (sel.toNat / 8) s) ∧
    (idt = .error e u → readIdtGate vector soft s = .error e u) ∧
    (idt = .ok (some d) u → readIdtGate vector soft s = .ok d u ∨ ∃ x, readIdtGate vector soft s = .error x u) ∧
    ((descBase d).toNat = d.lo.toNat / 2 ^ 16 + d.hi.toNat % 2 ^ 8 * 2 ^ 16 + d.hi.toNat / 2 ^ 24 * 2 ^ 24 ∧
      (descLimit20 d).toNat = d.lo.toNat % 2 ^ 16 + d.hi.toNat / 2 ^ 16 % 2 ^ 4 * 2 ^ 16 ∧
      (descType d).toNat = d.hi.toNat / 2 ^ 8 % 2 ^ 4 ∧ descS d = bit d.hi 12 ∧ (descDpl d).toNat = d.hi.toNat / 2 ^ 13 % 2 ^ 2 ∧
      descP d = bit d.hi 15 ∧
      descAttr d = ⟨descType d, descS d, descDpl d, descP d, bit d.hi 20, bit d.hi 22, bit d.hi 23⟩)

/-- MOV to a segment register reads its operand and loads the register; CS and the codes 6 and 7 take `#UD` (42_control_transfer.md
R463). POP of one reads the top of the stack at operand size, loads the register, then moves the stack pointer (R465). After a load
of SS the next boundary is held (45_interrupt_instructions.md R650). PUSH of one stores the selector at operand size below the stack
pointer (R452, R466); that the upper word of a doubleword is 0 is the model's choice, log entry 31 (U23). What a read, a load or the
check of the push raises is the instruction's. -/
def Obligations.MovPopPushSegmentRegister : Prop :=
  (∀ (p : Prefixes) (c : BitVec 3) (rm : Rm) (s v u : State) (sel : Word16) (r : SegReg) (x : Nat) (e : Err),
    Prefixes.plain p = true →
    (SegReg.ofCode? c = some r → r ≠ .cs →
      (readRm16 p rm s.begin = .error e v → exec (.movToSeg p c rm) s = failed s e v) ∧
      (readRm16 p rm s.begin = .ok sel v → loadSeg r sel v = .error e u → exec (.movToSeg p c rm) s = failed s e u) ∧
      (readRm16 p rm s.begin = .ok sel v → loadSeg r sel v = .ok () u →
        ∃ t, exec (.movToSeg p c rm) s = .next t ∧ sameBytes u t [] ∧
          t = State.retire { u with inhibitSs := u.inhibitSs || decide (r = .ss) } p (1 + rm.size))) ∧
    (SegReg.ofCode? c = none ∨ SegReg.ofCode? c = some .cs →
      exec (.movToSeg p c rm) s = raised s s.begin .ud none) ∧
    (∀ i ∈ [(Instr.popEs p, SegReg.es), (.popSs p, .ss), (.popDs p, .ds), (.popFs p, .fs), (.popGs p, .gs)],
      (readStack s.sp (s.opBytes p) s.begin = .error e v → exec i.1 s = failed s e v) ∧
      (readStack s.sp (s.opBytes p) s.begin = .ok x v → loadSeg i.2 (BitVec.ofNat 16 x) v = .error e u →
        exec i.1 s = failed s e u)) ∧
    (readStack s.sp (s.opBytes p) s.begin = .ok x v →
      (∀ i ∈ [(Instr.popEs p, SegReg.es, 1), (.popDs p, .ds, 1), (.popFs p, .fs, 2), (.popGs p, .gs, 2)],
        loadSeg i.2.1 (BitVec.ofNat 16 x) v = .ok () u →
        ∃ t, exec i.1 s = .next t ∧ sameBytes u t [] ∧
          t = State.retire (u.setSp (u.sp + BitVec.ofNat 32 (s.opBytes p))) p i.2.2) ∧
      (loadSeg .ss (BitVec.ofNat 16 x) v = .ok () u →
        ∃ t, exec (.popSs p) s = .next t ∧ sameBytes u t [] ∧
          t = State.retire { u.setSp (u.sp + BitVec.ofNat 32 (s.opBytes p)) with inhibitSs := true } p 1))) ∧
  ∀ (p : Prefixes) (s u : State) (x : Slot) (e : Err), Prefixes.plain p = true →
    ∀ i ∈ [(Instr.pushEs p, s.es, 1), (.pushCs p, s.cs, 1), (.pushSs p, s.ss, 1), (.pushDs p, s.ds, 1),
        (.pushFs p, s.fs, 2), (.pushGs p, s.gs, 2)],
      ∀ checked, checked = memProbe .ss (spAfter s.ss.attr.db (s.reg .esp) (s.opBytes p) 1) (s.opBytes p) (s.opBytes p) true
        s.begin →
      (checked = .error e u → exec i.1 s = failed s e u) ∧
      (checked = .ok x u → x.isRam u = true →
        ∃ t, exec i.1 s = .next t ∧ sameBytes u t x.addrs ∧
          t = State.retire (State.setSp (u.stored x i.2.1.sel.toNat)
            (spAfter s.ss.attr.db (s.reg .esp) (s.opBytes p) 1)) p i.2.2)

/-- LES, LDS, LSS, LFS and LGS read a far pointer, load the segment register from its selector and the general register from its
offset (42_control_transfer.md R467). A register operand takes `#UD`; what the read of the pointer or the load of the segment
register raises is the instruction's. -/
def Obligations.LoadFarPointer : Prop :=
  ∀ (p : Prefixes) (g r : Reg) (m : MemOp) (s v u : State) (off : Word32) (sel : Word16) (e : Err), Prefixes.plain p = true →
    ∀ i ∈ [(Instr.les p g, SegReg.es, 1), (.lds p g, .ds, 1), (.lss p g, .ss, 2), (.lfs p g, .fs, 2), (.lgs p g, .gs, 2)],
      exec (i.1 (.reg r)) s = raised s s.begin .ud none ∧
      (readFar p m (s.opBytes p) s.begin = .error e v → exec (i.1 (.mem m)) s = failed s e v) ∧
      (readFar p m (s.opBytes p) s.begin = .ok (off, sel) v →
        (loadSeg i.2.1 sel v = .error e u → exec (i.1 (.mem m)) s = failed s e u) ∧
        (loadSeg i.2.1 sel v = .ok () u →
          ∃ t, exec (i.1 (.mem m)) s = .next t ∧ sameBytes u t [] ∧
            t = State.retire (if s.op32 p then u.setReg g off else u.setReg16 g (lo16 off)) p (i.2.2 + m.size)))

/-- A jump within the code segment goes to a target within the limit of CS, at operand size, and takes `#GP(0)` beyond it
(42_control_transfer.md R453, R454, R468). A call pushes the address of the next instruction at operand size and goes to its target
(R452, R453, R469); without room on the stack it takes `#SS(0)`, and with room but a target beyond the limit `#GP(0)`, the stack
first (D58). A return pops its target at operand size, then releases the bytes its immediate names (R490). `v` is the state after an
operand, or a return's target, is read; what that read raises is the instruction's. -/
def Obligations.NearTransfers : Prop :=
  (∀ (p : Prefixes) (s : State), Prefixes.plain p = true →
    (∀ d : BitVec 8, ∀ target, target = truncTarget (s.op32 p) (s.nextPc p 2 + d.signExtend 32) →
      (target.toNat ≤ s.cs.limit.toNat →
        ∃ t, exec (.jmpRel8 p d) s = .next t ∧ t = s.begin.goTo target ∧ sameBytes s t []) ∧
      (s.cs.limit.toNat < target.toNat → exec (.jmpRel8 p d) s = raised s s.begin .gp (some 0))) ∧
    (∀ d : Rel, ∀ target, target = truncTarget (s.op32 p) (s.nextPc p (1 + d.size) + Rel.value d) →
      (target.toNat ≤ s.cs.limit.toNat →
        ∃ t, exec (.jmpRel p d) s = .next t ∧ t = s.begin.goTo target ∧ sameBytes s t []) ∧
      (s.cs.limit.toNat < target.toNat → exec (.jmpRel p d) s = raised s s.begin .gp (some 0))) ∧
    (∀ rm v target, readRmV p rm s.begin = .ok target v →
      (target.toNat ≤ s.cs.limit.toNat →
        ∃ t, exec (.jmpRm p rm) s = .next t ∧ t = v.goTo target ∧ sameBytes v t []) ∧
      (s.cs.limit.toNat < target.toNat → exec (.jmpRm p rm) s = raised s v .gp (some 0))) ∧
    (∀ rm v e, readRmV p rm s.begin = .error e v → ∀ i ∈ [Instr.jmpRm p rm, .callRm p rm], exec i s = failed s e v) ∧
    (∀ (v : State) (target : Word32) (i : Instr),
      (∃ d : Rel, i = .callRel p d ∧ v = s.begin ∧ target = truncTarget (s.op32 p) (s.nextPc p (1 + d.size) + Rel.value d)) ∨
        (∃ rm : Rm, i = .callRm p rm ∧ readRmV p rm s.begin = .ok target v) →
      ∀ room : Prop, (room ↔ segOk s.protectedMode s.ss (spAfter s.ss.attr.db (s.reg .esp) (s.opBytes p) 1) (s.opBytes p)
          true = true) →
        (¬room → exec i s = raised s v .ss (some 0)) ∧
        (room → s.cs.limit.toNat < target.toNat → exec i s = raised s v .gp (some 0))) ∧
    (∀ (v u : State) (x : Slot) (target : Word32), target.toNat ≤ s.cs.limit.toNat →
      requireRoom (s.opBytes p) 1 v = .ok () v →
      memProbe .ss (spAfter s.ss.attr.db (s.reg .esp) (s.opBytes p) 1) (s.opBytes p) (s.opBytes p) true v = .ok x u →
      x.isRam u = true →
      (∀ d : Rel, v = s.begin → target = truncTarget (s.op32 p) (s.nextPc p (1 + d.size) + Rel.value d) →
        ∃ t, exec (.callRel p d) s = .next t ∧ sameBytes u t x.addrs ∧
          t = State.goTo (State.setSp (u.stored x (s.nextPc p (1 + d.size)).toNat)
            (spAfter s.ss.attr.db (s.reg .esp) (s.opBytes p) 1)) target) ∧
      (∀ rm : Rm, readRmV p rm s.begin = .ok target v →
        ∃ t, exec (.callRm p rm) s = .next t ∧ sameBytes u t x.addrs ∧
          t = State.goTo (State.setSp (u.stored x (s.nextPc p (1 + rm.size)).toNat)
            (spAfter s.ss.attr.db (s.reg .esp) (s.opBytes p) 1)) target))) ∧
  ∀ (p : Prefixes) (n : BitVec 16) (s v : State) (x : Nat) (e : Err), Prefixes.plain p = true →
    ∀ i ∈ [(Instr.ret p, 0), (.retImm p n, n.toNat)],
      (readStack s.sp (s.opBytes p) s.begin = .error e v → exec i.1 s = failed s e v) ∧
      (readStack s.sp (s.opBytes p) s.begin = .ok x v →
        ((BitVec.ofNat 32 x).toNat ≤ s.cs.limit.toNat →
          ∃ t, exec i.1 s = .next t ∧ sameBytes v t [] ∧
            t = State.goTo (v.setSp (v.sp + BitVec.ofNat 32 (s.opBytes p + i.2))) (BitVec.ofNat 32 x)) ∧
        (s.cs.limit.toNat < (BitVec.ofNat 32 x).toNat → exec i.1 s = raised s v .gp (some 0)))

/-- Every form of far JMP, far CALL and far RET is its operand, then one far transfer or far return; where that completes, so
does the instruction, and where the operand, the transfer or the return stops, it stops so (42_control_transfer.md R470, R484, R485,
R491). -/
def Obligations.FarForms : Prop :=
  ∀ (p : Prefixes) (s v u : State) (dn : Done) (e : Err), Prefixes.plain p = true →
    (∀ f : FarPtr,
      (∀ i ∈ [(Instr.jmpFar p f, false), (.callFar p f, true)],
        farTransfer i.2 p (FarPtr.sel f) (FarPtr.off f) (s.nextPc p (1 + f.size)) s.begin = .error e u →
        exec i.1 s = failed s e u) ∧
      (farTransfer false p (FarPtr.sel f) (FarPtr.off f) (s.nextPc p (1 + f.size)) s.begin = .ok dn u →
        exec (.jmpFar p f) s = .next (u.finish dn)) ∧
      (farTransfer true p (FarPtr.sel f) (FarPtr.off f) (s.nextPc p (1 + f.size)) s.begin = .ok dn u →
        exec (.callFar p f) s = .next (u.finish dn))) ∧
    (∀ m : MemOp, readFar p m (s.opBytes p) s.begin = .error e u → ∀ i ∈ [Instr.jmpFarMem p (.mem m), .callFarMem p (.mem m)],
      exec i s = failed s e u) ∧
    (∀ (m : MemOp) (off : Word32) (sel : Word16), readFar p m (s.opBytes p) s.begin = .ok (off, sel) v →
      (∀ i ∈ [(Instr.jmpFarMem p (.mem m), false), (.callFarMem p (.mem m), true)],
        farTransfer i.2 p sel off (s.nextPc p (1 + m.size)) v = .error e u → exec i.1 s = failed s e u) ∧
      (farTransfer false p sel off (s.nextPc p (1 + m.size)) v = .ok dn u →
        exec (.jmpFarMem p (.mem m)) s = .next (u.finish dn)) ∧
      (farTransfer true p sel off (s.nextPc p (1 + m.size)) v = .ok dn u →
        exec (.callFarMem p (.mem m)) s = .next (u.finish dn))) ∧
    (∀ r, exec (.jmpFarMem p (.reg r)) s = raised s s.begin .ud none ∧
      exec (.callFarMem p (.reg r)) s = raised s s.begin .ud none) ∧
    (returnFar p 0 s.begin = .ok dn u → exec (.retFar p) s = .next (u.finish dn)) ∧
    (∀ n : BitVec 16, returnFar p n.toNat s.begin = .ok dn u → exec (.retFarImm p n) s = .next (u.finish dn)) ∧
    (returnFar p 0 s.begin = .error e u → exec (.retFar p) s = failed s e u) ∧
    (∀ n : BitVec 16, returnFar p n.toNat s.begin = .error e u → exec (.retFarImm p n) s = failed s e u)

/-- A far transfer in real-address or virtual-8086 mode: CS is loaded as in real-address mode and EIP is the offset; a CALL first
pushes CS and the return offset; a return pops both; a target beyond the limit of CS takes `#GP(0)` (42_control_transfer.md R462,
R486, R499). That the upper word of a selector pushed as a doubleword is 0 is the model's choice, log entry 31 (U23); that CS takes
the limit and the attributes of R462 and not those of 10_state.md R57 is its reading, log entry 49 (DEDUCED). That each push has its
own wrapped offset is the model's reading, log entry 34 (DEDUCED). The accessed, AVL and conforming bits of a load in virtual-8086
mode are the model's choice, log entry 42 (DESIGN CHOICE). -/
def Obligations.FarTransferRealMode : Prop :=
  ∀ (p : Prefixes) (sel : Word16) (off next : Word32) (n : Nat) (s u w : State) (xs : List Slot) (x c : Nat),
    s.protectedMode = false →
    (s.cs.limit.toNat < off.toNat → ∀ call,
      farTransfer call p sel off next s = .error (.exn ⟨.gp, some 0, false⟩) s) ∧
    (off.toNat ≤ s.cs.limit.toNat →
      farTransfer false p sel off next s = .ok .normal { s.realLoad .cs sel with eip := off }) ∧
    (off.toNat ≤ s.cs.limit.toNat → probeFrame (s.opBytes p) 2 s = .ok xs u →
      writeSlots xs [s.cs.sel.toNat, next.toNat] u = .ok () w →
      farTransfer true p sel off next s = .ok .normal
        { State.realLoad (w.setSp (spAfter s.ss.attr.db (s.reg .esp) (s.opBytes p) 2)) .cs sel with eip := off }) ∧
    (readStack s.sp (s.opBytes p) s = .ok x u → readStack (s.sp + BitVec.ofNat 32 (s.opBytes p)) 2 u = .ok c w →
      (s.cs.limit.toNat < (BitVec.ofNat 32 x).toNat → returnFar p n s = .error (.exn ⟨.gp, some 0, false⟩) w) ∧
      ((BitVec.ofNat 32 x).toNat ≤ s.cs.limit.toNat →
        returnFar p n s = .ok .normal
          { State.realLoad (w.setSp (w.sp + BitVec.ofNat 32 (2 * s.opBytes p + n))) .cs (BitVec.ofNat 16 c) with
            eip := BitVec.ofNat 32 x }))

/-- A far JMP or CALL in protected mode whose selector is null takes `#GP(0)`; one whose selector lies outside its table, or names a
data segment or a system segment that is no call gate, task gate or TSS, `#GP` with it (42_control_transfer.md R470). One that names
a code segment is a direct one: it enters a segment its privilege rules admit, at the level in force: conforming with DPL at most
CPL, or DPL equal to CPL and RPL at most CPL; another takes `#GP` with its selector, one that is not present `#NP` with it, and an
offset beyond its limit `#GP(0)`. A CALL first needs room for two items on the stack, pushes CS and the return offset on it and
moves the stack pointer once (42_control_transfer.md R452, R456, R471, R472, R484, R485). That the upper word of CS pushed as a
doubleword is 0 is the model's choice, log entry 31 (U23). The test for room, each push at its own wrapped offset, is the model's
reading, log entry 34 (DEDUCED). -/
def Obligations.FarTransferDirect : Prop :=
  ∀ (call : Bool) (p : Prefixes) (sel : Word16) (off next : Word32) (s u v w y z : State) (d : Desc) (a : List Nat)
    (xs : List Slot) (e : Err), s.protectedMode = true →
    (isNull sel = true → farTransfer call p sel off next s = .error (.exn ⟨.gp, some 0, false⟩) s) ∧
    (isNull sel = false →
      (readDescriptor sel s = .error e u → farTransfer call p sel off next s = .error e u) ∧
      ((readDescriptor sel s = .ok none u ∨ readDescriptor sel s = .ok (some d) u ∧
          (descS d = true ∧ isCode (descAttr d) = false ∨ descS d = false ∧ (descType d).toNat ∉ [1, 3, 4, 5, 9, 11, 12])) →
        farTransfer call p sel off next s = .error (.exn ⟨.gp, some (selectorErrorCode sel false), false⟩) u)) ∧
    (isNull sel = false → needDescriptor sel .gp false s = .ok d u → isCode (descAttr d) = true →
    let entered := fun (t : State) =>
      { t with cs := ⟨withRpl sel s.cpl, descBase d, descLimit d, withAccessed (descAttr d), true⟩, eip := off }
    ((conforming (descAttr d) = true ∧ (descDpl d).toNat ≤ s.cpl.toNat ∨
        conforming (descAttr d) = false ∧ descDpl d = s.cpl ∧ (rpl sel).toNat ≤ s.cpl.toNat) →
      (descP d = false →
        farTransfer call p sel off next s = .error (.exn ⟨.np, some (selectorErrorCode sel false), false⟩) u) ∧
      (descP d = true →
        (requireRoom (s.opBytes p) 2 u = .error e v → farTransfer true p sel off next s = .error e v) ∧
        ((descLimit d).toNat < off.toNat → (call = true → requireRoom (s.opBytes p) 2 u = .ok () u) →
          farTransfer call p sel off next s = .error (.exn ⟨.gp, some 0, false⟩) u) ∧
        (off.toNat ≤ (descLimit d).toNat →
          (probeAccessed sel d u = .ok a v → commitAccessed a v = .ok () w →
            ∃ t, farTransfer false p sel off next s = .ok .normal t ∧ t.cpl = s.cpl ∧ sameBytes v t a ∧ t = entered w) ∧
          (requireRoom (s.opBytes p) 2 u = .ok () u → probeFrame (s.opBytes p) 2 u = .ok xs v →
            probeAccessed sel d v = .ok a w → writeSlots xs [s.cs.sel.toNat, next.toNat] w = .ok () y →
            commitAccessed a (y.setSp (spAfter s.ss.attr.db (s.reg .esp) (s.opBytes p) 2)) = .ok () z →
            ∃ t, farTransfer true p sel off next s = .ok .normal t ∧ t.cpl = s.cpl ∧
              sameBytes w t (xs.flatMap Slot.addrs ++ a) ∧ t = entered z)))) ∧
    ((conforming (descAttr d) = true ∧ s.cpl.toNat < (descDpl d).toNat ∨
        conforming (descAttr d) = false ∧ (descDpl d ≠ s.cpl ∨ s.cpl.toNat < (rpl sel).toNat)) →
      farTransfer call p sel off next s = .error (.exn ⟨.gp, some (selectorErrorCode sel false), false⟩) u))

/-- A far JMP or CALL whose selector names a call gate (42_control_transfer.md R456, R457, R473 to R475, R478 to R481). A gate whose
DPL is below CPL or the RPL of its selector takes `#GP` with that selector, one that is not present `#NP` with it. The selector in
the gate must name a code segment, else `#GP` with it, `#GP(0)` where it is null; with a DPL of at most CPL, for a JMP to a
nonconforming one equal to it, else `#GP` with it; and a present one, else `#NP` with it. A CALL to a nonconforming segment of a
more privileged level is the inter-level call, which, once it completes, runs at the DPL of that segment on a stack of that level,
at the gate's entry point. What that call is refused for, in this order: what the fetch of the new stack from the TSS and the checks
of its segment raise (`Obligations.GateDelivery`, `Obligations.FarReturnProtected`); no room there for four items and the
parameters, `#SS` with its selector; an entry point beyond the limit of the code segment, `#GP(0)`; what the reads of the
parameters, the checks of the pushes and those of the accessed marks raise. After these it completes. Any other transfer enters the
segment at the gate's entry point and the level in force, a CALL after it has pushed CS and the return offset, items of the gate's
size. That the upper word of CS pushed as a doubleword is 0 is the model's choice, log entry 31 (U23). The test for room, each push
at its own wrapped offset, is the model's reading, log entry 34 (DEDUCED). -/
def Obligations.CallGates : Prop :=
  ∀ (call : Bool) (p : Prefixes) (sel csel : Word16) (off next : Word32) (s u v w y z t : State) (g cd : Desc) (a : List Nat)
    (xs : List Slot) (e : Err) (dn : Done) (nss : Word16) (nesp : Word32) (sd : Desc) (params a' : List Nat) (t1 t2 t3 : State),
    s.protectedMode = true →
    (isNull sel = false → needDescriptor sel .gp false s = .ok g u → descS g = false → (descType g).toNat ∈ [4, 12] →
      let raises := fun (x : Exc) (n : Word16) (from_ : State) =>
        farTransfer call p sel off next s = .error (.exn ⟨x, some (selectorErrorCode n false), false⟩) from_
      let entered := fun (t : State) =>
        { t with cs := ⟨withRpl csel s.cpl, descBase cd, descLimit cd, withAccessed (descAttr cd), true⟩, eip := gateOffset g }
      ((descDpl g).toNat < s.cpl.toNat ∨ (descDpl g).toNat < (rpl sel).toNat → raises .gp sel u) ∧
      (s.cpl.toNat ≤ (descDpl g).toNat → (rpl sel).toNat ≤ (descDpl g).toNat →
        (descP g = false → raises .np sel u) ∧
        (descP g = true → csel = gateSelector g →
          (isNull csel = true → raises .gp 0 u) ∧
          (isNull csel = false → readDescriptor csel u = .error e v → farTransfer call p sel off next s = .error e v) ∧
          (isNull csel = false → readDescriptor csel u = .ok none v → raises .gp csel v) ∧
          (isNull csel = false → readDescriptor csel u = .ok (some cd) v →
            (isCode (descAttr cd) = false → raises .gp csel v) ∧
            (isCode (descAttr cd) = true →
              (s.cpl.toNat < (descDpl cd).toNat ∨ call = false ∧ conforming (descAttr cd) = false ∧ descDpl cd ≠ s.cpl →
                raises .gp csel v) ∧
              ((descDpl cd).toNat ≤ s.cpl.toNat →
                (call = false → conforming (descAttr cd) = true ∨ descDpl cd = s.cpl) →
                (descP cd = false → raises .np csel v) ∧
                (descP cd = true →
                  (call = true → conforming (descAttr cd) = false → (descDpl cd).toNat < s.cpl.toNat →
                    farTransfer call p sel off next s = interLevelCall g csel cd next v) ∧
                  ((call = true → conforming (descAttr cd) = true ∨ descDpl cd = s.cpl) →
                    (call = true → requireRoom (gateItem g) 2 v = .error e w →
                      farTransfer call p sel off next s = .error e w) ∧
                    ((descLimit cd).toNat < (gateOffset g).toNat →
                      (call = true → requireRoom (gateItem g) 2 v = .ok () v) → raises .gp 0 v) ∧
                    ((gateOffset g).toNat ≤ (descLimit cd).toNat →
                      (call = false → probeAccessed csel cd v = .ok a w → commitAccessed a w = .ok () y →
                        ∃ t, farTransfer call p sel off next s = .ok .normal t ∧ t.cpl = s.cpl ∧ sameBytes w t a ∧
                          t = entered y) ∧
                      (call = true → requireRoom (gateItem g) 2 v = .ok () v → probeFrame (gateItem g) 2 v = .ok xs w →
                        probeAccessed csel cd w = .ok a y → writeSlots xs [s.cs.sel.toNat, next.toNat] y = .ok () z →
                        commitAccessed a (z.setSp (spAfter s.ss.attr.db (s.reg .esp) (gateItem g) 2)) = .ok () t →
                        ∃ t', farTransfer call p sel off next s = .ok .normal t' ∧ t'.cpl = s.cpl ∧
                          sameBytes y t' (xs.flatMap Slot.addrs ++ a) ∧ t' = entered t)))))))))) ∧
    (interLevelCall g csel cd next s = .ok dn t →
      dn = .normal ∧ t.eip = gateOffset g ∧ t.cpl = descDpl cd ∧
        t.cs = ⟨withRpl csel (descDpl cd), descBase cd, descLimit cd, withAccessed (descAttr cd), true⟩ ∧
        rpl t.ss.sel = descDpl cd ∧ t.ss.attr.dpl = descDpl cd ∧ t.ss.valid = true ∧ writable t.ss.attr = true ∧
        t.eflags = s.eflags ∧ t.reg .eax = s.reg .eax) ∧
    (let called := interLevelCall g csel cd next s
      let n := 4 + gateCount g
      let seg : SegState := ⟨nss, descBase sd, descLimit sd, withAccessed (descAttr sd), true⟩
      let offsets := pushOffsets seg.attr.db (spOf seg.attr.db nesp) (gateItem g) n
      (tssStack (descDpl cd) false s = .error e u → called = .error e u) ∧
      (tssStack (descDpl cd) false s = .ok (nss, nesp) u →
        (checkSs nss (descDpl cd) .ts false u = .error e v → called = .error e v) ∧
        (checkSs nss (descDpl cd) .ts false u = .ok sd v →
          ∀ room : Prop, (room ↔ ∀ off ∈ offsets, inLimit seg off (gateItem g) = true) →
          (¬room → called = .error (.exn ⟨.ss, some (selectorErrorCode nss false), false⟩) v) ∧
          (room → (descLimit cd).toNat < (gateOffset g).toNat → called = .error (.exn ⟨.gp, some 0, false⟩) v) ∧
          (room → (gateOffset g).toNat ≤ (descLimit cd).toNat →
            (readParams (gateItem g) s.sp (gateCount g) v = .error e w → called = .error e w) ∧
            (readParams (gateItem g) s.sp (gateCount g) v = .ok params w →
              (probePushes seg (gateItem g) false offsets w = .error e y → called = .error e y) ∧
              (probePushes seg (gateItem g) false offsets w = .ok xs y →
                (probeAccessed nss sd y = .error e z → called = .error e z) ∧
                (probeAccessed nss sd y = .ok a z →
                  (probeAccessed csel cd z = .error e t → called = .error e t) ∧
                  (probeAccessed csel cd z = .ok a' t → commitAccessed a t = .ok () t1 →
                    writeSlots xs ([s.ss.sel.toNat, (s.reg .esp).toNat] ++ params.reverse ++ [s.cs.sel.toNat, next.toNat]) t1 =
                      .ok () t2 →
                    commitAccessed a' (State.setSp { t2 with ss := seg } (spAfter seg.attr.db nesp (gateItem g) n)) =
                      .ok () t3 →
                    called = .ok .normal { t3 with
                      cs := ⟨withRpl csel (descDpl cd), descBase cd, descLimit cd, withAccessed (descAttr cd), true⟩
                      eip := gateOffset g }))))))))

/-- A far return in protected mode never enters a more privileged level, and on a return to an outer level no data-segment register
keeps a nonconforming segment that level may not use. It pops the return offset and CS; within a level it releases them and the
bytes its immediate names; to an outer level, whose stack pointer and SS lie above those bytes, it takes that stack and releases as
many bytes there too (42_control_transfer.md R491, R498). It completes where its reads do, the segments suit, the target is within
the limit and the descriptors can be marked accessed. Not said here is the stack pointer of a 16-bit return to a 32-bit stack, whose
upper half is not popped. What it is refused for (R491, R492, R494): either frame beyond the stack's limit `#SS(0)`; a code segment
of RPL below CPL, outside its table, that is none, or of a DPL its RPL does not admit `#GP` with it, null `#GP(0)`, and not present
`#NP` with it; a stack segment, checked against a level, that is null, outside its table, not of that RPL and DPL or not writable,
and one that is not present `#SS` with it; a target beyond the limit of the new CS `#GP(0)`. -/
def Obligations.FarReturnProtected : Prop :=
  ∀ (p : Prefixes) (n : Nat) (sel : Word16) (lvl : BitVec 2) (xc : Exc) (ext : Bool) (s t u v w y z : State) (dn : Done)
    (er : Err) (x c e k : Nat) (d sd : Desc)
    (a a' : List Nat) (t1 t2 t3 t4 : State),
    let b := s.opBytes p
    let returned := returnFar p n s
    let raises := fun (i : Exc) (from_ : State) => returned = .error (.exn ⟨i, some 0, false⟩) from_
    let code := fun (i : Exc) (named : Word16) (from_ : State) =>
      returnCode sel s = .error (.exn ⟨i, some (selectorErrorCode named false), false⟩) from_
    let stack := fun (i : Exc) (named : Word16) (from_ : State) =>
      checkSs sel lvl xc ext s = .error (.exn ⟨i, some (selectorErrorCode named ext), false⟩) from_
    ((rpl sel).toNat < s.cpl.toNat → code .gp sel s) ∧
    (s.cpl.toNat ≤ (rpl sel).toNat →
      (isNull sel = true → code .gp 0 s) ∧
      (isNull sel = false →
        (readDescriptor sel s = .error er u → returnCode sel s = .error er u) ∧
        (readDescriptor sel s = .ok none u → code .gp sel u) ∧
        (readDescriptor sel s = .ok (some d) u →
          ∀ suits : Prop, (suits ↔ isCode (descAttr d) = true ∧
              if conforming (descAttr d) then (descDpl d).toNat ≤ (rpl sel).toNat else descDpl d = rpl sel) →
            (¬suits → code .gp sel u) ∧ (suits → descP d = false → code .np sel u) ∧
            (suits → descP d = true → returnCode sel s = .ok d u)))) ∧
    (isNull sel = true → stack xc 0 s) ∧
    (isNull sel = false →
      (readDescriptor sel s = .error er u → checkSs sel lvl xc ext s = .error er u) ∧
      (readDescriptor sel s = .ok none u → stack xc sel u) ∧
      (readDescriptor sel s = .ok (some d) u →
        ∀ suits : Prop, (suits ↔ rpl sel = lvl ∧ writable (descAttr d) = true ∧ descDpl d = lvl) →
          (¬suits → stack xc sel u) ∧
          (suits → descP d = false → stack .ss sel u) ∧ (suits → descP d = true → checkSs sel lvl xc ext s = .ok d u))) ∧
    (s.protectedMode = true →
      (inLimit s.ss s.sp (2 * b) = false → raises .ss s) ∧
      (inLimit s.ss s.sp (2 * b) = true → readStack s.sp b s = .error er u → returned = .error er u) ∧
      (inLimit s.ss s.sp (2 * b) = true → readStack s.sp b s = .ok x u →
        (readStack (s.sp + BitVec.ofNat 32 b) 2 u = .error er v → returned = .error er v) ∧
        (readStack (s.sp + BitVec.ofNat 32 b) 2 u = .ok c v →
          let csel := BitVec.ofNat 16 c
          let eip := BitVec.ofNat 32 x
          (returnCode csel v = .error er w → returned = .error er w) ∧
          (returnCode csel v = .ok d w → rpl csel = s.cpl →
            ((descLimit d).toNat < eip.toNat → raises .gp w) ∧
            (eip.toNat ≤ (descLimit d).toNat → probeAccessed csel d w = .error er y → returned = .error er y) ∧
            (eip.toNat ≤ (descLimit d).toNat → probeAccessed csel d w = .ok a y →
              commitAccessed a (y.setSp (y.sp + BitVec.ofNat 32 (2 * b + n))) = .ok () z →
              returned = .ok .normal
                { z with cs := ⟨csel, descBase d, descLimit d, withAccessed (descAttr d), true⟩, eip := eip })) ∧
          (returnCode csel v = .ok d w → rpl csel ≠ s.cpl →
            ∀ top, top = spOf s.ss.attr.db (s.sp + BitVec.ofNat 32 (2 * b + n)) →
            (inLimit s.ss top (2 * b) = false → raises .ss w) ∧
            (inLimit s.ss top (2 * b) = true → readStack top b w = .error er y → returned = .error er y) ∧
            (inLimit s.ss top (2 * b) = true → readStack top b w = .ok e y →
              (readStack (top + BitVec.ofNat 32 b) 2 y = .error er z → returned = .error er z) ∧
              (readStack (top + BitVec.ofNat 32 b) 2 y = .ok k z →
                (checkSs (BitVec.ofNat 16 k) (rpl csel) .gp false z = .error er t → returned = .error er t) ∧
                (checkSs (BitVec.ofNat 16 k) (rpl csel) .gp false z = .ok sd t →
                  ((descLimit d).toNat < eip.toNat → raises .gp t) ∧
                  (eip.toNat ≤ (descLimit d).toNat →
                    (probeAccessed csel d t = .error er t1 → returned = .error er t1) ∧
                    (probeAccessed csel d t = .ok a t1 →
                      (probeAccessed (BitVec.ofNat 16 k) sd t1 = .error er t2 → returned = .error er t2) ∧
                      (probeAccessed (BitVec.ofNat 16 k) sd t1 = .ok a' t2 → commitAccessed a t2 = .ok () t3 →
                        ∀ code, code = ⟨csel, descBase d, descLimit d, withAccessed (descAttr d), true⟩ →
                        commitAccessed a' { t3 with cs := code } = .ok () t4 →
                        ∃ t', returned = .ok .normal t' ∧ (∀ r, r ≠ .esp → t'.reg r = t4.reg r) ∧
                          t' = { t4 with
                            ss := ⟨BitVec.ofNat 16 k, descBase sd, descLimit sd, withAccessed (descAttr sd), true⟩
                            es := t'.es, ds := t'.ds, fs := t'.fs, gs := t'.gs
                            gpr := t'.gpr, free := t'.free, eip := eip })))))))))) ∧
    (s.protectedMode = true → returned = .ok dn t →
    s.cpl.toNat ≤ t.cpl.toNat ∧
    (s.cpl ≠ t.cpl → rpl t.ss.sel = t.cpl ∧
      ∀ g ∈ [t.es, t.ds, t.fs, t.gs], g.valid = true → conforming g.attr = true ∨ t.cpl.toNat ≤ g.attr.dpl.toNat) ∧
    (readStack s.sp (s.opBytes p) s = .ok x u → readStack (s.sp + BitVec.ofNat 32 (s.opBytes p)) 2 u = .ok c v →
      returnCode (BitVec.ofNat 16 c) v = .ok d w →
      dn = .normal ∧ t.eip = BitVec.ofNat 32 x ∧
      t.cs = ⟨BitVec.ofNat 16 c, descBase d, descLimit d, withAccessed (descAttr d), true⟩ ∧
      (t.cpl = s.cpl → t.ss = s.ss ∧ t.sp = spOf s.ss.attr.db (s.sp + BitVec.ofNat 32 (2 * s.opBytes p + n))) ∧
      (t.cpl ≠ s.cpl →
        ∀ top, top = spOf s.ss.attr.db (s.sp + BitVec.ofNat 32 (2 * s.opBytes p + n)) →
        readStack top (s.opBytes p) w = .ok e y → readStack (top + BitVec.ofNat 32 (s.opBytes p)) 2 y = .ok k z →
        t.ss.sel = BitVec.ofNat 16 k ∧ (s.op32 p = true ∨ t.ss.attr.db = false →
          t.sp = spOf t.ss.attr.db (BitVec.ofNat 32 e + BitVec.ofNat 32 n)))))

/-! ## Input, output and flags -/

/-- IN puts what the device answered into the low bytes of EAX; OUT gives the device the low bytes of EAX (44_io.md R590 to R593;
20_memory.md R140). The model's own: the transaction is the newest entry of a record, and the answer is a free value (log entry
9). `u` is the state after the port has been checked; where the check fails, its
exception is that of the instruction; a LOCK prefix takes `#UD`. -/
def Obligations.PortInOut : Prop :=
  ∀ (p : Prefixes) (port : BitVec 8) (s u : State) (e : Err),
    (p.has .lock = true → ∀ i ∈ [Instr.inAlImm p port, .inAxImm p port, .inAlDx p, .inAxDx p, .outImmAl p port,
      .outImmAx p port, .outDxAl p, .outDxAx p], exec i s = raised s s.begin .ud none) ∧
    (Prefixes.plain p = true → ∀ i ∈ [(Instr.inAlImm p port, port.setWidth 16, 1, 2), (.inAxImm p port, port.setWidth 16, s.opBytes p, 2),
        (.inAlDx p, lo16 (s.reg .edx), 1, 1), (.inAxDx p, lo16 (s.reg .edx), s.opBytes p, 1)],
      portAccess i.2.1 i.2.2.1 s.begin = .ok () u →
      ∃ t v, exec i.1 s = .next t ∧ sameBytes u t [] ∧ v.toNat < 2 ^ (8 * i.2.2.1) ∧
        t = State.retire (State.setReg { u with free := u.free + 1, io := .read i.2.1 i.2.2.1 v :: u.io } .eax
          ((s.reg .eax &&& ~~~(BitVec.ofNat 32 (2 ^ (8 * i.2.2.1) - 1))) ||| v)) p i.2.2.2) ∧
    (Prefixes.plain p = true → ∀ i ∈ [(Instr.inAlImm p port, port.setWidth 16, 1), (.inAxImm p port, port.setWidth 16, s.opBytes p),
        (.inAlDx p, lo16 (s.reg .edx), 1), (.inAxDx p, lo16 (s.reg .edx), s.opBytes p),
        (.outImmAl p port, port.setWidth 16, 1), (.outImmAx p port, port.setWidth 16, s.opBytes p),
        (.outDxAl p, lo16 (s.reg .edx), 1), (.outDxAx p, lo16 (s.reg .edx), s.opBytes p)],
      portAccess i.2.1 i.2.2 s.begin = .error e u → exec i.1 s = failed s e u) ∧
    (Prefixes.plain p = true → ∀ i ∈ [(Instr.outImmAl p port, port.setWidth 16, 1, 2),
        (.outImmAx p port, port.setWidth 16, s.opBytes p, 2),
        (.outDxAl p, lo16 (s.reg .edx), 1, 1), (.outDxAx p, lo16 (s.reg .edx), s.opBytes p, 1)],
      portAccess i.2.1 i.2.2.1 s.begin = .ok () u →
      ∃ t, exec i.1 s = .next t ∧ sameBytes u t [] ∧
        t = State.retire { u with io := (.write i.2.1 i.2.2.1
          (s.reg .eax &&& BitVec.ofNat 32 (2 ^ (8 * i.2.2.1) - 1)) :: u.io) } p i.2.2.2)

/-- The permission of a port access (44_io.md R585): always in real-address mode; at a level up to IOPL in protected mode; else by
the bit map of a 32-bit TSS, every bit of the access 0, and `#GP(0)` without it or beyond its limit. -/
def Obligations.PortPermission : Prop :=
  ∀ (port : Word16) (n : Nat) (s u v : State) (base w : Nat), 0 < n → n ≤ 4 →
    (s.pe = false → ioPermission port n s = .ok () s) ∧
    (s.protectedMode = true → s.cpl.toNat ≤ s.iopl.toNat → ioPermission port n s = .ok () s) ∧
    ((s.v86 = true ∨ s.protectedMode = true ∧ s.iopl.toNat < s.cpl.toNat) →
      ((s.tr.valid = false ∨ s.tss32 = false ∨ s.tr.limit.toNat < 0x67) →
        ioPermission port n s = .error (.exn ⟨.gp, some 0, false⟩) s) ∧
      (s.tr.valid = true → s.tss32 = true → 0x67 ≤ s.tr.limit.toNat →
        linRead (s.tr.base + 0x66) 2 Acc.supRead s = .ok base u →
        (s.tr.limit.toNat < base + port.toNat / 8 + 1 →
          ioPermission port n s = .error (.exn ⟨.gp, some 0, false⟩) u) ∧
        (base + port.toNat / 8 + 1 ≤ s.tr.limit.toNat →
          linRead (s.tr.base + BitVec.ofNat 32 (base + port.toNat / 8)) 2 Acc.supRead u = .ok w v →
          ((∀ k, k < n → w.testBit (port.toNat % 8 + k) = false) → ioPermission port n s = .ok () v) ∧
          ((∃ k, k < n ∧ w.testBit (port.toNat % 8 + k) = true) →
            ioPermission port n s = .error (.exn ⟨.gp, some 0, false⟩) v))))

/-- One element of INS: the destination is checked, the port is read, the value is stored and (E)DI moves by the element's size,
down when DF is 1. One element of OUTS: memory is read, then written to the port, and (E)SI moves (44_io.md R594, R595). The model's
own, log entry 9: the transaction is the newest entry of a record, and what the device answers is a free value. -/
def Obligations.StringElements : Prop :=
  ∀ (p : Prefixes) (n : Nat) (s u w : State) (x : Slot) (v : Nat), n = 1 ∨ n = 2 ∨ n = 4 →
    portAccess s.dx n s = .ok () u →
    (memProbe .es (s.addrReg p .edi) n n true u = .ok x w → x.isRam w = true →
      ∃ t y, insOnce p n s = .ok () t ∧ sameBytes w t x.addrs ∧ y.toNat < 2 ^ (8 * n) ∧
        t = State.moveAddrReg (State.stored { w with free := w.free + 1, io := .read s.dx n y :: w.io } x y.toNat) p .edi
          (if s.df then -(BitVec.ofNat 32 n) else BitVec.ofNat 32 n)) ∧
    (memRead (p.segOverride.getD .ds) (s.addrReg p .esi) n n u = .ok v w →
      ∃ t, outsOnce p n s = .ok () t ∧ sameBytes w t [] ∧
        t = State.moveAddrReg { w with io := .write s.dx n (lowBytes n (BitVec.ofNat 32 v)) :: w.io } p .esi
          (if s.df then -(BitVec.ofNat 32 n) else BitVec.ofNat 32 n))

/-- INS and OUTS: one element without a repeat prefix; with one, nothing when (E)CX is 0, else one element and (E)CX less one,
and the instruction is over when (E)CX has become 0 and otherwise stays at its own address with RF set (44_io.md R596;
60_exceptions.md R757). -/
def Obligations.StringRepetition : Prop :=
  ∀ (p : Prefixes) (s u : State), p.has .lock = false →
    ∀ i ∈ [(Instr.insb p, insOnce p 1), (.insv p, insOnce p (s.opBytes p)), (.outsb p, outsOnce p 1),
        (.outsv p, outsOnce p (s.opBytes p))],
      (p.hasRep = false → i.2 s.begin = .ok () u →
        ∃ t, exec i.1 s = .next t ∧ t = u.retire p 1 ∧ sameBytes u t []) ∧
      (p.hasRep = true → s.addrReg p .ecx = 0 →
        ∃ t, exec i.1 s = .next t ∧ t = s.begin.retire p 1 ∧ sameBytes s t []) ∧
      (p.hasRep = true → s.addrReg p .ecx ≠ 0 → i.2 s.begin = .ok () u →
        ∃ t, exec i.1 s = .next t ∧ sameBytes u t [] ∧
          (State.addrReg (u.moveAddrReg p .ecx (-1)) p .ecx = 0 → t = State.retire (u.moveAddrReg p .ecx (-1)) p 1) ∧
          (State.addrReg (u.moveAddrReg p .ecx (-1)) p .ecx ≠ 0 →
            t = State.setFlag (u.moveAddrReg p .ecx (-1)) 16 true))

/-- CLI and STI, where IOPL admits them, clear and set IF; STI opens the one-instruction hold where the implementation has it
(STI_SHADOW, D65) and IF was 0. Where IOPL does not, they take `#GP(0)`, but that CLI clears VIF where the implementation has
virtual interrupts and CR4 turns them on for the mode; with a LOCK prefix, `#UD` (44_io.md R600, R601). That CLI then changes
nothing but VIF, and STI is not virtualised, is the model's choice, log entry 40. -/
def Obligations.CliStiWriteIf : Prop :=
  ∀ (p : Prefixes) (s : State),
    (p.has .lock = true → exec (.cli p) s = raised s s.begin .ud none ∧ exec (.sti p) s = raised s s.begin .ud none) ∧
    (Prefixes.plain p = true → (s.pe = true → s.cpl.toNat ≤ s.iopl.toNat) →
      (∃ t, exec (.cli p) s = .next t ∧ t = State.retire (s.begin.setFlag 9 false) p 1 ∧ sameBytes s t [] ∧
        t.ifl = false) ∧
      (∃ t, exec (.sti p) s = .next t ∧ sameBytes s t [] ∧ t.ifl = true ∧
        t = State.retire (State.setFlag { s.begin with inhibitSti := s.inhibitSti || (!s.ifl && s.params.stiShadow) }
          9 true) p 1)) ∧
    (Prefixes.plain p = true → s.pe = true → s.iopl.toNat < s.cpl.toNat →
      (s.params.hasVME = true ∧ (s.v86 = true ∧ bit s.cr4 0 = true ∨
          s.protectedMode = true ∧ s.cpl = 3 ∧ bit s.cr4 1 = true) →
        ∃ t, exec (.cli p) s = .next t ∧ t = State.retire (s.begin.setFlag 19 false) p 1 ∧ sameBytes s t [] ∧
          t.ifl = s.ifl) ∧
      (¬(s.params.hasVME = true ∧ (s.v86 = true ∧ bit s.cr4 0 = true ∨
          s.protectedMode = true ∧ s.cpl = 3 ∧ bit s.cr4 1 = true)) → exec (.cli p) s = raised s s.begin .gp (some 0)) ∧
      exec (.sti p) s = raised s s.begin .gp (some 0))

/-- PUSHF stores EFLAGS at operand size below the stack pointer; in virtual-8086 mode with IOPL below 3 it takes `#GP(0)`
(42_control_transfer.md R452, 44_io.md R603). POPF loads the flags its level may write and no other: IF only at a level up to IOPL,
IOPL only at level 0, VM and the reserved bits never, RF only with a 32-bit operand size (44_io.md R604); an image whose reserved
bits are other than they read is refused where the implementation does not keep them (00_scope.md R8, U1; which it does is a
parameter of the model's own, log entry 22). That RF is clear after a 16-bit POPF is the model's reading of 46_debug.md R677 item 4,
which example 4 of R604 does not share (log entry 15). An exception of the stack's read, or of the push, is the instruction's. -/
def Obligations.PushfPopfFlags : Prop :=
  ∀ (p : Prefixes) (s u v : State) (x : Slot) (img : Nat) (e : Err), Prefixes.plain p = true →
    ((s.v86 = true → s.iopl = 3) →
      (memProbe .ss (spAfter s.ss.attr.db (s.reg .esp) (s.opBytes p) 1) (s.opBytes p) (s.opBytes p) true s.begin = .error e u →
        exec (.pushf p) s = failed s e u) ∧
      (readStack s.sp (s.opBytes p) s.begin = .error e u → exec (.popf p) s = failed s e u) ∧
      (readStack s.sp (s.opBytes p) s.begin = .ok img v → ¬admitsImage s.params (s.op32 p) (BitVec.ofNat 32 img) →
        exec (.popf p) s = .refused .reservedBits)) ∧
    ((s.v86 = true → s.iopl = 3) →
      memProbe .ss (spAfter s.ss.attr.db (s.reg .esp) (s.opBytes p) 1) (s.opBytes p) (s.opBytes p) true s.begin = .ok x u →
      x.isRam u = true →
      ∃ t, exec (.pushf p) s = .next t ∧ sameBytes u t x.addrs ∧
        t = State.retire (State.setSp (u.stored x s.eflags.toNat)
          (spAfter s.ss.attr.db (s.reg .esp) (s.opBytes p) 1)) p 1) ∧
    (s.v86 = true → s.iopl ≠ 3 → exec (.pushf p) s = raised s s.begin .gp (some 0)) ∧
    ((s.v86 = true → s.iopl = 3) →
      readStack s.sp (s.opBytes p) s.begin = .ok img v → admitsImage s.params (s.op32 p) (BitVec.ofNat 32 img) →
      ∃ t, exec (.popf p) s = .next t ∧ sameBytes v t [] ∧
        t = { v.setSp (v.sp + BitVec.ofNat 32 (s.opBytes p)) with eip := s.nextPc p 1, eflags := t.eflags } ∧
        (∀ k, k ∈ [0, 2, 4, 6, 7, 8, 10, 11, 14] → bit t.eflags k = img.testBit k) ∧
        (bit t.eflags 9 = if s.cpl.toNat ≤ s.iopl.toNat then img.testBit 9 else bit s.eflags 9) ∧
        (t.iopl = if s.cpl = 0 then bits2 (BitVec.ofNat 32 img) 12 else s.iopl) ∧
        (bit t.eflags 16 = (s.op32 p && img.testBit 16)) ∧
        (fixEflags s.params s.eflags = s.eflags →
          (bit t.eflags 18 = if s.op32 p && s.params.hasAC then img.testBit 18 else bit s.eflags 18) ∧
          (bit t.eflags 21 = if s.op32 p && s.params.hasID then img.testBit 21 else bit s.eflags 21) ∧
          ∀ k, k ∈ [1, 3, 5, 15, 17, 19, 20] ++ [22, 23, 24, 25, 26, 27, 28, 29, 30, 31] → bit t.eflags k = bit s.eflags k)) ∧
    (s.v86 = true → s.iopl ≠ 3 → exec (.popf p) s = raised s s.begin .gp (some 0))

/-! ## Interrupt instructions -/

/-- INT n, INT 3 and INTO with OF set are the delivery of a software interrupt whose return address is the next instruction; RF is
clear afterwards but for a task switch (45_interrupt_instructions.md R630, R631, R632; 46_debug.md R677); where that delivery stops,
what stops it is the instruction's. In virtual-8086 mode INT n needs IOPL 3. INTO with OF clear and BOUND with the index within its
signed bounds only go on; BOUND outside them takes `#BR` with nothing changed (R632, R634). BOUND's two bounds are one operand,
which does not wrap around (20_memory.md R121, 21_segmentation.md R234). -/
def Obligations.InterruptInstructions : Prop :=
  ∀ (p : Prefixes) (n : Byte) (r q : Reg) (m : MemOp) (s u v : State) (switched : Bool) (lo hi : Nat) (e : Err),
    Prefixes.plain p = true →
    (deliver 3 true (s.nextPc p 1) none false s.begin = .error e u → exec (.int3 p) s = failed s e u) ∧
    ((s.v86 = true → s.iopl = 3) → deliver n true (s.nextPc p 2) none false s.begin = .error e u →
      exec (.intImm p n) s = failed s e u) ∧
    (s.off = true → deliver 4 true (s.nextPc p 1) none false s.begin = .error e u → exec (.into p) s = failed s e u) ∧
    (deliver 3 true (s.nextPc p 1) none false s.begin = .ok switched u →
      exec (.int3 p) s = .next (if switched then u else u.setFlag 16 false)) ∧
    ((s.v86 = true → s.iopl = 3) → deliver n true (s.nextPc p 2) none false s.begin = .ok switched u →
      exec (.intImm p n) s = .next (if switched then u else u.setFlag 16 false)) ∧
    (s.v86 = true → s.iopl ≠ 3 → exec (.intImm p n) s = raised s s.begin .gp (some 0)) ∧
    (s.off = true → deliver 4 true (s.nextPc p 1) none false s.begin = .ok switched u →
      exec (.into p) s = .next (if switched then u else u.setFlag 16 false)) ∧
    (s.off = false → ∃ t, exec (.into p) s = .next t ∧ t = s.begin.retire p 1 ∧ sameBytes s t []) ∧
    (exec (.bound p r (.reg q)) s = raised s s.begin .ud none) ∧
    (segOk s.protectedMode (s.seg (operandSeg p m)) (s.ea m) (2 * s.opBytes p) false = false →
      exec (.bound p r (.mem m)) s = raised s s.begin (if operandSeg p m = .ss then .ss else .gp) (some 0)) ∧
    (segOk s.protectedMode (s.seg (operandSeg p m)) (s.ea m) (2 * s.opBytes p) false = true →
      readMem p m 0 (s.opBytes p) (s.opBytes p) s.begin = .ok lo u →
      readMem p m (s.opBytes p) (s.opBytes p) (s.opBytes p) u = .ok hi v →
      ∀ inside : Prop,
        (inside ↔ if s.op32 p then (BitVec.ofNat 32 lo).toInt ≤ (s.reg r).toInt ∧ (s.reg r).toInt ≤ (BitVec.ofNat 32 hi).toInt
          else (BitVec.ofNat 16 lo).toInt ≤ (lo16 (s.reg r)).toInt ∧
            (lo16 (s.reg r)).toInt ≤ (BitVec.ofNat 16 hi).toInt) →
        (inside → ∃ t, exec (.bound p r (.mem m)) s = .next t ∧ t = v.retire p (1 + m.size) ∧ sameBytes v t []) ∧
        (¬inside → exec (.bound p r (.mem m)) s = raised s v .br none))

/-- IRET is one exception return (45_interrupt_instructions.md R640). In real-address mode, and in virtual-8086 mode at IOPL 3 (at
another, `#GP(0)`), it pops EIP, CS and the flags its level may load, and unblocks NMI (R642, R643, R644). In protected mode with NT
clear it reads the same three items, and with them returns to virtual-8086 mode, for a doubleword image with VM set at level 0, or
within the task (R641). A frame that is not within the stack's limit takes `#SS(0)`, a target beyond that of CS `#GP(0)`, and an
image whose reserved bits are other than they read is refused where the implementation does not keep them (00_scope.md R8, U1; a
parameter of the model's own, log entry 22). The accessed, AVL and conforming bits of a load in virtual-8086 mode are the model's,
log entry 42. The limit and attributes of CS after a return outside protected mode follow R462 where 10_state.md R57 says otherwise,
the model's reading, log entry 49 (DEDUCED). -/
def Obligations.InterruptReturn : Prop :=
  ∀ (p : Prefixes) (s u : State) (dn : Done) (er : Err) (x c f : Nat), Prefixes.plain p = true →
    let b := s.opBytes p
    let eip := BitVec.ofNat 32 x
    let csel := BitVec.ofNat 16 c
    let image := BitVec.ofNat 32 f
    let returned := exceptionReturn (s.op32 p) (s.nextPc p 1) s.begin
    let likeReal := s.pe = false ∨ s.v86 = true ∧ s.iopl = 3
    (returned = .ok dn u → exec (.iret p) s = .next (u.finish dn)) ∧
    (returned = .error er u → exec (.iret p) s = failed s er u) ∧
    (s.v86 = true → s.iopl ≠ 3 → exec (.iret p) s = raised s s.begin .gp (some 0)) ∧
    (likeReal ∨ s.protectedMode = true ∧ s.nt = false →
      (inLimit s.ss s.sp (3 * b) = false → exec (.iret p) s = raised s s.begin .ss (some 0)) ∧
      (inLimit s.ss s.sp (3 * b) = true →
        readItems [(s.sp, b), (s.sp + BitVec.ofNat 32 b, 2), (s.sp + BitVec.ofNat 32 (2 * b), b)] s.begin = .ok [x, c, f] u →
        (likeReal → s.cs.limit.toNat < eip.toNat → exec (.iret p) s = raised s u .gp (some 0)) ∧
        (likeReal → eip.toNat ≤ s.cs.limit.toNat → ¬admitsImage s.params (s.op32 p) image →
          exec (.iret p) s = .refused .reservedBits) ∧
        (likeReal → eip.toNat ≤ s.cs.limit.toNat → admitsImage s.params (s.op32 p) image →
          ∃ t, exec (.iret p) s = .next t ∧ sameBytes u t [] ∧ flagsLoaded s t (s.op32 p) false image ∧
            t = { u.setSp (s.sp + BitVec.ofNat 32 (3 * b)) with
              eip := eip
              eflags := t.eflags
              nmiBlocked := false
              cs :=
                { s.cs with
                  sel := csel
                  base := csel.setWidth 32 <<< 4
                  valid := true
                  limit := if s.v86 then 0xFFFF else s.cs.limit
                  attr := if s.v86 then attrV86 true else s.cs.attr } }) ∧
        (s.protectedMode = true →
          returned = if s.op32 p = true ∧ bit image 17 = true ∧ s.cpl = 0 then iretToV86 s.sp eip csel image u
            else iretWithin (s.op32 p) s.sp eip csel image u)))

/-- A return from an exception in protected mode, within the task and not to virtual-8086 mode, never enters a more privileged
level, unblocks NMI, and changes IOPL and VM only as far as the level it returned from may (45_interrupt_instructions.md R641,
R642). What the checks of the code segment raise is IRET's (42_control_transfer.md R491); within a level it loads EIP, CS and the
flags and releases the three items; to an outer level it also takes the stack pointer and SS above them, within the stack's limit
and checked as a stack of that level, and makes null what data segments that level may not use (R494, R498; U24). The return to
virtual-8086 mode takes ESP and five selectors from the frame, each segment based at its selector times 16, and VM from the image
(R643; 43_tasks.md R564); that its EIP is checked against FFFFH is the model's reading, log entry 13 (DEDUCED), and the accessed and
AVL bits of its segments are its choice, log entry 42. A target beyond the limit of the new CS takes `#GP(0)`. An image whose
reserved bits are other than they read is refused where the implementation does not keep them (00_scope.md R8, U1; a parameter of
the model's own, log entry 22). The limit and DPL of those segments follow R462 and R564 where 10_state.md R57 says otherwise, log
entry 49 (DEDUCED). -/
def Obligations.InterruptReturnKeepsPrivilege : Prop :=
  ∀ (wide : Bool) (sp eip image : Word32) (csel : Word16) (s t u v w y : State) (dn : Done) (er : Err) (d sd : Desc)
    (a : List Nat) (e k k1 k2 k3 k4 : Nat),
    let b := if wide then 4 else 2
    let returned := iretWithin wide sp eip csel image s
    let code := ⟨csel, descBase d, descLimit d, withAccessed (descAttr d), true⟩
    let toV86 := iretToV86 sp eip csel image s
    let seg86 := fun (n : Word16) => ⟨n, n.setWidth 32 <<< 4, 0xFFFF, attrV86 false, true⟩
    (s.protectedMode = true → returned = .ok dn t →
      dn = .keepRf ∧ t.eip = eip ∧ t.nmiBlocked = false ∧ s.cpl.toNat ≤ t.cpl.toNat ∧ t.vm = false ∧
        (s.cpl ≠ 0 → t.iopl = s.iopl) ∧ (s.iopl.toNat < s.cpl.toNat → t.ifl = s.ifl)) ∧
    (returnCode csel s = .error er u → returned = .error er u) ∧
    (returnCode csel s = .ok d u → rpl csel = s.cpl →
      ((descLimit d).toNat < eip.toNat → returned = .error (.exn ⟨.gp, some 0, false⟩) u) ∧
      (eip.toNat ≤ (descLimit d).toNat → probeAccessed csel d u = .ok a v →
        commitAccessed a (v.setSp (sp + BitVec.ofNat 32 (3 * b))) = .ok () w →
        (¬admitsImage s.params wide image → ∃ z, returned = .error (.refuse .reservedBits) z) ∧
        (admitsImage s.params wide image → ∃ t, returned = .ok .keepRf t ∧ flagsLoaded s t wide false image ∧
          t = { w with cs := code, eip := eip, eflags := t.eflags, nmiBlocked := false }))) ∧
    (returnCode csel s = .ok d u → rpl csel ≠ s.cpl →
      (inLimit s.ss sp (5 * b) = false → returned = .error (.exn ⟨.ss, some 0, false⟩) u) ∧
      (inLimit s.ss sp (5 * b) = true →
        readItems [(sp + BitVec.ofNat 32 (3 * b), b), (sp + BitVec.ofNat 32 (4 * b), 2)] u = .ok [e, k] v →
        (checkSs (BitVec.ofNat 16 k) (rpl csel) .gp false v = .error er w → returned = .error er w) ∧
        (checkSs (BitVec.ofNat 16 k) (rpl csel) .gp false v = .ok sd w →
          ((descLimit d).toNat < eip.toNat → returned = .error (.exn ⟨.gp, some 0, false⟩) w) ∧
          (eip.toNat ≤ (descLimit d).toNat → commitOuter csel d (BitVec.ofNat 16 k) sd wide (BitVec.ofNat 32 e) w = .ok () y →
            (¬admitsImage s.params wide image → ∃ z, returned = .error (.refuse .reservedBits) z) ∧
            (admitsImage s.params wide image → ∃ t, returned = .ok .keepRf t ∧ flagsLoaded s t wide false image ∧
              t = { y with eip := eip, eflags := t.eflags, nmiBlocked := false, es := t.es, ds := t.ds, fs := t.fs, gs := t.gs } ∧
              t.cs = code ∧ t.ss = ⟨BitVec.ofNat 16 k, descBase sd, descLimit sd, withAccessed (descAttr sd), true⟩ ∧
              (t.ss.attr.db = true → t.reg .esp = if wide then BitVec.ofNat 32 e else setLo16 (s.reg .esp) (BitVec.ofNat 16 e)) ∧
              (t.ss.attr.db = false → lo16 (t.reg .esp) = BitVec.ofNat 16 e) ∧
              ∀ g ∈ [(s.es, t.es), (s.ds, t.ds), (s.fs, t.fs), (s.gs, t.gs)],
                g.2 = if g.1.valid = true ∧ g.1.attr.dpl.toNat < (rpl csel).toNat ∧ conforming g.1.attr = false
                  then { g.1 with sel := 0, valid := false } else g.1))))) ∧
    (s.cpl = 0 → bit image 17 = true →
      (inLimit s.ss sp 36 = false → toV86 = .error (.exn ⟨.ss, some 0, false⟩) s) ∧
      (inLimit s.ss sp 36 = true →
        readItems [(sp + 12, 4), (sp + 16, 2), (sp + 20, 2), (sp + 24, 2), (sp + 28, 2), (sp + 32, 2)] s =
          .ok [e, k, k1, k2, k3, k4] u →
        (0xFFFF < eip.toNat → toV86 = .error (.exn ⟨.gp, some 0, false⟩) u) ∧
        (eip.toNat ≤ 0xFFFF → ¬admitsImage s.params true image → ∃ z, toV86 = .error (.refuse .reservedBits) z) ∧
        (eip.toNat ≤ 0xFFFF → admitsImage s.params true image →
          ∃ t, toV86 = .ok .keepRf t ∧ flagsLoaded s t true true image ∧ t.vm = true ∧
            t = { u.setReg .esp (BitVec.ofNat 32 e) with
              cs := seg86 csel
              ss := seg86 (BitVec.ofNat 16 k)
              es := seg86 (BitVec.ofNat 16 k1)
              ds := seg86 (BitVec.ofNat 16 k2)
              fs := seg86 (BitVec.ofNat 16 k3)
              gs := seg86 (BitVec.ofNat 16 k4)
              eip := eip
              eflags := t.eflags
              nmiBlocked := false })))

/-! ## The floating-point unit -/

/-- WAIT with no error pending goes on; FNINIT, FNCLEX and FNSTSW AX with EM and TS clear initialise the unit, clear the exception
flags, and store the status word, whose summary bit says whether an unmasked error is pending, as FERR# does (47_fpu_system.md
R715, R720, R730, R733, R734, R735; 10_state.md R114). The model's own: that FNINIT clears the exception pointers (log entry 51,
N22) and that the numeric registers it keeps are the physical ones (log entry 52). -/
def Obligations.FpuControlInstructions : Prop :=
  ∀ (p : Prefixes) (s : State), Prefixes.plain p = true →
    ((s.mp = false ∨ s.ts = false) → s.fpu.status &&& ~~~s.fpu.control &&& 0x3F = 0 →
      ∃ t, exec (.wait p) s = .next t ∧ t = s.begin.retire p 1 ∧ sameBytes s t []) ∧
    (s.em = false → s.ts = false →
      (∃ t, exec (.fninit p) s = .next t ∧ sameBytes s t [] ∧
        t = State.retire { s.begin with fpu := { s.fpu with control := 0x037F, status := 0, tag := 0xFFFF, opcode := 0, instrSel := 0, instrOff := 0, dataSel := 0, dataOff := 0 } } p 2 ∧ t.ferr = false) ∧
      (∃ t, exec (.fnclex p) s = .next t ∧ sameBytes s t [] ∧ t.ferr = false ∧
        t = State.retire { s.begin with fpu := { s.fpu with status := s.fpu.status &&& 0x7F00 } } p 2) ∧
      (∃ t, exec (.fnstswAx p) s = .next t ∧ sameBytes s t [] ∧
        t = State.retire (s.begin.setReg16 .eax
          ((s.fpu.status &&& 0xFF7F) ||| (if s.ferr then 0x0080 else 0))) p 2))

/-- FNSTSW and FNSTCW store a word; FNSTENV stores the environment, masks every exception and clears the exception flags; FNSAVE
stores the environment and the numeric registers and initialises the unit (47_fpu_system.md R736 to R739, R720, R721). The model's
own: the layout is the family's and the reserved halves are free values (log entry 17), FNSTENV clears what FNCLEX clears (log
entry 46), the initialised unit has pointers of 0 (log entry 51), and ST(i) is the physical register TOP + i modulo 8 (log entry
52). -/
def Obligations.FpuStores : Prop :=
  ∀ (p : Prefixes) (m : MemOp) (s u : State) (x : Slot), Prefixes.plain p = true → s.em = false → s.ts = false →
    (memProbe (operandSeg p m) (s.ea m) 2 2 true s.begin = .ok x u → x.isRam u = true →
      (∃ t, exec (.fnstswMem p m) s = .next t ∧ sameBytes u t x.addrs ∧
        t = State.retire (u.stored x ((s.fpu.status &&& 0xFF7F) ||| (if s.ferr then 0x0080 else 0)).toNat) p (1 + m.size)) ∧
      (∃ t, exec (.fnstcw p m) s = .next t ∧ sameBytes u t x.addrs ∧
        t = State.retire (u.stored x s.fpu.control.toNat) p (1 + m.size))) ∧
    (memProbe (operandSeg p m) (s.ea m) (envSize (s.op32 p)) (s.opBytes p) true
        { s.begin with free := s.begin.free + 5 } = .ok x u → x.isRam u = true →
      ∃ t, exec (.fnstenv p m) s = .next t ∧ sameBytes u t x.addrs ∧ t.ferr = false ∧
        t = State.retire { u.stored x (packFields (fpuEnvironment s.fpu (s.op32 p) s.protectedMode s.begin.free)) with fpu := { s.fpu with control := s.fpu.control ||| 0x3F, status := s.fpu.status &&& 0x7F00 } } p (1 + m.size)) ∧
    (memProbe (operandSeg p m) (s.ea m) (envSize (s.op32 p) + 80) (s.opBytes p) true
        { s.begin with free := s.begin.free + 5 } = .ok x u → x.isRam u = true →
      ∃ t, exec (.fnsave p m) s = .next t ∧ sameBytes u t x.addrs ∧
        t = State.retire { u.stored x (packFields (fpuEnvironment s.fpu (s.op32 p) s.protectedMode s.begin.free ++ fpuStack s.fpu)) with fpu := fpuInitialised s.fpu } p (1 + m.size))

/-- What ESC and WAIT check, and what the seven control instructions without a wait check. ESC: `#NM` when EM or TS is set, before
anything else; with an unmasked error pending, `#MF` when NE is set, and otherwise a processor frozen at the instruction unless
IGNNE# is active; and once both checks have passed, the refusal rule R716 asks for. WAIT looks at MP with TS instead, and goes on
once both have passed (47_fpu_system.md R714 to R716, R720, R722). FNINIT, FNCLEX, FNSTSW AX, FNSTSW m16, FNSTCW, FNSTENV and FNSAVE
take `#NM` as ESC does, and never check for a pending error: with EM and TS clear they complete whatever is pending, NE and IGNNE#
are (R723, R731), but that those that store stop where the check of their operand does. -/
def Obligations.FpuErrorReporting : Prop :=
  ∀ (p : Prefixes) (op reg : BitVec 3) (rm : Rm) (m : MemOp) (s u : State) (x : Slot) (e : Err), Prefixes.plain p = true →
    ((s.em = true ∨ s.ts = true) → ∀ i ∈ [Instr.esc p op reg rm, .fninit p, .fnclex p, .fnstswAx p, .fnstswMem p m,
      .fnstcw p m, .fnstenv p m, .fnsave p m], exec i s = raised s s.begin .nm none) ∧
    (s.mp = true → s.ts = true → exec (.wait p) s = raised s s.begin .nm none) ∧
    (∀ i, (i = .esc p op reg rm ∧ s.em = false ∧ s.ts = false ∨ i = .wait p ∧ (s.mp = false ∨ s.ts = false)) →
      s.fpu.status &&& ~~~s.fpu.control &&& 0x3F ≠ 0 →
      (s.ne = true → exec i s = raised s s.begin .mf none) ∧
      (s.ne = false → s.ignne = false → ∃ t, exec i s = .next t ∧ t.run = .fpFrozen ∧ t.eip = s.eip ∧
        sameBytes s t [])) ∧
    ((s.mp = false ∨ s.ts = false) → s.fpu.status &&& ~~~s.fpu.control &&& 0x3F ≠ 0 → s.ne = false → s.ignne = true →
      ∃ t, exec (.wait p) s = .next t ∧ t = s.begin.retire p 1 ∧ sameBytes s t []) ∧
    (s.em = false → s.ts = false →
      (s.fpu.status &&& ~~~s.fpu.control &&& 0x3F = 0 ∨ s.ne = false ∧ s.ignne = true) →
      exec (.esc p op reg rm) s = .refused .fpuDataPath) ∧
    (s.em = false → s.ts = false →
      (∀ i ∈ [Instr.fninit p, .fnclex p, .fnstswAx p],
        ∃ t, exec i s = .next t ∧ t.run = s.run ∧ t.eip = s.nextPc p 2 ∧ sameBytes s t []) ∧
      ∀ b, b = { s.begin with free := s.begin.free + 5 } →
      ∀ i ∈ [(Instr.fnstswMem p m, 2, 2, s.begin), (.fnstcw p m, 2, 2, s.begin),
          (.fnstenv p m, envSize (s.op32 p), s.opBytes p, b), (.fnsave p m, envSize (s.op32 p) + 80, s.opBytes p, b)],
        (memProbe (operandSeg p m) (s.ea m) i.2.1 i.2.2.1 true i.2.2.2 = .error e u → exec i.1 s = failed s e u) ∧
        (memProbe (operandSeg p m) (s.ea m) i.2.1 i.2.2.1 true i.2.2.2 = .ok x u → x.isRam u = true →
          ∃ t, exec i.1 s = .next t ∧ t.run = s.run ∧ t.eip = s.nextPc p (1 + m.size) ∧ sameBytes u t x.addrs))

/-! ## Encodings that only trap or stop -/

/-- A prefix row whose fifteen bytes hold no whole instruction takes `#GP(0)`, unless they settle already that the instruction is
invalid, whatever the ModR/M byte and the rest beyond them are: then `#UD` comes first (30_encoding.md R338, R355; 60_exceptions.md
R790 item 2). What 'settled' means, and that the length decides where a ModR/M byte beyond the fifteen leaves it open, is the
model's reading, log entry 25 (DEDUCED). One that stands before an opcode of the application instruction set is refused
(30_encoding.md R360, D51). The reserved opcodes are refused: the spec says they raise no invalid-opcode exception, and not what
they do (R356, U18). -/
def Obligations.PrefixAndReservedRows : Prop :=
  ∀ (p : Prefixes) (rm : Rm) (bs : List Byte) (s : State),
    (∀ i ∈ [(Prefix.lock, Instr.prefixLock p), (.repne, .prefixRepne p), (.rep, .prefixRep p), (.es, .prefixEs p),
        (.cs, .prefixCs p), (.ss, .prefixSs p), (.ds, .prefixDs p), (.fs, .prefixFs p), (.gs, .prefixGs p),
        (.opSize, .prefixOpSize p), (.addrSize, .prefixAddrSize p)],
      ∀ invalid : Prop,
        (invalid ↔ ∀ k < 8, ∃ j rest, decodeBody s.cs.attr.db (i.1 :: p)
            (bs ++ BitVec.ofNat 8 (8 * k) :: List.replicate 12 0) = .instr j rest ∧
          undefinedForm s (Prefixes.has (i.1 :: p) .lock) j = true) →
        (¬invalid → exec (i.2 (.overlong bs)) s = raised s s.begin .gp (some 0) ∧
          ∀ u, enters s s.begin .gp (some 0) u → exec (i.2 (.overlong bs)) s = .next u) ∧
        (invalid → exec (i.2 (.overlong bs)) s = raised s s.begin .ud none ∧
          ∀ u, enters s s.begin .ud none u → exec (i.2 (.overlong bs)) s = .next u) ∧
        exec (i.2 (.application bs)) s = .refused .applicationOpcode) ∧
    (∀ i ∈ [Instr.reserved82 p, .reservedD6 p, .reservedF1 p, .reserved0F07 p, .reserved0F10 p, .reserved0F11 p,
        .reserved0F12 p, .reserved0F13 p, .reservedF6r1 p rm, .reservedF7r1 p rm, .reservedC0r6 p rm, .reservedC1r6 p rm,
        .reservedD0r6 p rm, .reservedD1r6 p rm, .reservedD2r6 p rm, .reservedD3r6 p rm],
      exec i s = .refused .reservedOpcode)

/-- What takes the invalid-opcode exception. The forms Table 9-3 does not reserve and no row assigns, and RSM outside
system-management mode, whatever prefixes they have (30_encoding.md R355; 40_system_registers.md R408). The instructions
recognised only in protected mode, in real-address and virtual-8086 mode, before any other check (R371; 41_pointer_validation.md
R430). A LOCK prefix on any instruction that files 40 to 47 give rules for, and a register where a memory operand is needed, here
INVLPG (30_encoding.md R340, R355). A repeat prefix on any of them but INS and OUTS is refused, which U17 asks for (R339). -/
def Obligations.InvalidOpcodeTraps : Prop :=
  ∀ (p : Prefixes) (r : Reg) (rm : Rm) (m : MemOp) (c o : BitVec 3) (d : BitVec 8) (rel : Rel) (far : FarPtr) (n : BitVec 16)
    (s : State),
    let repeats := [Instr.insb p, .insv p, .outsb p, .outsv p]
    let others := [Instr.sldt p rm, .str p rm, .lldt p rm, .ltr p rm, .verr p rm, .verw p rm, .sgdt p rm, .sidt p rm,
      .lgdt p rm, .lidt p rm, .smsw p rm, .lmsw p rm, .invlpg p rm, .lar p r rm, .lsl p r rm, .clts p, .invd p, .wbinvd p,
      .movFromCr p r c, .movFromDr p r c, .movToCr p c r, .movToDr p c r, .movFromTr p r c, .movToTr p c r, .wrmsr p, .rdtsc p,
      .rdmsr p, .rdpmc p, .hlt p, .arpl p rm r, .movToSeg p c rm, .movFromSeg p rm c, .popEs p, .popSs p, .popDs p, .popFs p,
      .popGs p, .pushEs p, .pushCs p, .pushSs p, .pushDs p, .pushFs p, .pushGs p, .les p r rm, .lds p r rm, .lss p r rm,
      .lfs p r rm, .lgs p r rm, .jmpRel8 p d, .jmpRel p rel, .jmpRm p rm, .jmpFar p far, .jmpFarMem p rm, .callRel p rel,
      .callRm p rm, .callFar p far, .callFarMem p rm, .ret p, .retImm p n, .retFar p, .retFarImm p n, .inAlImm p d,
      .inAxImm p d, .inAlDx p, .inAxDx p, .outImmAl p d, .outImmAx p d, .outDxAl p, .outDxAx p, .cli p, .sti p, .pushf p,
      .popf p, .int3 p, .intImm p d, .into p, .bound p r rm, .iret p, .wait p, .esc p c o rm, .fninit p, .fnclex p,
      .fnstswAx p, .fnstswMem p m, .fnstcw p m, .fnstenv p m, .fnsave p m]
    (∀ i ∈ [Instr.undef0F00r6 p rm, .undef0F00r7 p rm, .undef0F01r5 p rm, .rsm p],
      exec i s = raised s s.begin .ud none ∧ ∀ u, enters s s.begin .ud none u → exec i s = .next u) ∧
    (Prefixes.plain p = true → s.protectedMode = false →
      ∀ i ∈ [Instr.lldt p rm, .sldt p rm, .ltr p rm, .str p rm, .lar p r rm, .lsl p r rm, .verr p rm, .verw p rm,
          .arpl p rm r],
        exec i s = raised s s.begin .ud none) ∧
    (p.has .lock = true → ∀ i ∈ others ++ repeats, exec i s = raised s s.begin .ud none) ∧
    (p.has .lock = false → p.hasRep = true → ∀ i ∈ others, exec i s = .refused .repeatPrefix) ∧
    (Prefixes.plain p = true → s.params.family ≠ .i386 → exec (.invlpg p (.reg r)) s = raised s s.begin .ud none)

/-- A privileged instruction at a level other than 0 takes `#GP(0)` and does nothing (40_system_registers.md R370). -/
def Obligations.PrivilegedTraps : Prop :=
  ∀ (p : Prefixes) (r : Reg) (rm : Rm) (m : MemOp) (s : State), Prefixes.plain p = true → s.cpl ≠ 0 →
    (∀ i ∈ [Instr.clts p, .hlt p, .lmsw p rm, .lgdt p (.mem m), .lidt p (.mem m), .movFromCr p r 0, .movFromCr p r 2,
        .movFromCr p r 3, .movToCr p 0 r, .movToCr p 2 r, .movToCr p 3 r, .movFromDr p r 7, .movToDr p 7 r],
      exec i s = raised s s.begin .gp (some 0)) ∧
    (s.protectedMode = true → ∀ i ∈ [Instr.lldt p rm, .ltr p rm], exec i s = raised s s.begin .gp (some 0)) ∧
    (s.params.family ≠ .i386 → ∀ i ∈ [Instr.invd p, .wbinvd p, .invlpg p (.mem m)],
      exec i s = raised s s.begin .gp (some 0)) ∧
    (s.params.hasCR4 = true → ∀ i ∈ [Instr.movFromCr p r 4, .movToCr p 4 r], exec i s = raised s s.begin .gp (some 0)) ∧
    (s.params.hasTestRegs = true → (s.params.family = .i386 ∨ s.params.family = .i486) →
      ∀ i ∈ [Instr.movFromTr p r 6, .movToTr p 6 r],
      exec i s = raised s s.begin .gp (some 0)) ∧
    (s.params.hasMSR = true → ∀ i ∈ [Instr.rdmsr p, .wrmsr p], exec i s = raised s s.begin .gp (some 0)) ∧
    (s.params.hasTSC = true → s.cr4Tsd = true → exec (.rdtsc p) s = raised s s.begin .gp (some 0)) ∧
    (s.params.hasPMC = true → s.cr4Pce = false → exec (.rdpmc p) s = raised s s.begin .gp (some 0))

/-! ## Taking an exception -/

/-- A fault is delivered with the registers the instruction found: where the handler is entered, the state the delivery starts
from differs from that before the instruction only in CR2, memory, the TLB, the record of device transactions, the time-stamp
counter and the used free values, with no debug condition pending and no boundary held (60_exceptions.md R756). An access through
a segment register that raises an exception, in any state, has written no byte of memory, not even an Accessed or Dirty bit. That
the counter, the record, the TLB and the free values keep what the instruction did is the model's, log entry 30. -/
def Obligations.FaultRestoresState : Prop :=
  (∀ (s0 t u : State) (e : Exc) (code : Option Word32), enters s0 t e code u →
    raised s0 t e code = .next u ∧
    ∃ switched b, deliver e.vector false b.eip code true b = .ok switched u ∧
      b = { s0 with
        cr2 := t.cr2, mem := t.mem, tlb := t.tlb, io := t.io, tsc := t.tsc, free := t.free, inhibitSs := false
        inhibitSti := false
        dbPending := ⟨false, false, false, false, false, false, false⟩ }) ∧
  (∀ (r : SegReg) (off : Word32) (n align v : Nat) (x : Exn) (s w : State),
    memRead r off n align s = .error (.exn x) w ∨ memWrite r off n align v s = .error (.exn x) w → w.mem = s.mem)

/-- The gate an event is delivered through, and the code segment it names. A vector beyond the limit of the IDT, an entry that is no
task, interrupt or trap gate, and, for INT n, INT 3 and INTO, a gate whose DPL is below CPL take `#GP`, a gate that is not present
`#NP`, with the vector in the error code, its IDT bit set, and EXT clear only for those instructions (60_exceptions.md R780, R782,
R800, R804, R821); beyond the limit the machine shuts down where IDT_OVERRUN says so. In protected and virtual-8086 mode, where the
entry is an interrupt or trap gate, what the delivery through it does is what the delivery of the event does. There a selector that
is null or names no code segment, or one of a DPL above CPL, takes `#GP` and one that is not present `#NP`; from virtual-8086 mode a
16-bit gate is refused (R811, D78), and a segment that is conforming or not of DPL 0 takes `#GP`; at the same level the frame of
EFLAGS, CS, EIP and the error code goes on the stack in use. A frame for which there is no room takes `#SS`, an entry point beyond
the limit `#GP` (R800). The stack of an inner level is read from the current TSS, without which it takes `#TS(0)`: the pointer at
offset 4 and the selector at 8, plus 8 times the level, of a 32-bit TSS, at 2 and 4, plus 4 times the level, of a 16-bit one, or,
where these bytes go beyond its limit, `#TS` with the selector in TR (42_control_transfer.md R478). The error code that names a
selector holds its bits 15:2, and EXT in bit 0 (R820). The test for room, each push at its own wrapped offset, is the model's
reading, log entry 34 (DEDUCED). So are its choices the zero upper word of CS pushed as a doubleword, log entry 31 (U23), and the
refusal of a 16-bit gate from virtual-8086 mode, log entry 27 (D78). -/
def Obligations.GateDelivery : Prop :=
  ∀ (vector : Byte) (soft ext rf : Bool) (lvl : BitVec 2) (ret img nesp : Word32) (nss : Word16) (code : Option Word32)
    (items : List Nat) (raw : Nat) (g cd sd : Desc) (er : Err) (s t u v : State),
    let read := readIdtGate vector soft s
    let idt := fun (x : Exc) => Err.exn ⟨x, some (BitVec.ofNat 32 (vector.toNat * 8 + 2 + if soft then 0 else 1)), false⟩
    let named := fun (x : Exc) (sel : Word16) => Err.exn ⟨x, some (selectorErrorCode sel ext), false⟩
    let through := deliverGate g ext ret img code s
    let csel := gateSelector g
    (s.idtr.limit.toNat < vector.toNat * 8 + 7 →
      (s.params.idtOverrun = .gp → read = .error (idt .gp) s) ∧
      (s.params.idtOverrun = .shutdown → read = .error .shutdown s)) ∧
    (vector.toNat * 8 + 7 ≤ s.idtr.limit.toNat →
      ∀ entry, entry = linRead (s.idtr.base + BitVec.ofNat 32 (vector.toNat * 8)) 8 Acc.supRead s →
      (entry = .error er u → read = .error er u) ∧
      (entry = .ok raw u →
        let gate := raw / 2 ^ 40 % 32 ∈ [5, 6, 7, 14, 15]
        let admits := soft = true → s.cpl.toNat ≤ raw / 2 ^ 45 % 4
        (¬gate → read = .error (idt .gp) u) ∧ (gate → ¬admits → read = .error (idt .gp) u) ∧
        (gate → admits → raw.testBit 47 = false → read = .error (idt .np) u) ∧
        (gate → admits → raw.testBit 47 = true → ∃ g, read = .ok g u ∧ (descType g).toNat = raw / 2 ^ 40 % 16 ∧
          (gateSelector g).toNat = raw / 2 ^ 16 % 2 ^ 16 ∧ (isInterruptGate g = true ↔ raw / 2 ^ 40 % 16 ∈ [6, 14]) ∧
          (gateOffset g).toNat = raw % 2 ^ 16 + if raw / 2 ^ 43 % 2 = 1 then raw / 2 ^ 48 % 2 ^ 16 * 2 ^ 16 else 0))) ∧
    (s.pe = true →
      (read = .error er u → deliver vector soft ret code rf s = .error er u) ∧
      (read = .ok g u → descType g ≠ 5 →
        ∀ out, out = deliverGate g (!soft) ret (if rf then setBit s.eflags 16 true else s.eflags) code u →
        (out = .ok () t → deliver vector soft ret code rf s = .ok false t) ∧
        (out = .error er t → deliver vector soft ret code rf s = .error er t))) ∧
    (isNull csel = true → through = .error (named .gp 0) s) ∧
    (isNull csel = false →
      (readDescriptor csel s = .error er u → through = .error er u) ∧
      (readDescriptor csel s = .ok none u → through = .error (named .gp csel) u) ∧
      (readDescriptor csel s = .ok (some cd) u →
        (isCode (descAttr cd) = false ∨ s.cpl.toNat < (descDpl cd).toNat → through = .error (named .gp csel) u) ∧
        (isCode (descAttr cd) = true → (descDpl cd).toNat ≤ s.cpl.toNat →
          (descP cd = false → through = .error (named .np csel) u) ∧
          (descP cd = true → s.vm = true → gate32 g = false → through = .error (.refuse .gate16FromV86) u) ∧
          (descP cd = true → s.vm = true → gate32 g = true → conforming (descAttr cd) = true ∨ descDpl cd ≠ 0 →
            through = .error (named .gp csel) u) ∧
          (descP cd = true → s.vm = false → conforming (descAttr cd) = true ∨ descDpl cd = s.cpl →
            through = deliverSameStack g cd ext
              ([img.toNat, s.cs.sel.toNat, ret.toNat] ++ code.toList.map BitVec.toNat) u)))) ∧
    (∀ room : Prop, (room ↔ ∀ off ∈ pushOffsets s.ss.attr.db s.sp (gateItem g) items.length,
        segOk s.protectedMode s.ss off (gateItem g) true = true) →
      (¬room → deliverSameStack g cd ext items s = .error (named .ss 0) s) ∧
      (room → (descLimit cd).toNat < (gateOffset g).toNat → deliverSameStack g cd ext items s = .error (named .gp 0) s)) ∧
    (∀ n : Word16, (selectorErrorCode n ext).toNat = n.toNat / 4 * 4 + if ext = true then 1 else 0) ∧
    (∀ wide : Prop, (wide ↔ s.tr.attr.type.toNat ∈ [8, 9, 10, 11, 12, 13, 14, 15]) →
      ∀ size place : Nat, (wide → size = 4 ∧ place = 4 + 8 * lvl.toNat) → (¬wide → size = 2 ∧ place = 2 + 4 * lvl.toNat) →
      let fetched := tssStack lvl ext s
      (s.tr.valid = false → fetched = .error (named .ts 0) s) ∧
      (s.tr.valid = true → s.tr.limit.toNat < place + 2 * size - 1 → fetched = .error (named .ts s.tr.sel) s) ∧
      (s.tr.valid = true → place + 2 * size - 1 ≤ s.tr.limit.toNat →
        (linRead (s.tr.base + BitVec.ofNat 32 place) size Acc.supRead s = .error er u → fetched = .error er u) ∧
        (linRead (s.tr.base + BitVec.ofNat 32 place) size Acc.supRead s = .ok raw u →
          (linRead (s.tr.base + BitVec.ofNat 32 (place + size)) 2 Acc.supRead u = .error er v → fetched = .error er v) ∧
          (∀ k, linRead (s.tr.base + BitVec.ofNat 32 (place + size)) 2 Acc.supRead u = .ok k v →
            fetched = .ok (BitVec.ofNat 16 k, BitVec.ofNat 32 raw) v)))) ∧
    (tssStack lvl ext s = .error er u → deliverNewStack g cd lvl ext items s = .error er u) ∧
    (tssStack lvl ext s = .ok (nss, nesp) u →
      (checkSs nss lvl .ts ext u = .error er v → deliverNewStack g cd lvl ext items s = .error er v) ∧
      (checkSs nss lvl .ts ext u = .ok sd v →
        ∀ room : Prop, (room ↔ ∀ off ∈ pushOffsets (descAttr sd).db (spOf (descAttr sd).db nesp) (gateItem g) items.length,
          inLimit (segFrom nss sd) off (gateItem g) = true) →
        (¬room → deliverNewStack g cd lvl ext items s = .error (named .ss nss) v) ∧
        (room → (descLimit cd).toNat < (gateOffset g).toNat →
          deliverNewStack g cd lvl ext items s = .error (named .gp 0) v)))

/-- Through an interrupt or trap gate TF, NT, VM and RF are cleared, an interrupt gate clears IF and a trap gate leaves it, and
every other flag is as it was (60_exceptions.md R806); the handler starts at the gate's entry point, at a level at most that of
the interrupted program (R800, R802). No debug condition comes or goes but the single-step one, which is dropped: the delivery's own
reads and writes meet no data breakpoint (46_debug.md R676). -/
def Obligations.HandlerEntryFlags : Prop :=
  ∀ (g : Desc) (ext : Bool) (ret img : Word32) (code : Option Word32) (s t : State), s.pe = true →
    deliverGate g ext ret img code s = .ok () t →
    t.tf = false ∧ t.nt = false ∧ t.vm = false ∧ t.rf = false ∧
      t.ifl = (s.ifl && !isInterruptGate g) ∧
      (∀ k, k ∈ [0, 1, 2, 4, 6, 7, 10, 11, 12, 13, 18, 19, 20, 21] → bit t.eflags k = bit s.eflags k) ∧
      t.eip = gateOffset g ∧ t.cpl.toNat ≤ s.cpl.toNat ∧ t.dbPending = { s.dbPending with bs := false }

/-- A delivery on the stack in use pushes EFLAGS, CS, EIP and the error code in that order, item by item at the gate's size, and
moves the stack pointer once (42_control_transfer.md R452; 60_exceptions.md R800, R805). Paging is off, memory is everywhere, memory
is in its canonical form (the invariant of `Obligations.StepKeepsInvariant`), and the handler's segment is not marked accessed by
the load. That each push has its own wrapped offset is the model's reading, log entry 34 (DEDUCED). -/
def Obligations.SameStackFrame : Prop :=
  ∀ (g cd : Desc) (ext : Bool) (items : List Nat) (s t : State), s.pg = false → s.params.physMap = [] →
    Memory.wf s.mem = true → marksAccessed s.params cd = false → items.length ≤ 4 → deliverSameStack g cd ext items s = .ok () t →
    t.sp = spAfter s.ss.attr.db (s.reg .esp) (gateItem g) items.length ∧
    (∀ k, k < items.length → ∀ off v, (pushOffsets s.ss.attr.db s.sp (gateItem g) items.length)[k]? = some off →
      items[k]? = some v →
      ofBytes ((linearSpan (s.ss.base + off) (gateItem g)).map t.byteAt) = v % 256 ^ gateItem g) ∧
    (∀ a, (∀ off ∈ pushOffsets s.ss.attr.db s.sp (gateItem g) items.length,
        a ∉ linearSpan (s.ss.base + off) (gateItem g)) → t.byteAt a = s.byteAt a)

/-- A delivery or a call through a gate that changes stacks: what is pushed, in which order, and where. An event delivered to a more
privileged level pushes the old SS, the old ESP, the EFLAGS image, CS, the return EIP and the error code if there is one; from
virtual-8086 mode GS, FS, DS and ES stand before them (60_exceptions.md R800, R805, R811). A call through a gate pushes the old SS,
the old ESP, the parameters, which it copies from the caller's stack in their order there, CS and the return EIP
(42_control_transfer.md R478 to R480). SS and ESP are those of the TSS, moved below the frame, and no byte outside the frame
changes. That the upper word of a selector pushed as a doubleword is 0 is the model's choice, log entry 31 (U23). Paging is off,
memory is everywhere and in its canonical form (the invariant of `Obligations.StepKeepsInvariant`), and neither segment is marked
accessed by the load. That each push has its own wrapped offset is the model's reading, log entry 34 (DEDUCED). -/
def Obligations.StackSwitchFrame : Prop :=
  ∀ (g cd sd : Desc) (csel : Word16) (lvl : BitVec 2) (ext : Bool) (ret img nesp : Word32) (nss : Word16)
    (code : Option Word32) (items params : List Nat) (dn : Done) (s t u v w : State),
    s.pg = false → s.params.physMap = [] → Memory.wf s.mem = true → marksAccessed s.params sd = false →
    (fetchCode (gateSelector g) ext s = .ok cd u → descP cd = true → s.pe = true →
      (s.vm = false → conforming (descAttr cd) = false → (descDpl cd).toNat < s.cpl.toNat →
        deliverGate g ext ret img code s = deliverNewStack g cd (descDpl cd) ext
          ([s.ss.sel.toNat, (s.reg .esp).toNat, img.toNat, s.cs.sel.toNat, ret.toNat] ++ code.toList.map BitVec.toNat) u) ∧
      (s.vm = true → gate32 g = true → conforming (descAttr cd) = false → descDpl cd = 0 →
        deliverNewStack g cd 0 ext
          ([s.gs.sel.toNat, s.fs.sel.toNat, s.ds.sel.toNat, s.es.sel.toNat, s.ss.sel.toNat, (s.reg .esp).toNat, img.toNat,
            s.cs.sel.toNat, ret.toNat] ++ code.toList.map BitVec.toNat) u = .ok () v →
        deliverGate g ext ret img code s = .ok ()
          { v with
            es := { v.es with sel := 0, valid := false }
            ds := { v.ds with sel := 0, valid := false }
            fs := { v.fs with sel := 0, valid := false }
            gs := { v.gs with sel := 0, valid := false } })) ∧
    (items.length ≤ 10 → marksAccessed s.params cd = false →
      tssStack lvl ext s = .ok (nss, nesp) u → checkSs nss lvl .ts ext u = .ok sd v →
      deliverNewStack g cd lvl ext items s = .ok () t →
      t.ss = segFrom nss sd ∧ t.sp = spAfter t.ss.attr.db nesp (gateItem g) items.length ∧
        t.cs = segFrom (withRpl (gateSelector g) lvl) cd ∧ t.eip = gateOffset g ∧
        frameStands t t.ss nesp (gateItem g) items ∧
        sameBytes s t (frameBytes t.ss nesp (gateItem g) items.length)) ∧
    (marksAccessed s.params cd = false →
      tssStack (descDpl cd) false s = .ok (nss, nesp) u → checkSs nss (descDpl cd) .ts false u = .ok sd v →
      readParams (gateItem g) s.sp (gateCount g) s = .ok params w →
      interLevelCall g csel cd ret s = .ok dn t →
      params.length = gateCount g ∧
        (∀ k, k < gateCount g → params[k]? = some (ofBytes
          ((linearSpan (s.ss.base + spOf s.ss.attr.db (s.sp + BitVec.ofNat 32 (gateItem g * k))) (gateItem g)).map s.byteAt))) ∧
        t.ss = segFrom nss sd ∧ t.sp = spAfter t.ss.attr.db nesp (gateItem g) (4 + gateCount g) ∧
        t.cs = segFrom (withRpl csel (descDpl cd)) cd ∧ t.eip = gateOffset g ∧
        frameStands t t.ss nesp (gateItem g)
          ([s.ss.sel.toNat, (s.reg .esp).toNat] ++ params.reverse ++ [s.cs.sel.toNat, ret.toNat]) ∧
        sameBytes s t (frameBytes t.ss nesp (gateItem g) (4 + gateCount g)))

/-- Delivery in real-address mode pushes FLAGS, CS and IP as words, clears IF and TF, and loads CS and EIP from the table of
four-byte vectors at the base of IDTR; no error code is pushed (61_exceptions_by_vector.md R870). The model's own: that the frame of
INT with an operand-size prefix has three words too, as R870 says, where R361 counts real-mode INT frames among the widths that go
by operand size (log entry 45, DEDUCED). A vector beyond the limit of the table is delivered as vector 8, and where vector 8 is
beyond it too the machine shuts down (R870, D79); a stack without room for the three words takes `#SS(0)`, delivered in its turn.
Paging is off, memory is everywhere and in its canonical form (the invariant of `Obligations.StepKeepsInvariant`). The test for
room, each push at its own wrapped offset, is the model's reading, log entry 34 (DEDUCED). -/
def Obligations.RealModeDelivery : Prop :=
  ∀ (vector : Byte) (soft : Bool) (ret : Word32) (code : Option Word32) (rf : Bool) (s : State), s.pe = false →
    (s.idtr.limit.toNat < vector.toNat * 4 + 3 →
      (s.idtr.limit.toNat < 35 → deliver vector soft ret code rf s = .error .shutdown s) ∧
      (35 ≤ s.idtr.limit.toNat → deliver vector soft ret code rf s = deliver 8 soft ret code rf s)) ∧
    (s.pg = false → s.params.physMap = [] → Memory.wf s.mem = true → vector.toNat * 4 + 3 ≤ s.idtr.limit.toNat →
      ∀ room : Prop, (room ↔ ∀ o ∈ pushOffsets s.ss.attr.db s.sp 2 3, inLimit s.ss o 2 = true) →
      (¬room → deliver vector soft ret code rf s = .error (.exn ⟨.ss, some 0, false⟩) s) ∧
      (room → ∃ t, deliver vector soft ret code rf s = .ok false t ∧
        t.sp = spAfter s.ss.attr.db (s.reg .esp) 2 3 ∧ t.eflags = s.eflags &&& 0xFFFFFCFF ∧
        t.eip.toNat = ofBytes ((linearSpan (s.idtr.base + BitVec.ofNat 32 (vector.toNat * 4)) 2).map s.byteAt) ∧
        t.cs.sel.toNat = ofBytes ((linearSpan (s.idtr.base + BitVec.ofNat 32 (vector.toNat * 4 + 2)) 2).map s.byteAt) ∧
        t.cs.base = t.cs.sel.setWidth 32 <<< 4 ∧
        (∀ k, k < 3 → ∀ off v, (pushOffsets s.ss.attr.db s.sp 2 3)[k]? = some off →
          [s.eflags.toNat, s.cs.sel.toNat, ret.toNat][k]? = some v →
          ofBytes ((linearSpan (s.ss.base + off) 2).map t.byteAt) = v % 65536) ∧
        (∀ a, (∀ off ∈ pushOffsets s.ss.attr.db s.sp 2 3, a ∉ linearSpan (s.ss.base + off) 2) → t.byteAt a = s.byteAt a)))

/-- Which pairs make a double fault: two contributory exceptions, or a page fault followed by a page fault or a contributory
exception; any other second exception is delivered on its own (61_exceptions_by_vector.md R841). An exception while the double
fault is delivered shuts the machine down (R851). -/
def Obligations.DoubleFaultAndShutdown : Prop :=
  ∀ (n : Nat) (first e : Exc) (code : Option Word32) (ev : M Bool) (s t : State),
    ev s = .error (.exn ⟨e, code, false⟩) t → first ≠ .df →
    let contributory := [Exc.de, .ts, .np, .ss, .gp]
    ((first ∈ contributory ∧ e ∈ contributory ∨ first = .pf ∧ (e ∈ contributory ∨ e = .pf)) →
      settle (n + 1) first.cls ev s =
        settle n .doubleFault (deliver 8 false s.eip (some 0) true) (rollback s t false)) ∧
    (¬(first ∈ contributory ∧ e ∈ contributory ∨ first = .pf ∧ (e ∈ contributory ∨ e = .pf)) →
      settle (n + 1) first.cls ev s = settle n e.cls (deliver e.vector false s.eip code true) (rollback s t false)) ∧
    (∃ u, settle (n + 1) .doubleFault ev s = .next u ∧ u.run = .shutdown)

/-- What switches tasks (43_tasks.md R550, R553, R560): a far JMP or CALL to a TSS descriptor in the GDT or to a task gate whose DPL
is at least CPL and the RPL of its selector, else `#GP` with it, `#NP` for a gate that is not present; an event whose IDT entry is a
task gate; IRET in protected mode with NT set, to the task the back link names, NMI unblocked. A task switch that completes leaves
TR on the new task's TSS, CR0.TS set, NT set for CALL and interrupts and clear for JMP, and the local breakpoint enables of DR7
clear (R540, R545, R552; 46_debug.md R672). What it is refused for, in this order: a selector that is null, of an LDT, outside the
GDT or of no TSS, `#GP` with it, for IRET `#TS`; a TSS that is not present, `#NP`; one that is busy, `#GP`, but for IRET one that is
not, `#TS`; one whose limit is below 67H, or 2BH for a 16-bit one, `#TS` (R542); no current task, `#TS(0)`; a current TSS whose
limit is below 5DH, or 29H, `#TS` with its selector; for JMP and IRET a current TSS outside the GDT, `#GP` with it; what the check
of the places to be read and written raises, and a page-directory-pointer table that CR3 may not load, `#GP(0)` (R545; 22_paging.md
R313). Then the new task's LDTR, CS, SS, ES, DS, FS and GS are checked and loaded in this order, or all six in virtual-8086 mode
without a check (R547, R564); the order is decision D60. The kind `again` is the loop of 46_debug.md R688, log entry 43. The
accessed and AVL bits of segments in virtual-8086 mode are the model's choice, log entry 42 (DESIGN CHOICE), and their limit and DPL
follow R462 and R564 where 10_state.md R57 says otherwise, log entry 49 (DEDUCED). -/
def Obligations.TaskSwitchResult : Prop :=
  ∀ (kind : SwitchKind) (call soft wide ext rf : Bool) (p : Prefixes) (vector : Byte) (sel : Word16) (off ret : Word32)
    (code : Option Word32) (link : Nat) (d : Desc) (e : Err) (lvl : BitVec 2) (r : SegReg) (a : List Nat) (s t u v w : State),
    (s.protectedMode = true → isNull sel = false → needDescriptor sel .gp false s = .ok d u → descS d = false →
      let raises := fun (x : Exc) =>
        farTransfer call p sel off ret s = .error (.exn ⟨x, some (selectorErrorCode sel false), false⟩) u
      let gate := descType d = 5
      gate ∨ (descType d).toNat ∈ [1, 3, 9, 11] →
        (¬gate → selTi sel = true → raises .gp) ∧
        ((descDpl d).toNat < s.cpl.toNat ∨ (descDpl d).toNat < (rpl sel).toNat → raises .gp) ∧
        (s.cpl.toNat ≤ (descDpl d).toNat → (rpl sel).toNat ≤ (descDpl d).toNat →
          (gate → descP d = false → raises .np) ∧
          ((gate → descP d = true) → (¬gate → selTi sel = false) →
            ∀ tsel, tsel = (if gate then gateSelector d else sel) → kind = (if call then .call else .jmp) →
            (taskSwitch kind tsel ret false false none u = .ok () t → farTransfer call p sel off ret s = .ok .keepRf t) ∧
            (taskSwitch kind tsel ret false false none u = .error e t → farTransfer call p sel off ret s = .error e t)))) ∧
    (s.pe = true → readIdtGate vector soft s = .ok d u → descType d = 5 →
      (taskSwitch .int (gateSelector d) ret (!soft) rf code u = .ok () t → deliver vector soft ret code rf s = .ok true t) ∧
      (taskSwitch .int (gateSelector d) ret (!soft) rf code u = .error e t →
        deliver vector soft ret code rf s = .error e t)) ∧
    (s.protectedMode = true → s.nt = true →
      (s.tr.valid = false → exceptionReturn wide ret s = .error (.exn ⟨.ts, some 0, false⟩) s) ∧
      (s.tr.valid = true → s.tr.limit.toNat < 1 →
        exceptionReturn wide ret s = .error (.exn ⟨.ts, some (selectorErrorCode s.tr.sel false), false⟩) s) ∧
      (s.tr.valid = true → 1 ≤ s.tr.limit.toNat → linRead s.tr.base 2 Acc.supRead s = .ok link u →
        (taskSwitch .iret (BitVec.ofNat 16 link) ret false false none u = .ok () v →
          exceptionReturn wide ret s = .ok .keepRf { v with nmiBlocked := false }) ∧
        (taskSwitch .iret (BitVec.ofNat 16 link) ret false false none u = .error e v →
          exceptionReturn wide ret s = .error e v))) ∧
    (taskSwitch kind sel ret ext rf code s = .ok () t →
      t.tr.sel = sel ∧ t.tr.valid = true ∧ t.tr.attr.type.getLsbD 1 = true ∧ t.tr.attr.db = false ∧ t.ts = true ∧
        (kind.nest = true → t.nt = true) ∧ (kind = .jmp → t.nt = false) ∧
        t.dr7 = s.dr7 &&& 0xFFFFFEAA ∧ t.dr6 = s.dr6 ∧ t.gdtr = s.gdtr ∧ t.idtr = s.idtr ∧ t.fpu = s.fpu) ∧
    (let fetched := fetchTss sel kind ext s
      let bad : Exc := if kind = .iret then .ts else .gp
      let refuses := fun (x : Exc) (from_ : State) => fetched = .error (.exn ⟨x, some (selectorErrorCode sel ext), false⟩) from_
      let fresh := kind ∈ [SwitchKind.jmp, .call, .int]
      (isNull sel = true ∨ selTi sel = true ∨ s.gdtr.limit.toNat < selIndex sel * 8 + 7 → refuses bad s) ∧
      (isNull sel = false → selTi sel = false →
        (readDescriptor sel s = .error e u → fetched = .error e u) ∧
        (readDescriptor sel s = .ok (some d) u →
          let type := (descType d).toNat
          let tss := descS d = false ∧ type ∈ [1, 3, 9, 11]
          let least := if type ∈ [9, 11] then 0x67 else 0x2B
          (¬tss → refuses bad u) ∧ (tss → descP d = false → refuses .np u) ∧
          (tss → descP d = true →
            (fresh → type ∈ [3, 11] → refuses .gp u) ∧ (kind = .iret → type ∈ [1, 9] → refuses .ts u) ∧
            ((fresh → type ∈ [1, 9]) → (kind = .iret → type ∈ [3, 11]) →
              ((descLimit d).toNat < least → refuses .ts u) ∧ (least ≤ (descLimit d).toNat → fetched = .ok d u)))))) ∧
    (let switched := taskSwitch kind sel ret ext rf code s
      let raises := fun (x : Exc) (n : Word16) (from_ : State) =>
        switched = .error (.exn ⟨x, some (selectorErrorCode n ext), false⟩) from_
      let least := if s.tr.attr.type.toNat ∈ [8, 9, 10, 11, 12, 13, 14, 15] then 0x5D else 0x29
      let inside := kind = .jmp ∨ kind = .iret → selIndex s.tr.sel * 8 + 7 ≤ s.gdtr.limit.toNat
      (fetchTss sel kind ext s = .error e u → switched = .error e u) ∧
      (fetchTss sel kind ext s = .ok d u →
        (s.tr.valid = false → raises .ts 0 u) ∧
        (s.tr.valid = true → s.tr.limit.toNat < least → raises .ts s.tr.sel u) ∧
        (s.tr.valid = true → least ≤ s.tr.limit.toNat → ¬inside → raises .gp s.tr.sel u) ∧
        (s.tr.valid = true → least ≤ s.tr.limit.toNat → inside →
          (resolvePlan kind sel d u = .error e v → switched = .error e v) ∧
          (∀ plan, resolvePlan kind sel d u = .ok plan v → gate32 d = true → s.pg = true → s.cr4Pae = true →
            (pdptOk plan.cr3new v = .error e w → switched = .error e w) ∧
            (pdptOk plan.cr3new v = .ok false w → raises .gp 0 w))))) ∧
    (let from_ := fun (x : Exc) (n : Word16) => Err.exn ⟨x, some (selectorErrorCode n ext), false⟩
      let held := fun (n : Word16) => (⟨n, descBase d, descLimit d, withAccessed (descAttr d), true⟩ : SegState)
      let seg86 := fun (n : Word16) => (⟨n, n.setWidth 32 <<< 4, 0xFFFF, attrV86 false, true⟩ : SegState)
      let marked := fun (n : Word16) => probeAccessed n d u = .ok a v ∧ commitAccessed a v = .ok () w
      (loadTaskLdt ext s = .error e u → loadTaskSegments ext s = .error e u) ∧
      (loadTaskLdt ext s = .ok () u →
        (s.vm = true → loadTaskSegments ext s = .ok () { u with
          es := seg86 s.es.sel, cs := seg86 s.cs.sel, ss := seg86 s.ss.sel
          ds := seg86 s.ds.sel, fs := seg86 s.fs.sel, gs := seg86 s.gs.sel }) ∧
        (s.vm = false → lvl = rpl s.cs.sel → loadTaskSegments ext s = (do
          loadTaskCs lvl ext
          loadTaskSs lvl ext
          loadTaskData lvl ext .es
          loadTaskData lvl ext .ds
          loadTaskData lvl ext .fs
          loadTaskData lvl ext .gs : M Unit) u)) ∧
      (∀ n, n = s.ldtr.sel →
        (isNull n = true → loadTaskLdt ext s = .ok () s) ∧
        (isNull n = false → selTi n = true ∨ s.gdtr.limit.toNat < selIndex n * 8 + 7 →
          loadTaskLdt ext s = .error (from_ .ts n) s) ∧
        (isNull n = false → selTi n = false →
          (readDescriptor n s = .error e u → loadTaskLdt ext s = .error e u) ∧
          (readDescriptor n s = .ok (some d) u →
            (descS d = true ∨ descType d ≠ 2 ∨ descP d = false → loadTaskLdt ext s = .error (from_ .ts n) u) ∧
            (descS d = false → descType d = 2 → descP d = true →
              loadTaskLdt ext s = .ok () { u with ldtr := ⟨n, descBase d, descLimit d, descAttr d, true⟩ })))) ∧
      (∀ n, n = s.cs.sel →
        (isNull n = true → loadTaskCs lvl ext s = .error (from_ .ts n) s) ∧
        (isNull n = false →
          (readDescriptor n s = .error e u → loadTaskCs lvl ext s = .error e u) ∧
          (readDescriptor n s = .ok none u → loadTaskCs lvl ext s = .error (from_ .ts n) u) ∧
          (readDescriptor n s = .ok (some d) u →
            ∀ suits : Prop, (suits ↔ isCode (descAttr d) = true ∧
                if conforming (descAttr d) then (descDpl d).toNat ≤ lvl.toNat else descDpl d = lvl) →
              (¬suits → loadTaskCs lvl ext s = .error (from_ .ts n) u) ∧
              (suits → descP d = false → loadTaskCs lvl ext s = .error (from_ .np n) u) ∧
              (suits → descP d = true → marked n → loadTaskCs lvl ext s = .ok () { w with cs := held n })))) ∧
      (checkSs s.ss.sel lvl .ts ext s = .error e u → loadTaskSs lvl ext s = .error e u) ∧
      (checkSs s.ss.sel lvl .ts ext s = .ok d u → marked s.ss.sel →
        loadTaskSs lvl ext s = .ok () { w with ss := held s.ss.sel }) ∧
      (r ∈ [SegReg.es, .ds, .fs, .gs] → ∀ n, n = (s.seg r).sel →
        (isNull n = true → loadTaskData lvl ext r s = .ok () s) ∧
        (isNull n = false →
          (readDescriptor n s = .error e u → loadTaskData lvl ext r s = .error e u) ∧
          (readDescriptor n s = .ok none u → loadTaskData lvl ext r s = .error (from_ .ts n) u) ∧
          (readDescriptor n s = .ok (some d) u →
            ∀ admits : Prop, (admits ↔ conforming (descAttr d) = true ∨
                lvl.toNat ≤ (descDpl d).toNat ∧ (rpl n).toNat ≤ (descDpl d).toNat) →
              (readable (descAttr d) = false → loadTaskData lvl ext r s = .error (from_ .ts n) u) ∧
              (readable (descAttr d) = true → ¬admits → loadTaskData lvl ext r s = .error (from_ .gp n) u) ∧
              (readable (descAttr d) = true → admits → descP d = false →
                loadTaskData lvl ext r s = .error (from_ .np n) u) ∧
              (readable (descAttr d) = true → admits → descP d = true → marked n →
                loadTaskData lvl ext r s = .ok () (w.setSeg r (held n)))))))

/-- What a task switch saves and loads (43_tasks.md R543, R545, R547, R548, R549, R552, R553, R564), with paging off and memory
everywhere and in its canonical form (the invariant of `Obligations.StepKeepsInvariant`). Into the old TSS, at the offsets of its
format: the return EIP, EFLAGS (NT clear for IRET, RF set for a fault), the general registers, the six selectors; then the busy bit
of the old descriptor is cleared for JMP and IRET; the new TSS is read; its back link is the old TR selector for a nested task, and
the busy bit of its descriptor is set but for IRET. EIP, EFLAGS with NT as the kind of switch has it, the general registers (of
which a 16-bit TSS gives the low halves; the upper are free, log entry 10, U27), the selectors, LDTR and, from a 32-bit TSS, CR3 are
those read. LDTR is valid unless its selector is null; outside virtual-8086 mode CS and SS are valid, SS at the level of CS, a null
data segment register is not, and in virtual-8086 mode each segment is based at its selector times 16; EIP is within the limit of
CS. An error code is pushed on the new stack. No other byte changes but for the Accessed bits of the descriptors loaded. Where the
implementation does not keep reserved bits, a switch that completes has read images of EFLAGS and, where it loads it, CR3 whose
reserved bits are as they read, and one that reads others is refused (00_scope.md R8, U1; a parameter of the model's own, log entry
22). When a switch completes: the new TSS suits, there is a current one within its limit and, for JMP and IRET, within the GDT
(`Obligations.TaskSwitchResult`, what is refused otherwise), the new task's segments load, its EIP is within the limit of CS and its
stack has room for the error code. An exception of these three is one of the new task (R544): the loads' own, `#GP(0)`, `#SS(0)`.
The kind `again` is the loop of 46_debug.md R688, log entry 43. The accessed and AVL bits of segments in virtual-8086 mode are the
model's choice, log entry 42 (DESIGN CHOICE), and their limit and DPL follow R462 and R564 where 10_state.md R57 says otherwise, log
entry 49 (DEDUCED). -/
def Obligations.TaskSwitchImages : Prop :=
  ∀ (kind : SwitchKind) (sel : Word16) (ret : Word32) (ext rf : Bool) (code : Option Word32) (nd : Desc) (s t u y : State)
    (x : Exn), s.pg = false → s.params.physMap = [] → Memory.wf s.mem = true → fetchTss sel kind ext s = .ok nd u →
    let switched := taskSwitch kind sel ret ext rf code s
    let leaves := kind = .jmp ∨ kind = .iret
    let wide := gate32 nd
    let img := if kind = .iret then setBit s.eflags 14 false else if rf then setBit s.eflags 16 true else s.eflags
    let m1 := storedAt s.mem s.tr.base (if s.tss32 then
      [(0x20, 4, ret.toNat), (0x24, 4, img.toNat), (0x28, 4, (s.reg .eax).toNat), (0x2C, 4, (s.reg .ecx).toNat),
        (0x30, 4, (s.reg .edx).toNat), (0x34, 4, (s.reg .ebx).toNat), (0x38, 4, (s.reg .esp).toNat),
        (0x3C, 4, (s.reg .ebp).toNat), (0x40, 4, (s.reg .esi).toNat), (0x44, 4, (s.reg .edi).toNat),
        (0x48, 2, s.es.sel.toNat), (0x4C, 2, s.cs.sel.toNat), (0x50, 2, s.ss.sel.toNat), (0x54, 2, s.ds.sel.toNat),
        (0x58, 2, s.fs.sel.toNat), (0x5C, 2, s.gs.sel.toNat)]
      else
      [(0x0E, 2, ret.toNat), (0x10, 2, img.toNat), (0x12, 2, (s.reg .eax).toNat), (0x14, 2, (s.reg .ecx).toNat),
        (0x16, 2, (s.reg .edx).toNat), (0x18, 2, (s.reg .ebx).toNat), (0x1A, 2, (s.reg .esp).toNat),
        (0x1C, 2, (s.reg .ebp).toNat), (0x1E, 2, (s.reg .esi).toNat), (0x20, 2, (s.reg .edi).toNat),
        (0x22, 2, s.es.sel.toNat), (0x24, 2, s.cs.sel.toNat), (0x26, 2, s.ss.sel.toNat), (0x28, 2, s.ds.sel.toNat)])
    let oldByte := 8 * selIndex s.tr.sel + 5
    let newByte := 8 * selIndex sel + 5
    let m2 := if leaves then storedAt m1 s.gdtr.base [(oldByte, 1, valueAt m1 s.gdtr.base oldByte 1 &&& 0xFD)] else m1
    let m3 := if kind.nest then storedAt m2 (descBase nd) [(0, 2, s.tr.sel.toNat)] else m2
    let m4 := if kind = .iret then m3 else storedAt m3 s.gdtr.base [(newByte, 1, valueAt m3 s.gdtr.base newByte 1 ||| 2)]
    let got := fun (off32 n off16 : Nat) =>
      if wide then valueAt m2 (descBase nd) off32 n else valueAt m2 (descBase nd) off16 2
    let flags := fixEflags s.params (BitVec.ofNat 32 (got 0x24 4 0x10))
    let loads := wide = true ∧ s.params.taskCr3IfPg = false
    let admitted := admitsImage s.params wide (BitVec.ofNat 32 (got 0x24 4 0x10)) ∧
      (loads → admitsCr3 s (BitVec.ofNat 32 (valueAt s.mem (descBase nd) 0x1C 4)))
    let holds := fun (t : State) (x : Reg × Nat × Nat) =>
      if wide then t.reg x.1 = BitVec.ofNat 32 (got x.2.1 4 x.2.2) else lo16 (t.reg x.1) = BitVec.ofNat 16 (got x.2.1 4 x.2.2)
    let given := fun (t : State) =>
      t.eip = BitVec.ofNat 32 (got 0x20 4 0x0E) ∧
      t.eflags = (if kind.nest then setBit flags 14 true else if kind = .jmp then setBit flags 14 false else flags) ∧
      (∀ x ∈ [(Reg.eax, 0x28, 0x12), (.ecx, 0x2C, 0x14), (.edx, 0x30, 0x16), (.ebx, 0x34, 0x18), (.ebp, 0x3C, 0x1C),
        (.esi, 0x40, 0x1E), (.edi, 0x44, 0x20)], holds t x) ∧
      (∀ x ∈ [(t.es, 0x48, 0x22), (t.cs, 0x4C, 0x24), (t.ss, 0x50, 0x26), (t.ds, 0x54, 0x28), (t.ldtr, 0x60, 0x2A)],
        x.1.sel = BitVec.ofNat 16 (got x.2.1 2 x.2.2)) ∧
      t.fs.sel = (if wide then BitVec.ofNat 16 (got 0x58 2 0) else 0) ∧
      t.gs.sel = (if wide then BitVec.ofNat 16 (got 0x5C 2 0) else 0) ∧
      t.cr3 = (if loads then cr3Value s.cr4Pae (BitVec.ofNat 32 (valueAt s.mem (descBase nd) 0x1C 4)) else s.cr3)
    (switched = .ok () t →
      let pushed := code.toList.flatMap (fun _ => linearSpan (t.ss.base + t.sp) (if wide then 4 else 2))
      admitted ∧ given t ∧ (code = none → holds t (.esp, 0x38, 0x1A)) ∧ t.ldtr.valid = !isNull t.ldtr.sel ∧
      (∀ e, e ∈ t.tlb ↔ e ∈ s.tlb ∧ (loads → e.global = true ∧ s.cr4Pge = true)) ∧
      t.dbPending.bt = (s.dbPending.bt || (wide && decide (got 0x64 2 0 % 2 = 1))) ∧
      (t.vm = true → ∀ g ∈ [t.es, t.cs, t.ss, t.ds, t.fs, t.gs], g = ⟨g.sel, g.sel.setWidth 32 <<< 4, 0xFFFF, attrV86 false, true⟩) ∧
      (t.vm = false → t.cs.valid = true ∧ isCode t.cs.attr = true ∧ t.ss.valid = true ∧ writable t.ss.attr = true ∧
        rpl t.ss.sel = rpl t.cs.sel ∧ t.ss.attr.dpl = rpl t.cs.sel ∧
        ∀ g ∈ [t.es, t.ds, t.fs, t.gs], g.valid = !isNull g.sel) ∧
      t.eip.toNat ≤ t.cs.limit.toNat ∧
      (∀ c, code = some c → (wide = true ∨ t.ss.attr.db = false) →
        t.sp = spAfter t.ss.attr.db (BitVec.ofNat 32 (got 0x38 4 0x1A)) (if wide then 4 else 2) 1) ∧
      (∀ c, code = some c → ofBytes (pushed.map t.byteAt) = c.toNat % (if wide then 2 ^ 32 else 2 ^ 16)) ∧
      ∀ a, a ∉ pushed → t.byteAt a = cellByte m4 a ∨ t.byteAt a = cellByte m4 a ||| 1 ∧
        ∃ g ∈ [t.cs, t.ss, t.es, t.ds, t.fs, t.gs], a = (t.descAddr g.sel 5).toNat) ∧
    (s.tr.valid = true → (if s.tss32 then 0x5D else 0x29) ≤ s.tr.limit.toNat →
      (leaves → selIndex s.tr.sel * 8 + 7 ≤ s.gdtr.limit.toNat) →
      (¬admitted → ∃ z, switched = .error (.refuse .reservedBits) z) ∧
      (admitted → ∃ w, given w ∧ holds w (.esp, 0x38, 0x1A) ∧ w.mem = m4 ∧ w.ts = true ∧
        w.tr = ⟨sel, descBase nd, descLimit nd, { descAttr nd with type := descType nd ||| 2, db := false }, true⟩ ∧
        w.gdtr = s.gdtr ∧ w.cr0 = s.cr0 ||| 8 ∧ w.params = s.params ∧
        (∀ g ∈ [w.es, w.cs, w.ss, w.ds, w.fs, w.gs, w.ldtr], g.valid = false) ∧
        (loadTaskSegments ext w = .error (.exn x) y → switched = .error (.exn { x with committed := true }) y) ∧
        (loadTaskSegments ext w = .ok () y →
          (y.cs.limit.toNat < w.eip.toNat →
            switched = .error (.exn ⟨.gp, some (selectorErrorCode 0 ext), true⟩) y) ∧
          (w.eip.toNat ≤ y.cs.limit.toNat →
            (code = none → ∃ t, switched = .ok () t ∧ t = { y with dbPending := t.dbPending }) ∧
            (∀ c b, code = some c → b = (if wide then 4 else 2) →
              ∀ room : Prop, (room ↔ segOk y.protectedMode y.ss (spAfter y.ss.attr.db (y.reg .esp) b 1) b true = true) →
              (¬room → switched = .error (.exn ⟨.ss, some (selectorErrorCode 0 ext), true⟩) y) ∧
              (room → ∃ t, switched = .ok () t))))))

/-! ## Memory -/

/-- An access of one to four bytes through a segment register with paging off (20_memory.md R120, R126, R127, R131;
21_segmentation.md R230 to R235, R237, R238). In protected mode the register must be valid and hold, for a write, a data segment
that can be written, for a read, a data segment or a code segment that can be read; in every mode the bytes must lie at offsets up
to the limit or, in an expand-down segment, above it and up to FFFFFFFFH or FFFFH, as its B bit is, without wrapping around. A
violation takes `#SS(0)` through SS and `#GP(0)` through another register, a misaligned access takes `#AC(0)` where the check is
enabled, by HAS_AC with CR0.AM and EFLAGS.AC set at level 3 (R131), which is the RPL of CS in protected mode, 3 in virtual-8086 mode
and 0 in real-address mode (21_segmentation.md R214), and otherwise the bytes from base plus offset up, modulo 2^32, the lowest
first, are read or written and no other byte changes. The segment of a memory operand is the one that the last segment-override
prefix names, and without one SS where the base register is BP, EBP or ESP and else DS (30_encoding.md R337, R350); its offset is
`Obligations.EffectiveAddresses`. Memory is in its canonical form (the invariant of `Obligations.StepKeepsInvariant`). -/
def Obligations.MemoryAccessUnpaged : Prop :=
  ∀ (r : SegReg) (off : Word32) (n align v : Nat) (s : State), s.pg = false → 0 < n → n ≤ 4 →
    s.params.physMap = [] → Memory.wf s.mem = true →
    let la := (s.seg r).base + off
    (s.acEnabled = true ↔ s.params.hasAC = true ∧ bit s.cr0 18 = true ∧ bit s.eflags 18 = true ∧ s.cpl = 3) ∧
    s.cpl = (if bit s.cr0 0 = false then 0 else if bit s.eflags 17 = true then 3 else s.cs.sel.setWidth 2) ∧
    (∀ (p before after : Prefixes) (m : MemOp),
      let overrides := [(Prefix.es, SegReg.es), (.cs, .cs), (.ss, .ss), (.ds, .ds), (.fs, .fs), (.gs, .gs)]
      let onStack := ∃ d d' scale index, m ∈ [MemOp.based16 .bp d, .based16 .bpsi d, .based16 .bpdi d, .based32 .ebp d',
        .sib scale index .ebp d', .sib scale index .esp d']
      ((∀ o ∈ overrides, o.1 ∉ p) → (onStack → operandSeg p m = .ss) ∧ (¬onStack → operandSeg p m = .ds)) ∧
      (∀ o ∈ overrides, p = before ++ o.1 :: after → (∀ x ∈ overrides, x.1 ∉ after) → operandSeg p m = o.2)) ∧
    (∀ (pm : Bool) (g : SegState) (write : Bool),
      let type := g.attr.type.toNat
      let last := off.toNat + n - 1
      (inLimit g off n = true ↔ if g.attr.s = true ∧ type ∈ [4, 5, 6, 7]
        then g.limit.toNat < off.toNat ∧ last ≤ (if g.attr.db then 0xFFFFFFFF else 0xFFFF) else last ≤ g.limit.toNat) ∧
      (segOk pm g off n write = true ↔ inLimit g off n = true ∧ (pm = true → g.valid = true ∧ g.attr.s = true ∧
        type ∈ if write then [2, 3, 6, 7] else [0, 1, 2, 3, 4, 5, 6, 7, 10, 11, 14, 15]))) ∧
    (∀ write, segOk s.protectedMode (s.seg r) off n write = false →
      (if write then (memWrite r off n align v s = .error (.exn ⟨if r = .ss then .ss else .gp, some 0, false⟩) s)
        else (memRead r off n align s = .error (.exn ⟨if r = .ss then .ss else .gp, some 0, false⟩) s))) ∧
    (segOk s.protectedMode (s.seg r) off n false = true →
      (s.acEnabled = true → la.toNat % align ≠ 0 → memRead r off n align s = .error (.exn ⟨.ac, some 0, false⟩) s) ∧
      ((s.acEnabled = true → la.toNat % align = 0) →
        memRead r off n align s = .ok (ofBytes ((linearSpan la n).map s.byteAt)) (s.dataBp la n false))) ∧
    (segOk s.protectedMode (s.seg r) off n true = true →
      (s.acEnabled = true → la.toNat % align ≠ 0 → memWrite r off n align v s = .error (.exn ⟨.ac, some 0, false⟩) s) ∧
      ((s.acEnabled = true → la.toNat % align = 0) →
        ∃ t, memWrite r off n align v s = .ok () t ∧ t = { s.dataBp la n true with mem := t.mem } ∧
          sameBytes s t (linearSpan la n) ∧ ofBytes ((linearSpan la n).map t.byteAt) = v % 256 ^ n))

/-- The offset of a memory operand, from its ModR/M byte and what follows it. With 32-bit addressing the sum of a base register, an
index register scaled, but for index 100B, and a displacement, modulo 2^32: rm = 100B takes a SIB byte first, and rm = 101B, or base
= 101B, with mod = 00B has no base and four bytes of displacement (30_encoding.md R346). With 16-bit addressing the sum of the
registers of rm and a displacement, modulo 2^16: rm = 110B with mod = 00B has two bytes of displacement alone (R347). Else mod says
how long the displacement is: none, one byte, sign-extended, or four bytes or two. -/
def Obligations.EffectiveAddresses : Prop :=
  ∀ (md : BitVec 2) (reg rm : BitVec 3) (b0 b1 b2 b3 b4 : Byte) (rest : List Byte) (s : State), md ≠ 3 →
    let general := fun (n : BitVec 3) => s.reg ([Reg.eax, .ecx, .edx, .ebx, .esp, .ebp, .esi, .edi].getD n.toNat .eax)
    let low := fun (r : Reg) => (s.reg r).toNat % 2 ^ 16
    let bytes := b0 :: b1 :: b2 :: b3 :: b4 :: rest
    let operand := fun (wide : Bool) => readRm wide (md ++ reg ++ rm) bytes
    (∀ bare : Bool, (bare = true ↔ md = 0 ∧ rm = 5) → rm ≠ 4 →
      ∃ m, s.ea m = (if bare then 0 else general rm) +
          (if md = 1 then b0.signExtend 32 else if md = 2 ∨ bare then b3 ++ b2 ++ b1 ++ b0 else 0) ∧
        operand true = some (.mem m, bytes.drop (if md = 1 then 1 else if md = 2 ∨ bare then 4 else 0))) ∧
    (∀ (scale : BitVec 2) (index base : BitVec 3), b0 = scale ++ index ++ base → rm = 4 →
      ∀ bare : Bool, (bare = true ↔ md = 0 ∧ base = 5) →
      ∃ m, s.ea m = (if bare then 0 else general base) + (if index = 4 then 0 else general index * BitVec.ofNat 32 (2 ^ scale.toNat)) +
          (if md = 1 then b1.signExtend 32 else if md = 2 ∨ bare then b4 ++ b3 ++ b2 ++ b1 else 0) ∧
        operand true = some (.mem m, bytes.drop (if md = 1 then 2 else if md = 2 ∨ bare then 5 else 1))) ∧
    (∀ bare : Bool, (bare = true ↔ md = 0 ∧ rm = 6) →
      ∃ m, (s.ea m).toNat = ((if bare then 0 else
            [low .ebx + low .esi, low .ebx + low .edi, low .ebp + low .esi, low .ebp + low .edi, low .esi, low .edi, low .ebp,
              low .ebx].getD rm.toNat 0) +
          (if md = 1 then b0.signExtend 16 else if md = 2 ∨ bare then b1 ++ b0 else 0 : BitVec 16).toNat) % 2 ^ 16 ∧
        operand false = some (.mem m, bytes.drop (if md = 1 then 1 else if md = 2 ∨ bare then 2 else 0)))

/-- What the debug registers catch. An access of `n` bytes at a linear address, by which a read or write through a segment register
ends (`Obligations.MemoryAccessUnpaged`), sets the pending condition of each breakpoint for data of its kind (R/W 01 for writes, 11
for both) whose range, aligned for its length of one, two or four bytes, it touches, and, where one of these is enabled, the pending
report, and nothing else (46_debug.md R670, R673, R676). An instruction breakpoint matches where R/W and LEN are 00 and its register
holds the linear address of the next instruction; one that is enabled fires unless RF is set (R676, R677). That a breakpoint whose
LEN is 10, or whose R/W is 10, or is 00 with a LEN other than 00, never matches is the choice of U6 and the model's, log entry 6;
that LE and GE do not matter on an i386 either is the model's, log entry 41. -/
def Obligations.Breakpoints : Prop :=
  ∀ (la : Word32) (n : Nat) (write : Bool) (s : State),
    let kind := fun (i : Nat) => s.dr7.toNat / 2 ^ (16 + 4 * i) % 4
    let len := fun (i : Nat) => s.dr7.toNat / 2 ^ (18 + 4 * i) % 4
    let size := fun (i : Nat) => if len i = 0 then 1 else if len i = 1 then 2 else 4
    let enabled := fun (i : Nat) => bit s.dr7 (2 * i) = true ∨ bit s.dr7 (2 * i + 1) = true
    let touched := fun (i : Nat) (dr : Word32) => (kind i = 1 ∧ write = true ∨ kind i = 3) ∧ len i ≠ 2 ∧
      ∃ k, k < n ∧ (la + BitVec.ofNat 32 k).toNat / size i = dr.toNat / size i
    let reached := fun (i : Nat) (dr : Word32) => kind i = 0 ∧ len i = 0 ∧ dr = s.cs.base + s.eip
    let after := (s.dataBp la n write).dbPending
    s.dataBp la n write = { s with dbPending := after } ∧ after.bs = s.dbPending.bs ∧ after.bt = s.dbPending.bt ∧
    (∀ x ∈ [(s.dbPending.hit0, after.hit0, 0, s.dr0), (s.dbPending.hit1, after.hit1, 1, s.dr1),
        (s.dbPending.hit2, after.hit2, 2, s.dr2), (s.dbPending.hit3, after.hit3, 3, s.dr3)],
      (x.2.1 = true ↔ x.1 = true ∨ touched x.2.2.1 x.2.2.2)) ∧
    (∀ x ∈ [(0, s.dr0), (1, s.dr1), (2, s.dr2), (3, s.dr3)], (codeBpMatch s x.1 x.2 = true ↔ reached x.1 x.2)) ∧
    (after.enabledHit = true ↔ s.dbPending.enabledHit = true ∨
      ∃ x ∈ [(0, s.dr0), (1, s.dr1), (2, s.dr2), (3, s.dr3)], touched x.1 x.2 ∧ enabled x.1) ∧
    (codeBpFires s = true ↔ s.rf = false ∧
      ∃ x ∈ [(0, s.dr0), (1, s.dr1), (2, s.dr2), (3, s.dr3)], reached x.1 x.2 ∧ enabled x.1)

/-- The walk of the page tables: which entries a linear address names, what makes it a page fault and with which error code, and the
physical address (22_paging.md R270, R283, R286, R290, R292, R312). A page fault leaves the linear address in CR2; an entry that is
not present, then one with a reserved bit set where that is checked, then one whose rights do not admit the access, stops the walk
at its level. That the reserved bits of each entry are tested there, after its P bit and before its rights, is the model's reading
of R292, log entry 18 (DEDUCED): the code of R270 tests those of a small-page directory entry later. The bits tested are, where
CR4.PSE or CR4.PAE is set: of a 32-bit page-table entry bit 8 without HAS_PGE and bit 7, of a page-directory entry that names a
table bit 8 without HAS_PGE and bit 6, of one that maps a large page bits 21:12 or, with HAS_PSE36, 21:17; of a 64-bit entry bits
63:36 and of one that maps a large page 20:13, else bit 7 or bit 6. The bits 7 and 6 are tested where the parameter of U16 says so;
that bit 8 of a directory entry is tested is read from R292, log entry 53 (DEDUCED). The free value that the undefined bits of an
error code take is log entry 20's. Memory is everywhere. -/
def Obligations.PageWalk : Prop :=
  ∀ (la : Word32) (acc : Acc) (s : State) (pde pte : Nat), s.params.physMap = [] →
    let someBit := fun (entry lo hi : Nat) => ∃ k, lo ≤ k ∧ k ≤ hi ∧ entry.testBit k = true
    let checked := s.cr4Pse = true ∨ s.cr4Pae = true
    let small := s.params.checkSmallPageBits = true
    (pde = s.entry (s.dirAddr32 la) 4 → pte = s.entry (s.tableAddr32 la) 4 →
      let bad := if s.large32 la = true then someBit pde (if s.params.hasPSE36 then 17 else 12) 21
        else checked ∧ (small ∧ pde.testBit 6 = true ∨ s.params.hasPGE = false ∧ pde.testBit 8 = true)
      let badPage := checked ∧ (small ∧ pte.testBit 7 = true ∨ s.params.hasPGE = false ∧ pte.testBit 8 = true)
      (pde.testBit 0 = false → pageFaults (walk32 la acc s) s la acc false false) ∧
      (pde.testBit 0 = true → bad → pageFaults (walk32 la acc s) s la acc true true) ∧
      (pde.testBit 0 = true → ¬bad →
        (¬pageAllows s acc (pde.testBit 2) (pde.testBit 1) → pageFaults (walk32 la acc s) s la acc true false) ∧
        (pageAllows s acc (pde.testBit 2) (pde.testBit 1) →
          (s.large32 la = true → ∃ x, walk32 la acc s = .ok x s ∧
            x.phys = field pde 31 22 * 2 ^ 22 + (if s.params.hasPSE36 then field pde 16 13 * 2 ^ 32 else 0) +
              la.toNat % 2 ^ 22) ∧
          (s.large32 la = false →
            (pte.testBit 0 = false → pageFaults (walk32 la acc s) s la acc false false) ∧
            (pte.testBit 0 = true → badPage →
              pageFaults (walk32 la acc s) s la acc true true) ∧
            (pte.testBit 0 = true → ¬badPage →
              (¬pageAllows s acc (pte.testBit 2) (pte.testBit 1) → pageFaults (walk32 la acc s) s la acc true false) ∧
              (pageAllows s acc (pte.testBit 2) (pte.testBit 1) →
                ∃ x, walk32 la acc s = .ok x s ∧ x.phys = field pte 31 12 * 4096 + la.toNat % 4096)))))) ∧
    (pde = s.entry (s.dirAddrPae la) 8 → pte = s.entry (s.tableAddrPae la) 8 →
      let bad := someBit pde 36 63 ∨ if pde.testBit 7 = true then someBit pde 13 20 else small ∧ pde.testBit 6 = true
      let badPage := someBit pte 36 63 ∨ small ∧ pte.testBit 7 = true
      ((s.pointerPae la).testBit 0 = false ∨ pde.testBit 0 = false →
        pageFaults (walkPae la acc s) s la acc false false) ∧
      ((s.pointerPae la).testBit 0 = true → pde.testBit 0 = true →
        (bad → pageFaults (walkPae la acc s) s la acc true true) ∧
        (¬bad →
          (¬pageAllows s acc (pde.testBit 2) (pde.testBit 1) → pageFaults (walkPae la acc s) s la acc true false) ∧
          (pageAllows s acc (pde.testBit 2) (pde.testBit 1) →
            (pde.testBit 7 = true → ∃ x, walkPae la acc s = .ok x s ∧
              x.phys = field pde 35 21 * 2 ^ 21 + la.toNat % 2 ^ 21) ∧
            (pde.testBit 7 = false →
              (pte.testBit 0 = false → pageFaults (walkPae la acc s) s la acc false false) ∧
              (pte.testBit 0 = true → badPage →
                pageFaults (walkPae la acc s) s la acc true true) ∧
              (pte.testBit 0 = true → ¬badPage →
                (¬pageAllows s acc (pte.testBit 2) (pte.testBit 1) →
                  pageFaults (walkPae la acc s) s la acc true false) ∧
                (pageAllows s acc (pte.testBit 2) (pte.testBit 1) →
                  ∃ x, walkPae la acc s = .ok x s ∧ x.phys = field pte 35 12 * 4096 + la.toNat % 4096)))))))

/-- An access with paging on (22_paging.md R279, R284, R301; 20_memory.md R128). Within a page, once the walk has found the frame,
the bytes accessed are those of the frame, the walked entries gain the Accessed bit and the last one, on a write, the Dirty bit, and
no other byte of memory changes. An access that spans two pages translates both, the lower first, before it marks either, so that a
fault of the second leaves the first unmarked; its bytes are the end of one frame and the beginning of the other. Where TLB_POLICY
is `ideal` and one translation alone is recorded, it is used in place of the walk, with its own rights: how the TLB is used is the
model's, log entry 12 (D46). Memory is everywhere and in its canonical form (the invariant of `Obligations.StepKeepsInvariant`). -/
def Obligations.PagedAccess : Prop :=
  ∀ (la : Word32) (n : Nat) (acc : Acc) (s : State), s.pg = true → s.params.physMap = [] → Memory.wf s.mem = true →
    (∀ (x : Xlat) (small : Bool) (dir leaf : Nat), s.tlb = [] → la.toNat % 4096 + n ≤ 4096 →
      (s.cr4Pae = false ∧ dir = s.dirAddr32 la ∧ small = !s.large32 la ∧
          leaf = (if small then s.tableAddr32 la else dir) ∧ walk32 la acc s = .ok x s ∨
        s.cr4Pae = true ∧ dir = s.dirAddrPae la ∧ small = !(s.entry dir 8).testBit 7 ∧
          leaf = (if small then s.tableAddrPae la else dir) ∧ walkPae la acc s = .ok x s) →
      ∃ t, linAddrs la n acc s = .ok (addrsFrom x.phys n) t ∧ t = { s with mem := t.mem, tlb := t.tlb } ∧
        (∀ a, t.byteAt a = s.byteAt a ||| (if small = true ∧ a = dir then 0x20 else 0) |||
          (if a = leaf then (if acc.write then 0x60 else 0x20) else 0)) ∧
        linRead la n acc s = .ok (ofBytes ((addrsFrom x.phys n).map t.byteAt)) t ∧
        ∀ v, linWrite la n v acc s = .ok () { t with mem := setCells t.mem (addrsFrom x.phys n) (bytesOf n v) }) ∧
    (∀ (x y : Xlat) (e : Err) (u v w z : State) (room : Nat), room = 4096 - la.toNat % 4096 → room < n →
      translate la acc s = .ok x u →
      (translate (la + BitVec.ofNat 32 room) acc u = .error e v → linAddrs la n acc s = .error e v) ∧
      (translate (la + BitVec.ofNat 32 room) acc u = .ok y v → commitXlat x v = .ok () w → commitXlat y w = .ok () z →
        linAddrs la n acc s = .ok (addrsFrom x.phys room ++ addrsFrom y.phys (n - room)) z)) ∧
    (∀ e : TlbEntry, s.params.tlbPolicy = .ideal → s.tlb = [e] → covers e la = true →
      (acc.write = true → e.dirty = true) →
      (pageAllows s acc e.us e.rw → translate la acc s = .ok ⟨e.frame + la.toNat % 2 ^ e.size.shift, [], none⟩ s) ∧
      (¬pageAllows s acc e.us e.rw → pageFaults (translate la acc s) s la acc true false))

/-! ## The machine as a whole -/

/-- A step of a quiet machine runs the instruction its bytes decode to: any instruction a fetch delivers, and, with paging off,
the one that the first bytes at CS:EIP are the shortest encoding of (60_exceptions.md R760). -/
def Obligations.StepRunsDecoded : Prop :=
  ∀ (s t : State) (i : Instr) (n : Nat) (rest : List Byte), s.quiet = true →
    (fetchInstr s = .ok (some i) t → step s = exec i t) ∧
    (s.pg = false → s.params.physMap = [] → 0 < n → n ≤ 15 →
      (∀ k, k < n → decode s.cs.attr.db (s.codeBytes k) = .more) →
      decode s.cs.attr.db (s.codeBytes n) = .instr i rest → s.eip.toNat + n - 1 ≤ s.cs.limit.toNat →
      step s = exec i s)

/-- The words of a few instructions, written out from the table of 30_encoding.md R360, decode to them. -/
def Obligations.DecodeWords : Prop :=
  decode true [0x0F, 0x06] = .instr (.clts []) [] ∧
  decode true [0x0F, 0x22, 0xD8] = .instr (.movToCr [] 3 .eax) [] ∧
  decode true [0x0F, 0x01, 0x15, 0x44, 0x33, 0x22, 0x11] = .instr (.lgdt [] (.mem (.direct32 0x11223344))) [] ∧
  decode false [0x66, 0x0F, 0x01, 0x16, 0x34, 0x12] = .instr (.lgdt [.opSize] (.mem (.direct16 0x1234))) [] ∧
  decode true [0x8E, 0xD0] = .instr (.movToSeg [] 2 (.reg .eax)) [] ∧
  decode false [0xEA, 0x5B, 0xE0, 0x00, 0xF0] = .instr (.jmpFar [] (.p16 0xE05B 0xF000)) [] ∧
  decode true [0xE8, 0xFB, 0xFF, 0xFF, 0xFF] = .instr (.callRel [] (.w32 0xFFFFFFFB)) [] ∧
  decode true [0xC2, 0x08, 0x00] = .instr (.retImm [] 8) [] ∧
  decode true [0xF3, 0x6D] = .instr (.insv [.rep]) [] ∧
  decode true [0xCD, 0x80] = .instr (.intImm [] 0x80) [] ∧
  decode true [0xFF, 0x54, 0x24, 0x08] = .instr (.callRm [] (.mem (.sib 0 .esp .esp (.d8 8)))) [] ∧
  decode true [0xDB, 0xE3] = .instr (.fninit []) []

/-- Every well-formed instruction but for the prefix rows reads back from its own bytes, whatever follows them, with every
operand at every value its encoding admits (30_encoding.md R330 to R360). -/
def Obligations.DecodeEncode : Prop :=
  ∀ (db : Bool) (i : Instr) (rest : List Byte), i.wf db = true → isPrefixRow i = false →
    decode db (encode i ++ rest) = .instr i (rest.take (15 - (encode i).length))

/-- Every step keeps the machine's invariant, from every state that has it: memory in its canonical form, the reserved bits of
EFLAGS, CR4, DR6 and DR7 as they read, paging only in protected mode; and no step changes the implementation's parameters
(10_state.md R40, R81, R87, R95, R96; 00_scope.md R4). -/
def Obligations.StepKeepsInvariant : Prop :=
  ∀ (s t : State), s.Inv → step s = .next t → t.Inv ∧ t.params = s.params

/-- The machine after reset has the invariant. -/
def Obligations.ResetHasInvariant : Prop := State.reset.Inv

/-- RESET in any state, and the machine right after power-up: execution begins at FFFFFFF0H in real-address mode with paging off,
interrupts disabled and no breakpoint enabled, the tables of 70_reset_and_hazards.md R905 for the system registers; memory and
devices are not written (R900, R902, R905). The values of selectors, of CR0's other bits, of DR0 to DR3 and of the test registers
are the spec's own choices (D6, D22 to D25); that memory lists nothing (log entry 8) and that the AVL bit of CS is 0 and its
accessed bit 1 (log entry 2) are the model's. -/
def Obligations.ResetState : Prop :=
  (∀ s : State, s.resetLine = true → ∃ t, step s = .next t ∧ sameBytes s t [] ∧ t.io = s.io ∧ t.params = s.params ∧
    t.cs.base + t.eip = 0xFFFFFFF0 ∧ t.eflags = 2 ∧ t.pe = false ∧ t.pg = false ∧ t.wp = false ∧ t.cpl = 0 ∧
    t.gdtr = ⟨0, 0xFFFF⟩ ∧ t.idtr = ⟨0, 0xFFFF⟩ ∧ t.ldtr.valid = false ∧ t.tr.valid = false ∧ t.cr2 = 0 ∧ t.cr3 = 0 ∧
    t.cr4 = 0 ∧ t.dr6 = 0 ∧ t.dr7 = 0 ∧ t.tsc = 0 ∧ t.tlb = [] ∧ t.nmiBlocked = false ∧ t.inhibitSs = false ∧
    t.run = .running) ∧
  State.reset.cs = ⟨0xF000, 0xFFFF0000, 0xFFFF, ⟨11, true, 0, true, false, false, false⟩, true⟩ ∧
  State.reset.eip = 0x0000FFF0 ∧ State.reset.eflags = 2 ∧ State.reset.cr0 = 0x60000010 ∧ State.reset.mem = [] ∧
  (∀ g ∈ [State.reset.ds, State.reset.es, State.reset.fs, State.reset.gs, State.reset.ss],
    g.sel = 0 ∧ g.base = 0 ∧ g.limit = 0xFFFF ∧ g.valid = true)

/-- What a running machine recognises before an instruction, and in which order: RESET; then, unless a load of SS holds the
boundary, a debug trap, whose conditions DR6 gains, and which, for the task-switch trap of the debug handler's own task, enters that
task again (R688; how is log entry 43); an instruction breakpoint; NMI; an interrupt, unless STI has just set IF (60_exceptions.md
R760, R790; 46_debug.md R676, R686; 45_interrupt_instructions.md R650; 44_io.md R601). An instruction breakpoint reports every
breakpoint that matches, by its bit of DR6. An edge on the NMI input is latched first, also while NMI is blocked, and the latch then
waits for the end of the block (60_exceptions.md R770; `Obligations.InterruptReturn` says where IRET ends it). That an acknowledged
interrupt is withdrawn is the model's, log entry 7. An instruction begins with TF, as it stands then, added to the single-step
condition (R690, 10_state.md R42) and with the time-stamp counter, where there is one, advanced (10_state.md R108; by how much is
free, log entry 5); with nothing else. -/
def Obligations.BoundaryPriority : Prop :=
  (∀ s t : State, t = s.begin →
    t = { s with dbPending := { s.dbPending with bs := s.dbPending.bs || bit s.eflags 8 }, tsc := t.tsc, free := t.free } ∧
      (s.params.hasTSC = false → t.tsc = s.tsc ∧ t.free = s.free) ∧
      (s.params.hasTSC = true → ∃ d, 0 < d ∧ d ≤ 2 ^ 32 ∧ t.tsc = s.tsc + BitVec.ofNat 64 d)) ∧
  ∀ (s : State) (v : Byte), s.run = .running → s.resetLine = false →
    (s.nmiEdge = true → step s = step { s with nmiEdge := false, nmiPending := true }) ∧
    (s.nmiEdge = false → s.inhibitSs = true → step s =
      executeOne { s with inhibitSs := false, inhibitSti := false, dbPending := { s.dbPending with bs := false } }) ∧
    (s.nmiEdge = false → s.inhibitSs = false →
      (s.dbPending.bs = true ∨ s.dbPending.bt = true ∨ s.dbPending.enabledHit = true →
        ∀ b, b = { s with inhibitSti := false, dr6 := s.dr6 ||| s.dbPending.dr6Bits, dbPending := DbPending.none } →
        ∀ own : Prop, (own ↔ s.dbPending.bt = true ∧ s.pe = true ∧ ∃ g u, readIdtGate 1 false b = .ok g u ∧ descType g = 5 ∧
          selTi (gateSelector g) = false ∧ selIndex (gateSelector g) = selIndex s.tr.sel) →
        (¬own → step s = deliverEvent 1 b) ∧ (own → step s = settle 5 .benign debugAgain b)) ∧
      (s.dbPending.bs = false → s.dbPending.bt = false → s.dbPending.enabledHit = false →
        ∀ c, c = { s with inhibitSti := false, dbPending := DbPending.none } →
          (codeBpFires c = true → step s = deliverEvent 1 { c with dr6 := s.dr6 |||
            (if codeBpMatch s 0 s.dr0 then 1 else 0) ||| (if codeBpMatch s 1 s.dr1 then 2 else 0) |||
            (if codeBpMatch s 2 s.dr2 then 4 else 0) ||| (if codeBpMatch s 3 s.dr3 then 8 else 0) }) ∧
          (codeBpFires c = false → s.nmiPending = true → s.nmiBlocked = false →
            step s = deliverEvent 2 { c with nmiPending := false, nmiBlocked := true }) ∧
          (codeBpFires c = false → (s.nmiPending = false ∨ s.nmiBlocked = true) → s.ifl = true → s.intr = some v →
            step s = if s.inhibitSti then executeOne c else deliverEvent v { c with intr := none }) ∧
          (codeBpFires c = false → (s.nmiPending = false ∨ s.nmiBlocked = true) → (s.ifl = false ∨ s.intr = none) →
            step s = executeOne c)))

/-- A machine that is halted, or frozen by a floating-point error that IGNNE# does not clear, or shut down, stays as it is, but that
time passes, until an event it recognises: a halted one a debug trap still pending; a halted or frozen one an NMI that is not
blocked or an interrupt that IF admits, a machine in shutdown the NMI alone (40_system_registers.md R405, 47_fpu_system.md R722,
60_exceptions.md R760, 61_exceptions_by_vector.md R851). A frozen one whose error is no longer pending, or whose IGNNE# has become
active, steps as a running one does (R722). An edge on the NMI input is latched first, also while NMI is blocked; a machine that
waits on keeps the latch (R770). Time passing is the time-stamp counter, where there is one (10_state.md R108; by how much is free,
log entry 5). That an acknowledged interrupt is withdrawn is the model's, log entry 7. -/
def Obligations.WaitingStates : Prop :=
  ∀ (s : State) (v : Byte), s.resetLine = false →
    (s.nmiEdge = true → step s = step { s with nmiEdge := false, nmiPending := true }) ∧
    (s.run = .fpFrozen → s.fpu.status &&& ~~~s.fpu.control &&& 0x3F = 0 ∨ s.ignne = true →
      step s = step { s with run := .running }) ∧
    (s.nmiEdge = false → s.run = .halted → s.dbPending.bs = true ∨ s.dbPending.bt = true ∨ s.dbPending.enabledHit = true →
      ∀ b, b = { s with run := .running, dr6 := s.dr6 ||| s.dbPending.dr6Bits, dbPending := DbPending.none } →
        (s.dbPending.bt = false ∨ b.ownDebugTask = false → step s = deliverEvent 1 b) ∧
        (s.dbPending.bt = true → b.ownDebugTask = true → step s = settle 5 .benign debugAgain b)) ∧
    (s.nmiEdge = false → (s.run = .halted ∧ s.dbPending.bs = false ∧ s.dbPending.bt = false ∧ s.dbPending.enabledHit = false ∨
        s.run = .shutdown ∨
        (s.run = .fpFrozen ∧ s.fpu.status &&& ~~~s.fpu.control &&& 0x3F ≠ 0 ∧ s.ignne = false)) →
      (s.nmiPending = true → s.nmiBlocked = false →
        step s = deliverEvent 2 { s with run := .running, nmiPending := false, nmiBlocked := true }) ∧
      ((s.nmiPending = false ∨ s.nmiBlocked = true) →
        (s.run = .shutdown ∨ s.ifl = false ∨ s.intr = none →
          ∃ t, step s = .next t ∧ t = { s with tsc := t.tsc, free := t.free } ∧
            (s.params.hasTSC = false → t = s) ∧
            (s.params.hasTSC = true → ∃ d, 0 < d ∧ d ≤ 2 ^ 32 ∧ t.tsc = s.tsc + BitVec.ofNat 64 d)) ∧
        (s.run ≠ .shutdown → s.ifl = true → s.intr = some v →
          step s = deliverEvent v { s with run := .running, intr := none })))
end

