-- ==== Sys2Proof/Laws/Memory.lean ====
section
/-! SUPPORT. The laws of physical memory: what a byte reads as after a write, and that every memory operation keeps the
canonical form. -/

namespace Sys2Proof.Machine

open Sys2Proof

/-- Reading the byte just written. -/
theorem cellByte_setCell_same (m : List Host.Cell) (x : Nat) (v : Byte) (lo : Nat) (h : Memory.wfFrom lo m = true) :
    cellByte (setCell m x v) x = v := by
  induction m generalizing lo with
  | nil =>
    by_cases hv : v = 0
    · rw [setCell, if_pos hv, hv]; rfl
    · rw [setCell, if_neg hv, cellByte, if_pos rfl]
  | cons c cs ih =>
    obtain ⟨a, b⟩ := c
    simp only [Memory.wfFrom, Bool.and_eq_true, decide_eq_true_eq] at h
    have tail : ∀ lo', x < lo' → Memory.wfFrom lo' cs = true → cellByte cs x = 0 := by
      clear ih h
      induction cs with
      | nil => intros; rfl
      | cons d ds ih =>
        obtain ⟨a', b'⟩ := d
        intro lo' hx hw
        simp only [Memory.wfFrom, Bool.and_eq_true, decide_eq_true_eq] at hw
        rw [cellByte, if_neg (by omega)]
        exact ih (a' + 1) (by omega) hw.2
    rw [setCell]
    split
    · by_cases hv : v = 0
      · rw [if_pos hv, cellByte, if_neg (by omega), tail (a + 1) (by omega) h.2, hv]
      · rw [if_neg hv, cellByte, if_pos rfl]
    · split
      · by_cases hv : v = 0
        · rw [if_pos hv, hv]; exact tail (a + 1) (by omega) h.2
        · rw [if_neg hv, cellByte, if_pos rfl]
      · rw [cellByte, if_neg (by assumption)]; exact ih (a + 1) h.2

/-- A write leaves every other byte alone. -/
theorem cellByte_setCell_other (m : List Host.Cell) (x y : Nat) (v : Byte) (h : y ≠ x) :
    cellByte (setCell m x v) y = cellByte m y := by
  induction m with
  | nil =>
    by_cases hv : v = 0
    · rw [setCell, if_pos hv]
    · rw [setCell, if_neg hv]; exact if_neg h
  | cons c cs ih =>
    obtain ⟨a, b⟩ := c
    rw [setCell]
    split
    · by_cases hv : v = 0
      · rw [if_pos hv]
      · rw [if_neg hv, cellByte, if_neg h]
    · split
      · next hxa =>
        have hya : y ≠ a := by omega
        by_cases hv : v = 0
        · rw [if_pos hv, cellByte, if_neg hya]
        · rw [if_neg hv, cellByte, if_neg h, cellByte, if_neg hya]
      · rw [cellByte, cellByte, ih]

/-- Writing bytes leaves every address that is not written alone. -/
theorem cellByte_setCells_other (m : List Host.Cell) (as : List Nat) (bs : List Byte) (y : Nat) (h : y ∉ as) :
    cellByte (setCells m as bs) y = cellByte m y := by
  induction as generalizing m bs with
  | nil => rfl
  | cons a as ih =>
    cases bs with
    | nil => rfl
    | cons b bs =>
      simp only [List.mem_cons, not_or] at h
      rw [setCells, ih _ _ h.2, cellByte_setCell_other _ _ _ _ h.1]

/-- The canonical form holds from any lower bound. -/
theorem wfFrom_mono (m : List Host.Cell) (lo lo' : Nat) (h : lo ≤ lo') (hm : Memory.wfFrom lo' m = true) :
    Memory.wfFrom lo m = true := by
  cases m with
  | nil => rfl
  | cons c cs =>
    obtain ⟨a, b⟩ := c
    simp only [Memory.wfFrom, Bool.and_eq_true, decide_eq_true_eq] at hm ⊢
    exact ⟨⟨by omega, hm.1.2⟩, hm.2⟩

/-- A write keeps the canonical form from a lower bound at or below the address. -/
theorem wfFrom_setCell (m : List Host.Cell) (lo x : Nat) (v : Byte) (hlo : lo ≤ x) (h : Memory.wfFrom lo m = true) :
    Memory.wfFrom lo (setCell m x v) = true := by
  induction m generalizing lo with
  | nil =>
    by_cases hv : v = 0
    · rw [setCell, if_pos hv]; rfl
    · rw [setCell, if_neg hv]
      simp only [Memory.wfFrom, Bool.and_eq_true, decide_eq_true_eq]
      exact ⟨⟨hlo, hv⟩, trivial⟩
  | cons c cs ih =>
    obtain ⟨a, b⟩ := c
    simp only [Memory.wfFrom, Bool.and_eq_true, decide_eq_true_eq] at h
    rw [setCell]
    split
    · by_cases hv : v = 0
      · rw [if_pos hv]
        simp only [Memory.wfFrom, Bool.and_eq_true, decide_eq_true_eq]
        exact h
      · rw [if_neg hv]
        simp only [Memory.wfFrom, Bool.and_eq_true, decide_eq_true_eq]
        exact ⟨⟨hlo, hv⟩, ⟨by omega, h.1.2⟩, h.2⟩
    · split
      · next hxa =>
        by_cases hv : v = 0
        · rw [if_pos hv]; exact wfFrom_mono _ _ _ (by omega) h.2
        · rw [if_neg hv]
          simp only [Memory.wfFrom, Bool.and_eq_true, decide_eq_true_eq]
          exact ⟨⟨hlo, hv⟩, by rw [hxa]; exact h.2⟩
      · simp only [Memory.wfFrom, Bool.and_eq_true, decide_eq_true_eq]
        exact ⟨h.1, ih (a + 1) (by omega) h.2⟩

/-- A write keeps the canonical form. -/
theorem wf_setCell (m : List Host.Cell) (x : Nat) (v : Byte) (h : Memory.wf m = true) :
    Memory.wf (setCell m x v) = true := wfFrom_setCell m 0 x v (Nat.zero_le x) h

/-- Writing bytes keeps the canonical form. -/
theorem wf_setCells (m : List Host.Cell) (as : List Nat) (bs : List Byte) (h : Memory.wf m = true) :
    Memory.wf (setCells m as bs) = true := by
  induction as generalizing m bs with
  | nil => exact h
  | cons a as ih =>
    cases bs with
    | nil => exact h
    | cons b bs => exact ih _ _ (wf_setCell m a b h)

/-- Placing an instruction keeps the canonical form. -/
theorem wf_placeBytes (m : List Host.Cell) (a : Nat) (bs : List Byte) (h : Memory.wf m = true) :
    Memory.wf (placeBytes m a bs) = true := by
  induction bs generalizing m a with
  | nil => exact h
  | cons b bs ih => exact ih _ _ (wf_setCell m a b h)

/-- The reset memory has the canonical form. -/
theorem wf_reset : Memory.wf State.reset.mem = true := rfl

/-- Little-endian bytes: as many as asked for. -/
theorem bytesOf_length (n v : Nat) : (bytesOf n v).length = n := by
  induction n generalizing v with
  | zero => rfl
  | succ n ih => simp [bytesOf, ih]

/-- Reading back the little-endian bytes of a value gives it modulo the width (20_memory.md R120). -/
theorem ofBytes_bytesOf (n v : Nat) : ofBytes (bytesOf n v) = v % 256 ^ n := by
  induction n generalizing v with
  | zero => simp [bytesOf, ofBytes, Nat.mod_one]
  | succ n ih =>
    rw [bytesOf, ofBytes, ih, BitVec.toNat_ofNat, show 256 ^ (n + 1) = 256 * 256 ^ n from pow_succ' 256 n, Nat.mod_mul]

/-- The value of a byte string is below 256 to its length. -/
theorem ofBytes_lt (bs : List Byte) : ofBytes bs < 256 ^ bs.length := by
  induction bs with
  | nil => simp [ofBytes]
  | cons b bs ih =>
    have hb := b.isLt
    simp only [ofBytes, List.length_cons, pow_succ]
    omega

end Sys2Proof.Machine
end

