-- ==== Sys2Proof/Laws/State.lean ====
section
/-! SUPPORT. One lemma for each field an update of the state leaves alone, so that no proof unfolds a record update. -/

namespace Sys2Proof.Machine

open Sys2Proof

section
variable (s : State)

-- setReg
@[simp] theorem State.setReg_eip (r : Reg) (v : Word32) : (s.setReg r v).eip = s.eip := rfl
@[simp] theorem State.setReg_eflags (r : Reg) (v : Word32) : (s.setReg r v).eflags = s.eflags := rfl
@[simp] theorem State.setReg_es (r : Reg) (v : Word32) : (s.setReg r v).es = s.es := rfl
@[simp] theorem State.setReg_cs (r : Reg) (v : Word32) : (s.setReg r v).cs = s.cs := rfl
@[simp] theorem State.setReg_ss (r : Reg) (v : Word32) : (s.setReg r v).ss = s.ss := rfl
@[simp] theorem State.setReg_ds (r : Reg) (v : Word32) : (s.setReg r v).ds = s.ds := rfl
@[simp] theorem State.setReg_fs (r : Reg) (v : Word32) : (s.setReg r v).fs = s.fs := rfl
@[simp] theorem State.setReg_gs (r : Reg) (v : Word32) : (s.setReg r v).gs = s.gs := rfl
@[simp] theorem State.setReg_gdtr (r : Reg) (v : Word32) : (s.setReg r v).gdtr = s.gdtr := rfl
@[simp] theorem State.setReg_idtr (r : Reg) (v : Word32) : (s.setReg r v).idtr = s.idtr := rfl
@[simp] theorem State.setReg_ldtr (r : Reg) (v : Word32) : (s.setReg r v).ldtr = s.ldtr := rfl
@[simp] theorem State.setReg_tr (r : Reg) (v : Word32) : (s.setReg r v).tr = s.tr := rfl
@[simp] theorem State.setReg_cr0 (r : Reg) (v : Word32) : (s.setReg r v).cr0 = s.cr0 := rfl
@[simp] theorem State.setReg_cr2 (r : Reg) (v : Word32) : (s.setReg r v).cr2 = s.cr2 := rfl
@[simp] theorem State.setReg_cr3 (r : Reg) (v : Word32) : (s.setReg r v).cr3 = s.cr3 := rfl
@[simp] theorem State.setReg_cr4 (r : Reg) (v : Word32) : (s.setReg r v).cr4 = s.cr4 := rfl
@[simp] theorem State.setReg_dr0 (r : Reg) (v : Word32) : (s.setReg r v).dr0 = s.dr0 := rfl
@[simp] theorem State.setReg_dr1 (r : Reg) (v : Word32) : (s.setReg r v).dr1 = s.dr1 := rfl
@[simp] theorem State.setReg_dr2 (r : Reg) (v : Word32) : (s.setReg r v).dr2 = s.dr2 := rfl
@[simp] theorem State.setReg_dr3 (r : Reg) (v : Word32) : (s.setReg r v).dr3 = s.dr3 := rfl
@[simp] theorem State.setReg_dr6 (r : Reg) (v : Word32) : (s.setReg r v).dr6 = s.dr6 := rfl
@[simp] theorem State.setReg_dr7 (r : Reg) (v : Word32) : (s.setReg r v).dr7 = s.dr7 := rfl
@[simp] theorem State.setReg_testRegs (r : Reg) (v : Word32) : (s.setReg r v).testRegs = s.testRegs := rfl
@[simp] theorem State.setReg_fpu (r : Reg) (v : Word32) : (s.setReg r v).fpu = s.fpu := rfl
@[simp] theorem State.setReg_tsc (r : Reg) (v : Word32) : (s.setReg r v).tsc = s.tsc := rfl
@[simp] theorem State.setReg_pmc0 (r : Reg) (v : Word32) : (s.setReg r v).pmc0 = s.pmc0 := rfl
@[simp] theorem State.setReg_pmc1 (r : Reg) (v : Word32) : (s.setReg r v).pmc1 = s.pmc1 := rfl
@[simp] theorem State.setReg_msrs (r : Reg) (v : Word32) : (s.setReg r v).msrs = s.msrs := rfl
@[simp] theorem State.setReg_mxcsr (r : Reg) (v : Word32) : (s.setReg r v).mxcsr = s.mxcsr := rfl
@[simp] theorem State.setReg_nmiBlocked (r : Reg) (v : Word32) : (s.setReg r v).nmiBlocked = s.nmiBlocked := rfl
@[simp] theorem State.setReg_nmiPending (r : Reg) (v : Word32) : (s.setReg r v).nmiPending = s.nmiPending := rfl
@[simp] theorem State.setReg_inhibitSs (r : Reg) (v : Word32) : (s.setReg r v).inhibitSs = s.inhibitSs := rfl
@[simp] theorem State.setReg_inhibitSti (r : Reg) (v : Word32) : (s.setReg r v).inhibitSti = s.inhibitSti := rfl
@[simp] theorem State.setReg_dbPending (r : Reg) (v : Word32) : (s.setReg r v).dbPending = s.dbPending := rfl
@[simp] theorem State.setReg_tlb (r : Reg) (v : Word32) : (s.setReg r v).tlb = s.tlb := rfl
@[simp] theorem State.setReg_run (r : Reg) (v : Word32) : (s.setReg r v).run = s.run := rfl
@[simp] theorem State.setReg_intr (r : Reg) (v : Word32) : (s.setReg r v).intr = s.intr := rfl
@[simp] theorem State.setReg_nmiEdge (r : Reg) (v : Word32) : (s.setReg r v).nmiEdge = s.nmiEdge := rfl
@[simp] theorem State.setReg_resetLine (r : Reg) (v : Word32) : (s.setReg r v).resetLine = s.resetLine := rfl
@[simp] theorem State.setReg_ignne (r : Reg) (v : Word32) : (s.setReg r v).ignne = s.ignne := rfl
@[simp] theorem State.setReg_mem (r : Reg) (v : Word32) : (s.setReg r v).mem = s.mem := rfl
@[simp] theorem State.setReg_io (r : Reg) (v : Word32) : (s.setReg r v).io = s.io := rfl
@[simp] theorem State.setReg_free (r : Reg) (v : Word32) : (s.setReg r v).free = s.free := rfl
@[simp] theorem State.setReg_params (r : Reg) (v : Word32) : (s.setReg r v).params = s.params := rfl

-- setReg16
@[simp] theorem State.setReg16_eip (r : Reg) (v : Word16) : (s.setReg16 r v).eip = s.eip := rfl
@[simp] theorem State.setReg16_eflags (r : Reg) (v : Word16) : (s.setReg16 r v).eflags = s.eflags := rfl
@[simp] theorem State.setReg16_es (r : Reg) (v : Word16) : (s.setReg16 r v).es = s.es := rfl
@[simp] theorem State.setReg16_cs (r : Reg) (v : Word16) : (s.setReg16 r v).cs = s.cs := rfl
@[simp] theorem State.setReg16_ss (r : Reg) (v : Word16) : (s.setReg16 r v).ss = s.ss := rfl
@[simp] theorem State.setReg16_ds (r : Reg) (v : Word16) : (s.setReg16 r v).ds = s.ds := rfl
@[simp] theorem State.setReg16_fs (r : Reg) (v : Word16) : (s.setReg16 r v).fs = s.fs := rfl
@[simp] theorem State.setReg16_gs (r : Reg) (v : Word16) : (s.setReg16 r v).gs = s.gs := rfl
@[simp] theorem State.setReg16_gdtr (r : Reg) (v : Word16) : (s.setReg16 r v).gdtr = s.gdtr := rfl
@[simp] theorem State.setReg16_idtr (r : Reg) (v : Word16) : (s.setReg16 r v).idtr = s.idtr := rfl
@[simp] theorem State.setReg16_ldtr (r : Reg) (v : Word16) : (s.setReg16 r v).ldtr = s.ldtr := rfl
@[simp] theorem State.setReg16_tr (r : Reg) (v : Word16) : (s.setReg16 r v).tr = s.tr := rfl
@[simp] theorem State.setReg16_cr0 (r : Reg) (v : Word16) : (s.setReg16 r v).cr0 = s.cr0 := rfl
@[simp] theorem State.setReg16_cr2 (r : Reg) (v : Word16) : (s.setReg16 r v).cr2 = s.cr2 := rfl
@[simp] theorem State.setReg16_cr3 (r : Reg) (v : Word16) : (s.setReg16 r v).cr3 = s.cr3 := rfl
@[simp] theorem State.setReg16_cr4 (r : Reg) (v : Word16) : (s.setReg16 r v).cr4 = s.cr4 := rfl
@[simp] theorem State.setReg16_dr0 (r : Reg) (v : Word16) : (s.setReg16 r v).dr0 = s.dr0 := rfl
@[simp] theorem State.setReg16_dr1 (r : Reg) (v : Word16) : (s.setReg16 r v).dr1 = s.dr1 := rfl
@[simp] theorem State.setReg16_dr2 (r : Reg) (v : Word16) : (s.setReg16 r v).dr2 = s.dr2 := rfl
@[simp] theorem State.setReg16_dr3 (r : Reg) (v : Word16) : (s.setReg16 r v).dr3 = s.dr3 := rfl
@[simp] theorem State.setReg16_dr6 (r : Reg) (v : Word16) : (s.setReg16 r v).dr6 = s.dr6 := rfl
@[simp] theorem State.setReg16_dr7 (r : Reg) (v : Word16) : (s.setReg16 r v).dr7 = s.dr7 := rfl
@[simp] theorem State.setReg16_testRegs (r : Reg) (v : Word16) : (s.setReg16 r v).testRegs = s.testRegs := rfl
@[simp] theorem State.setReg16_fpu (r : Reg) (v : Word16) : (s.setReg16 r v).fpu = s.fpu := rfl
@[simp] theorem State.setReg16_tsc (r : Reg) (v : Word16) : (s.setReg16 r v).tsc = s.tsc := rfl
@[simp] theorem State.setReg16_pmc0 (r : Reg) (v : Word16) : (s.setReg16 r v).pmc0 = s.pmc0 := rfl
@[simp] theorem State.setReg16_pmc1 (r : Reg) (v : Word16) : (s.setReg16 r v).pmc1 = s.pmc1 := rfl
@[simp] theorem State.setReg16_msrs (r : Reg) (v : Word16) : (s.setReg16 r v).msrs = s.msrs := rfl
@[simp] theorem State.setReg16_mxcsr (r : Reg) (v : Word16) : (s.setReg16 r v).mxcsr = s.mxcsr := rfl
@[simp] theorem State.setReg16_nmiBlocked (r : Reg) (v : Word16) : (s.setReg16 r v).nmiBlocked = s.nmiBlocked := rfl
@[simp] theorem State.setReg16_nmiPending (r : Reg) (v : Word16) : (s.setReg16 r v).nmiPending = s.nmiPending := rfl
@[simp] theorem State.setReg16_inhibitSs (r : Reg) (v : Word16) : (s.setReg16 r v).inhibitSs = s.inhibitSs := rfl
@[simp] theorem State.setReg16_inhibitSti (r : Reg) (v : Word16) : (s.setReg16 r v).inhibitSti = s.inhibitSti := rfl
@[simp] theorem State.setReg16_dbPending (r : Reg) (v : Word16) : (s.setReg16 r v).dbPending = s.dbPending := rfl
@[simp] theorem State.setReg16_tlb (r : Reg) (v : Word16) : (s.setReg16 r v).tlb = s.tlb := rfl
@[simp] theorem State.setReg16_run (r : Reg) (v : Word16) : (s.setReg16 r v).run = s.run := rfl
@[simp] theorem State.setReg16_intr (r : Reg) (v : Word16) : (s.setReg16 r v).intr = s.intr := rfl
@[simp] theorem State.setReg16_nmiEdge (r : Reg) (v : Word16) : (s.setReg16 r v).nmiEdge = s.nmiEdge := rfl
@[simp] theorem State.setReg16_resetLine (r : Reg) (v : Word16) : (s.setReg16 r v).resetLine = s.resetLine := rfl
@[simp] theorem State.setReg16_ignne (r : Reg) (v : Word16) : (s.setReg16 r v).ignne = s.ignne := rfl
@[simp] theorem State.setReg16_mem (r : Reg) (v : Word16) : (s.setReg16 r v).mem = s.mem := rfl
@[simp] theorem State.setReg16_io (r : Reg) (v : Word16) : (s.setReg16 r v).io = s.io := rfl
@[simp] theorem State.setReg16_free (r : Reg) (v : Word16) : (s.setReg16 r v).free = s.free := rfl
@[simp] theorem State.setReg16_params (r : Reg) (v : Word16) : (s.setReg16 r v).params = s.params := rfl

-- setSp
@[simp] theorem State.setSp_eip (x : Word32) : (s.setSp x).eip = s.eip := rfl
@[simp] theorem State.setSp_eflags (x : Word32) : (s.setSp x).eflags = s.eflags := rfl
@[simp] theorem State.setSp_es (x : Word32) : (s.setSp x).es = s.es := rfl
@[simp] theorem State.setSp_cs (x : Word32) : (s.setSp x).cs = s.cs := rfl
@[simp] theorem State.setSp_ss (x : Word32) : (s.setSp x).ss = s.ss := rfl
@[simp] theorem State.setSp_ds (x : Word32) : (s.setSp x).ds = s.ds := rfl
@[simp] theorem State.setSp_fs (x : Word32) : (s.setSp x).fs = s.fs := rfl
@[simp] theorem State.setSp_gs (x : Word32) : (s.setSp x).gs = s.gs := rfl
@[simp] theorem State.setSp_gdtr (x : Word32) : (s.setSp x).gdtr = s.gdtr := rfl
@[simp] theorem State.setSp_idtr (x : Word32) : (s.setSp x).idtr = s.idtr := rfl
@[simp] theorem State.setSp_ldtr (x : Word32) : (s.setSp x).ldtr = s.ldtr := rfl
@[simp] theorem State.setSp_tr (x : Word32) : (s.setSp x).tr = s.tr := rfl
@[simp] theorem State.setSp_cr0 (x : Word32) : (s.setSp x).cr0 = s.cr0 := rfl
@[simp] theorem State.setSp_cr2 (x : Word32) : (s.setSp x).cr2 = s.cr2 := rfl
@[simp] theorem State.setSp_cr3 (x : Word32) : (s.setSp x).cr3 = s.cr3 := rfl
@[simp] theorem State.setSp_cr4 (x : Word32) : (s.setSp x).cr4 = s.cr4 := rfl
@[simp] theorem State.setSp_dr0 (x : Word32) : (s.setSp x).dr0 = s.dr0 := rfl
@[simp] theorem State.setSp_dr1 (x : Word32) : (s.setSp x).dr1 = s.dr1 := rfl
@[simp] theorem State.setSp_dr2 (x : Word32) : (s.setSp x).dr2 = s.dr2 := rfl
@[simp] theorem State.setSp_dr3 (x : Word32) : (s.setSp x).dr3 = s.dr3 := rfl
@[simp] theorem State.setSp_dr6 (x : Word32) : (s.setSp x).dr6 = s.dr6 := rfl
@[simp] theorem State.setSp_dr7 (x : Word32) : (s.setSp x).dr7 = s.dr7 := rfl
@[simp] theorem State.setSp_testRegs (x : Word32) : (s.setSp x).testRegs = s.testRegs := rfl
@[simp] theorem State.setSp_fpu (x : Word32) : (s.setSp x).fpu = s.fpu := rfl
@[simp] theorem State.setSp_tsc (x : Word32) : (s.setSp x).tsc = s.tsc := rfl
@[simp] theorem State.setSp_pmc0 (x : Word32) : (s.setSp x).pmc0 = s.pmc0 := rfl
@[simp] theorem State.setSp_pmc1 (x : Word32) : (s.setSp x).pmc1 = s.pmc1 := rfl
@[simp] theorem State.setSp_msrs (x : Word32) : (s.setSp x).msrs = s.msrs := rfl
@[simp] theorem State.setSp_mxcsr (x : Word32) : (s.setSp x).mxcsr = s.mxcsr := rfl
@[simp] theorem State.setSp_nmiBlocked (x : Word32) : (s.setSp x).nmiBlocked = s.nmiBlocked := rfl
@[simp] theorem State.setSp_nmiPending (x : Word32) : (s.setSp x).nmiPending = s.nmiPending := rfl
@[simp] theorem State.setSp_inhibitSs (x : Word32) : (s.setSp x).inhibitSs = s.inhibitSs := rfl
@[simp] theorem State.setSp_inhibitSti (x : Word32) : (s.setSp x).inhibitSti = s.inhibitSti := rfl
@[simp] theorem State.setSp_dbPending (x : Word32) : (s.setSp x).dbPending = s.dbPending := rfl
@[simp] theorem State.setSp_tlb (x : Word32) : (s.setSp x).tlb = s.tlb := rfl
@[simp] theorem State.setSp_run (x : Word32) : (s.setSp x).run = s.run := rfl
@[simp] theorem State.setSp_intr (x : Word32) : (s.setSp x).intr = s.intr := rfl
@[simp] theorem State.setSp_nmiEdge (x : Word32) : (s.setSp x).nmiEdge = s.nmiEdge := rfl
@[simp] theorem State.setSp_resetLine (x : Word32) : (s.setSp x).resetLine = s.resetLine := rfl
@[simp] theorem State.setSp_ignne (x : Word32) : (s.setSp x).ignne = s.ignne := rfl
@[simp] theorem State.setSp_mem (x : Word32) : (s.setSp x).mem = s.mem := rfl
@[simp] theorem State.setSp_io (x : Word32) : (s.setSp x).io = s.io := rfl
@[simp] theorem State.setSp_free (x : Word32) : (s.setSp x).free = s.free := rfl
@[simp] theorem State.setSp_params (x : Word32) : (s.setSp x).params = s.params := rfl

-- setRegV
@[simp] theorem State.setRegV_eip (p : Prefixes) (r : Reg) (v : Word32) : (s.setRegV p r v).eip = s.eip := by unfold State.setRegV; split <;> rfl
@[simp] theorem State.setRegV_eflags (p : Prefixes) (r : Reg) (v : Word32) : (s.setRegV p r v).eflags = s.eflags := by unfold State.setRegV; split <;> rfl
@[simp] theorem State.setRegV_es (p : Prefixes) (r : Reg) (v : Word32) : (s.setRegV p r v).es = s.es := by unfold State.setRegV; split <;> rfl
@[simp] theorem State.setRegV_cs (p : Prefixes) (r : Reg) (v : Word32) : (s.setRegV p r v).cs = s.cs := by unfold State.setRegV; split <;> rfl
@[simp] theorem State.setRegV_ss (p : Prefixes) (r : Reg) (v : Word32) : (s.setRegV p r v).ss = s.ss := by unfold State.setRegV; split <;> rfl
@[simp] theorem State.setRegV_ds (p : Prefixes) (r : Reg) (v : Word32) : (s.setRegV p r v).ds = s.ds := by unfold State.setRegV; split <;> rfl
@[simp] theorem State.setRegV_fs (p : Prefixes) (r : Reg) (v : Word32) : (s.setRegV p r v).fs = s.fs := by unfold State.setRegV; split <;> rfl
@[simp] theorem State.setRegV_gs (p : Prefixes) (r : Reg) (v : Word32) : (s.setRegV p r v).gs = s.gs := by unfold State.setRegV; split <;> rfl
@[simp] theorem State.setRegV_gdtr (p : Prefixes) (r : Reg) (v : Word32) : (s.setRegV p r v).gdtr = s.gdtr := by unfold State.setRegV; split <;> rfl
@[simp] theorem State.setRegV_idtr (p : Prefixes) (r : Reg) (v : Word32) : (s.setRegV p r v).idtr = s.idtr := by unfold State.setRegV; split <;> rfl
@[simp] theorem State.setRegV_ldtr (p : Prefixes) (r : Reg) (v : Word32) : (s.setRegV p r v).ldtr = s.ldtr := by unfold State.setRegV; split <;> rfl
@[simp] theorem State.setRegV_tr (p : Prefixes) (r : Reg) (v : Word32) : (s.setRegV p r v).tr = s.tr := by unfold State.setRegV; split <;> rfl
@[simp] theorem State.setRegV_cr0 (p : Prefixes) (r : Reg) (v : Word32) : (s.setRegV p r v).cr0 = s.cr0 := by unfold State.setRegV; split <;> rfl
@[simp] theorem State.setRegV_cr2 (p : Prefixes) (r : Reg) (v : Word32) : (s.setRegV p r v).cr2 = s.cr2 := by unfold State.setRegV; split <;> rfl
@[simp] theorem State.setRegV_cr3 (p : Prefixes) (r : Reg) (v : Word32) : (s.setRegV p r v).cr3 = s.cr3 := by unfold State.setRegV; split <;> rfl
@[simp] theorem State.setRegV_cr4 (p : Prefixes) (r : Reg) (v : Word32) : (s.setRegV p r v).cr4 = s.cr4 := by unfold State.setRegV; split <;> rfl
@[simp] theorem State.setRegV_dr0 (p : Prefixes) (r : Reg) (v : Word32) : (s.setRegV p r v).dr0 = s.dr0 := by unfold State.setRegV; split <;> rfl
@[simp] theorem State.setRegV_dr1 (p : Prefixes) (r : Reg) (v : Word32) : (s.setRegV p r v).dr1 = s.dr1 := by unfold State.setRegV; split <;> rfl
@[simp] theorem State.setRegV_dr2 (p : Prefixes) (r : Reg) (v : Word32) : (s.setRegV p r v).dr2 = s.dr2 := by unfold State.setRegV; split <;> rfl
@[simp] theorem State.setRegV_dr3 (p : Prefixes) (r : Reg) (v : Word32) : (s.setRegV p r v).dr3 = s.dr3 := by unfold State.setRegV; split <;> rfl
@[simp] theorem State.setRegV_dr6 (p : Prefixes) (r : Reg) (v : Word32) : (s.setRegV p r v).dr6 = s.dr6 := by unfold State.setRegV; split <;> rfl
@[simp] theorem State.setRegV_dr7 (p : Prefixes) (r : Reg) (v : Word32) : (s.setRegV p r v).dr7 = s.dr7 := by unfold State.setRegV; split <;> rfl
@[simp] theorem State.setRegV_testRegs (p : Prefixes) (r : Reg) (v : Word32) : (s.setRegV p r v).testRegs = s.testRegs := by unfold State.setRegV; split <;> rfl
@[simp] theorem State.setRegV_fpu (p : Prefixes) (r : Reg) (v : Word32) : (s.setRegV p r v).fpu = s.fpu := by unfold State.setRegV; split <;> rfl
@[simp] theorem State.setRegV_tsc (p : Prefixes) (r : Reg) (v : Word32) : (s.setRegV p r v).tsc = s.tsc := by unfold State.setRegV; split <;> rfl
@[simp] theorem State.setRegV_pmc0 (p : Prefixes) (r : Reg) (v : Word32) : (s.setRegV p r v).pmc0 = s.pmc0 := by unfold State.setRegV; split <;> rfl
@[simp] theorem State.setRegV_pmc1 (p : Prefixes) (r : Reg) (v : Word32) : (s.setRegV p r v).pmc1 = s.pmc1 := by unfold State.setRegV; split <;> rfl
@[simp] theorem State.setRegV_msrs (p : Prefixes) (r : Reg) (v : Word32) : (s.setRegV p r v).msrs = s.msrs := by unfold State.setRegV; split <;> rfl
@[simp] theorem State.setRegV_mxcsr (p : Prefixes) (r : Reg) (v : Word32) : (s.setRegV p r v).mxcsr = s.mxcsr := by unfold State.setRegV; split <;> rfl
@[simp] theorem State.setRegV_nmiBlocked (p : Prefixes) (r : Reg) (v : Word32) : (s.setRegV p r v).nmiBlocked = s.nmiBlocked := by unfold State.setRegV; split <;> rfl
@[simp] theorem State.setRegV_nmiPending (p : Prefixes) (r : Reg) (v : Word32) : (s.setRegV p r v).nmiPending = s.nmiPending := by unfold State.setRegV; split <;> rfl
@[simp] theorem State.setRegV_inhibitSs (p : Prefixes) (r : Reg) (v : Word32) : (s.setRegV p r v).inhibitSs = s.inhibitSs := by unfold State.setRegV; split <;> rfl
@[simp] theorem State.setRegV_inhibitSti (p : Prefixes) (r : Reg) (v : Word32) : (s.setRegV p r v).inhibitSti = s.inhibitSti := by unfold State.setRegV; split <;> rfl
@[simp] theorem State.setRegV_dbPending (p : Prefixes) (r : Reg) (v : Word32) : (s.setRegV p r v).dbPending = s.dbPending := by unfold State.setRegV; split <;> rfl
@[simp] theorem State.setRegV_tlb (p : Prefixes) (r : Reg) (v : Word32) : (s.setRegV p r v).tlb = s.tlb := by unfold State.setRegV; split <;> rfl
@[simp] theorem State.setRegV_run (p : Prefixes) (r : Reg) (v : Word32) : (s.setRegV p r v).run = s.run := by unfold State.setRegV; split <;> rfl
@[simp] theorem State.setRegV_intr (p : Prefixes) (r : Reg) (v : Word32) : (s.setRegV p r v).intr = s.intr := by unfold State.setRegV; split <;> rfl
@[simp] theorem State.setRegV_nmiEdge (p : Prefixes) (r : Reg) (v : Word32) : (s.setRegV p r v).nmiEdge = s.nmiEdge := by unfold State.setRegV; split <;> rfl
@[simp] theorem State.setRegV_resetLine (p : Prefixes) (r : Reg) (v : Word32) : (s.setRegV p r v).resetLine = s.resetLine := by unfold State.setRegV; split <;> rfl
@[simp] theorem State.setRegV_ignne (p : Prefixes) (r : Reg) (v : Word32) : (s.setRegV p r v).ignne = s.ignne := by unfold State.setRegV; split <;> rfl
@[simp] theorem State.setRegV_mem (p : Prefixes) (r : Reg) (v : Word32) : (s.setRegV p r v).mem = s.mem := by unfold State.setRegV; split <;> rfl
@[simp] theorem State.setRegV_io (p : Prefixes) (r : Reg) (v : Word32) : (s.setRegV p r v).io = s.io := by unfold State.setRegV; split <;> rfl
@[simp] theorem State.setRegV_free (p : Prefixes) (r : Reg) (v : Word32) : (s.setRegV p r v).free = s.free := by unfold State.setRegV; split <;> rfl
@[simp] theorem State.setRegV_params (p : Prefixes) (r : Reg) (v : Word32) : (s.setRegV p r v).params = s.params := by unfold State.setRegV; split <;> rfl

-- setEdxEax
@[simp] theorem State.setEdxEax_eip (v : BitVec 64) : (s.setEdxEax v).eip = s.eip := rfl
@[simp] theorem State.setEdxEax_eflags (v : BitVec 64) : (s.setEdxEax v).eflags = s.eflags := rfl
@[simp] theorem State.setEdxEax_es (v : BitVec 64) : (s.setEdxEax v).es = s.es := rfl
@[simp] theorem State.setEdxEax_cs (v : BitVec 64) : (s.setEdxEax v).cs = s.cs := rfl
@[simp] theorem State.setEdxEax_ss (v : BitVec 64) : (s.setEdxEax v).ss = s.ss := rfl
@[simp] theorem State.setEdxEax_ds (v : BitVec 64) : (s.setEdxEax v).ds = s.ds := rfl
@[simp] theorem State.setEdxEax_fs (v : BitVec 64) : (s.setEdxEax v).fs = s.fs := rfl
@[simp] theorem State.setEdxEax_gs (v : BitVec 64) : (s.setEdxEax v).gs = s.gs := rfl
@[simp] theorem State.setEdxEax_gdtr (v : BitVec 64) : (s.setEdxEax v).gdtr = s.gdtr := rfl
@[simp] theorem State.setEdxEax_idtr (v : BitVec 64) : (s.setEdxEax v).idtr = s.idtr := rfl
@[simp] theorem State.setEdxEax_ldtr (v : BitVec 64) : (s.setEdxEax v).ldtr = s.ldtr := rfl
@[simp] theorem State.setEdxEax_tr (v : BitVec 64) : (s.setEdxEax v).tr = s.tr := rfl
@[simp] theorem State.setEdxEax_cr0 (v : BitVec 64) : (s.setEdxEax v).cr0 = s.cr0 := rfl
@[simp] theorem State.setEdxEax_cr2 (v : BitVec 64) : (s.setEdxEax v).cr2 = s.cr2 := rfl
@[simp] theorem State.setEdxEax_cr3 (v : BitVec 64) : (s.setEdxEax v).cr3 = s.cr3 := rfl
@[simp] theorem State.setEdxEax_cr4 (v : BitVec 64) : (s.setEdxEax v).cr4 = s.cr4 := rfl
@[simp] theorem State.setEdxEax_dr0 (v : BitVec 64) : (s.setEdxEax v).dr0 = s.dr0 := rfl
@[simp] theorem State.setEdxEax_dr1 (v : BitVec 64) : (s.setEdxEax v).dr1 = s.dr1 := rfl
@[simp] theorem State.setEdxEax_dr2 (v : BitVec 64) : (s.setEdxEax v).dr2 = s.dr2 := rfl
@[simp] theorem State.setEdxEax_dr3 (v : BitVec 64) : (s.setEdxEax v).dr3 = s.dr3 := rfl
@[simp] theorem State.setEdxEax_dr6 (v : BitVec 64) : (s.setEdxEax v).dr6 = s.dr6 := rfl
@[simp] theorem State.setEdxEax_dr7 (v : BitVec 64) : (s.setEdxEax v).dr7 = s.dr7 := rfl
@[simp] theorem State.setEdxEax_testRegs (v : BitVec 64) : (s.setEdxEax v).testRegs = s.testRegs := rfl
@[simp] theorem State.setEdxEax_fpu (v : BitVec 64) : (s.setEdxEax v).fpu = s.fpu := rfl
@[simp] theorem State.setEdxEax_tsc (v : BitVec 64) : (s.setEdxEax v).tsc = s.tsc := rfl
@[simp] theorem State.setEdxEax_pmc0 (v : BitVec 64) : (s.setEdxEax v).pmc0 = s.pmc0 := rfl
@[simp] theorem State.setEdxEax_pmc1 (v : BitVec 64) : (s.setEdxEax v).pmc1 = s.pmc1 := rfl
@[simp] theorem State.setEdxEax_msrs (v : BitVec 64) : (s.setEdxEax v).msrs = s.msrs := rfl
@[simp] theorem State.setEdxEax_mxcsr (v : BitVec 64) : (s.setEdxEax v).mxcsr = s.mxcsr := rfl
@[simp] theorem State.setEdxEax_nmiBlocked (v : BitVec 64) : (s.setEdxEax v).nmiBlocked = s.nmiBlocked := rfl
@[simp] theorem State.setEdxEax_nmiPending (v : BitVec 64) : (s.setEdxEax v).nmiPending = s.nmiPending := rfl
@[simp] theorem State.setEdxEax_inhibitSs (v : BitVec 64) : (s.setEdxEax v).inhibitSs = s.inhibitSs := rfl
@[simp] theorem State.setEdxEax_inhibitSti (v : BitVec 64) : (s.setEdxEax v).inhibitSti = s.inhibitSti := rfl
@[simp] theorem State.setEdxEax_dbPending (v : BitVec 64) : (s.setEdxEax v).dbPending = s.dbPending := rfl
@[simp] theorem State.setEdxEax_tlb (v : BitVec 64) : (s.setEdxEax v).tlb = s.tlb := rfl
@[simp] theorem State.setEdxEax_run (v : BitVec 64) : (s.setEdxEax v).run = s.run := rfl
@[simp] theorem State.setEdxEax_intr (v : BitVec 64) : (s.setEdxEax v).intr = s.intr := rfl
@[simp] theorem State.setEdxEax_nmiEdge (v : BitVec 64) : (s.setEdxEax v).nmiEdge = s.nmiEdge := rfl
@[simp] theorem State.setEdxEax_resetLine (v : BitVec 64) : (s.setEdxEax v).resetLine = s.resetLine := rfl
@[simp] theorem State.setEdxEax_ignne (v : BitVec 64) : (s.setEdxEax v).ignne = s.ignne := rfl
@[simp] theorem State.setEdxEax_mem (v : BitVec 64) : (s.setEdxEax v).mem = s.mem := rfl
@[simp] theorem State.setEdxEax_io (v : BitVec 64) : (s.setEdxEax v).io = s.io := rfl
@[simp] theorem State.setEdxEax_free (v : BitVec 64) : (s.setEdxEax v).free = s.free := rfl
@[simp] theorem State.setEdxEax_params (v : BitVec 64) : (s.setEdxEax v).params = s.params := rfl

-- setAcc
@[simp] theorem State.setAcc_eip (n : Nat) (v : Word32) : (s.setAcc n v).eip = s.eip := rfl
@[simp] theorem State.setAcc_eflags (n : Nat) (v : Word32) : (s.setAcc n v).eflags = s.eflags := rfl
@[simp] theorem State.setAcc_es (n : Nat) (v : Word32) : (s.setAcc n v).es = s.es := rfl
@[simp] theorem State.setAcc_cs (n : Nat) (v : Word32) : (s.setAcc n v).cs = s.cs := rfl
@[simp] theorem State.setAcc_ss (n : Nat) (v : Word32) : (s.setAcc n v).ss = s.ss := rfl
@[simp] theorem State.setAcc_ds (n : Nat) (v : Word32) : (s.setAcc n v).ds = s.ds := rfl
@[simp] theorem State.setAcc_fs (n : Nat) (v : Word32) : (s.setAcc n v).fs = s.fs := rfl
@[simp] theorem State.setAcc_gs (n : Nat) (v : Word32) : (s.setAcc n v).gs = s.gs := rfl
@[simp] theorem State.setAcc_gdtr (n : Nat) (v : Word32) : (s.setAcc n v).gdtr = s.gdtr := rfl
@[simp] theorem State.setAcc_idtr (n : Nat) (v : Word32) : (s.setAcc n v).idtr = s.idtr := rfl
@[simp] theorem State.setAcc_ldtr (n : Nat) (v : Word32) : (s.setAcc n v).ldtr = s.ldtr := rfl
@[simp] theorem State.setAcc_tr (n : Nat) (v : Word32) : (s.setAcc n v).tr = s.tr := rfl
@[simp] theorem State.setAcc_cr0 (n : Nat) (v : Word32) : (s.setAcc n v).cr0 = s.cr0 := rfl
@[simp] theorem State.setAcc_cr2 (n : Nat) (v : Word32) : (s.setAcc n v).cr2 = s.cr2 := rfl
@[simp] theorem State.setAcc_cr3 (n : Nat) (v : Word32) : (s.setAcc n v).cr3 = s.cr3 := rfl
@[simp] theorem State.setAcc_cr4 (n : Nat) (v : Word32) : (s.setAcc n v).cr4 = s.cr4 := rfl
@[simp] theorem State.setAcc_dr0 (n : Nat) (v : Word32) : (s.setAcc n v).dr0 = s.dr0 := rfl
@[simp] theorem State.setAcc_dr1 (n : Nat) (v : Word32) : (s.setAcc n v).dr1 = s.dr1 := rfl
@[simp] theorem State.setAcc_dr2 (n : Nat) (v : Word32) : (s.setAcc n v).dr2 = s.dr2 := rfl
@[simp] theorem State.setAcc_dr3 (n : Nat) (v : Word32) : (s.setAcc n v).dr3 = s.dr3 := rfl
@[simp] theorem State.setAcc_dr6 (n : Nat) (v : Word32) : (s.setAcc n v).dr6 = s.dr6 := rfl
@[simp] theorem State.setAcc_dr7 (n : Nat) (v : Word32) : (s.setAcc n v).dr7 = s.dr7 := rfl
@[simp] theorem State.setAcc_testRegs (n : Nat) (v : Word32) : (s.setAcc n v).testRegs = s.testRegs := rfl
@[simp] theorem State.setAcc_fpu (n : Nat) (v : Word32) : (s.setAcc n v).fpu = s.fpu := rfl
@[simp] theorem State.setAcc_tsc (n : Nat) (v : Word32) : (s.setAcc n v).tsc = s.tsc := rfl
@[simp] theorem State.setAcc_pmc0 (n : Nat) (v : Word32) : (s.setAcc n v).pmc0 = s.pmc0 := rfl
@[simp] theorem State.setAcc_pmc1 (n : Nat) (v : Word32) : (s.setAcc n v).pmc1 = s.pmc1 := rfl
@[simp] theorem State.setAcc_msrs (n : Nat) (v : Word32) : (s.setAcc n v).msrs = s.msrs := rfl
@[simp] theorem State.setAcc_mxcsr (n : Nat) (v : Word32) : (s.setAcc n v).mxcsr = s.mxcsr := rfl
@[simp] theorem State.setAcc_nmiBlocked (n : Nat) (v : Word32) : (s.setAcc n v).nmiBlocked = s.nmiBlocked := rfl
@[simp] theorem State.setAcc_nmiPending (n : Nat) (v : Word32) : (s.setAcc n v).nmiPending = s.nmiPending := rfl
@[simp] theorem State.setAcc_inhibitSs (n : Nat) (v : Word32) : (s.setAcc n v).inhibitSs = s.inhibitSs := rfl
@[simp] theorem State.setAcc_inhibitSti (n : Nat) (v : Word32) : (s.setAcc n v).inhibitSti = s.inhibitSti := rfl
@[simp] theorem State.setAcc_dbPending (n : Nat) (v : Word32) : (s.setAcc n v).dbPending = s.dbPending := rfl
@[simp] theorem State.setAcc_tlb (n : Nat) (v : Word32) : (s.setAcc n v).tlb = s.tlb := rfl
@[simp] theorem State.setAcc_run (n : Nat) (v : Word32) : (s.setAcc n v).run = s.run := rfl
@[simp] theorem State.setAcc_intr (n : Nat) (v : Word32) : (s.setAcc n v).intr = s.intr := rfl
@[simp] theorem State.setAcc_nmiEdge (n : Nat) (v : Word32) : (s.setAcc n v).nmiEdge = s.nmiEdge := rfl
@[simp] theorem State.setAcc_resetLine (n : Nat) (v : Word32) : (s.setAcc n v).resetLine = s.resetLine := rfl
@[simp] theorem State.setAcc_ignne (n : Nat) (v : Word32) : (s.setAcc n v).ignne = s.ignne := rfl
@[simp] theorem State.setAcc_mem (n : Nat) (v : Word32) : (s.setAcc n v).mem = s.mem := rfl
@[simp] theorem State.setAcc_io (n : Nat) (v : Word32) : (s.setAcc n v).io = s.io := rfl
@[simp] theorem State.setAcc_free (n : Nat) (v : Word32) : (s.setAcc n v).free = s.free := rfl
@[simp] theorem State.setAcc_params (n : Nat) (v : Word32) : (s.setAcc n v).params = s.params := rfl

-- moveAddrReg
@[simp] theorem State.moveAddrReg_eip (p : Prefixes) (r : Reg) (d : Word32) : (s.moveAddrReg p r d).eip = s.eip := by unfold State.moveAddrReg; split <;> rfl
@[simp] theorem State.moveAddrReg_eflags (p : Prefixes) (r : Reg) (d : Word32) : (s.moveAddrReg p r d).eflags = s.eflags := by unfold State.moveAddrReg; split <;> rfl
@[simp] theorem State.moveAddrReg_es (p : Prefixes) (r : Reg) (d : Word32) : (s.moveAddrReg p r d).es = s.es := by unfold State.moveAddrReg; split <;> rfl
@[simp] theorem State.moveAddrReg_cs (p : Prefixes) (r : Reg) (d : Word32) : (s.moveAddrReg p r d).cs = s.cs := by unfold State.moveAddrReg; split <;> rfl
@[simp] theorem State.moveAddrReg_ss (p : Prefixes) (r : Reg) (d : Word32) : (s.moveAddrReg p r d).ss = s.ss := by unfold State.moveAddrReg; split <;> rfl
@[simp] theorem State.moveAddrReg_ds (p : Prefixes) (r : Reg) (d : Word32) : (s.moveAddrReg p r d).ds = s.ds := by unfold State.moveAddrReg; split <;> rfl
@[simp] theorem State.moveAddrReg_fs (p : Prefixes) (r : Reg) (d : Word32) : (s.moveAddrReg p r d).fs = s.fs := by unfold State.moveAddrReg; split <;> rfl
@[simp] theorem State.moveAddrReg_gs (p : Prefixes) (r : Reg) (d : Word32) : (s.moveAddrReg p r d).gs = s.gs := by unfold State.moveAddrReg; split <;> rfl
@[simp] theorem State.moveAddrReg_gdtr (p : Prefixes) (r : Reg) (d : Word32) : (s.moveAddrReg p r d).gdtr = s.gdtr := by unfold State.moveAddrReg; split <;> rfl
@[simp] theorem State.moveAddrReg_idtr (p : Prefixes) (r : Reg) (d : Word32) : (s.moveAddrReg p r d).idtr = s.idtr := by unfold State.moveAddrReg; split <;> rfl
@[simp] theorem State.moveAddrReg_ldtr (p : Prefixes) (r : Reg) (d : Word32) : (s.moveAddrReg p r d).ldtr = s.ldtr := by unfold State.moveAddrReg; split <;> rfl
@[simp] theorem State.moveAddrReg_tr (p : Prefixes) (r : Reg) (d : Word32) : (s.moveAddrReg p r d).tr = s.tr := by unfold State.moveAddrReg; split <;> rfl
@[simp] theorem State.moveAddrReg_cr0 (p : Prefixes) (r : Reg) (d : Word32) : (s.moveAddrReg p r d).cr0 = s.cr0 := by unfold State.moveAddrReg; split <;> rfl
@[simp] theorem State.moveAddrReg_cr2 (p : Prefixes) (r : Reg) (d : Word32) : (s.moveAddrReg p r d).cr2 = s.cr2 := by unfold State.moveAddrReg; split <;> rfl
@[simp] theorem State.moveAddrReg_cr3 (p : Prefixes) (r : Reg) (d : Word32) : (s.moveAddrReg p r d).cr3 = s.cr3 := by unfold State.moveAddrReg; split <;> rfl
@[simp] theorem State.moveAddrReg_cr4 (p : Prefixes) (r : Reg) (d : Word32) : (s.moveAddrReg p r d).cr4 = s.cr4 := by unfold State.moveAddrReg; split <;> rfl
@[simp] theorem State.moveAddrReg_dr0 (p : Prefixes) (r : Reg) (d : Word32) : (s.moveAddrReg p r d).dr0 = s.dr0 := by unfold State.moveAddrReg; split <;> rfl
@[simp] theorem State.moveAddrReg_dr1 (p : Prefixes) (r : Reg) (d : Word32) : (s.moveAddrReg p r d).dr1 = s.dr1 := by unfold State.moveAddrReg; split <;> rfl
@[simp] theorem State.moveAddrReg_dr2 (p : Prefixes) (r : Reg) (d : Word32) : (s.moveAddrReg p r d).dr2 = s.dr2 := by unfold State.moveAddrReg; split <;> rfl
@[simp] theorem State.moveAddrReg_dr3 (p : Prefixes) (r : Reg) (d : Word32) : (s.moveAddrReg p r d).dr3 = s.dr3 := by unfold State.moveAddrReg; split <;> rfl
@[simp] theorem State.moveAddrReg_dr6 (p : Prefixes) (r : Reg) (d : Word32) : (s.moveAddrReg p r d).dr6 = s.dr6 := by unfold State.moveAddrReg; split <;> rfl
@[simp] theorem State.moveAddrReg_dr7 (p : Prefixes) (r : Reg) (d : Word32) : (s.moveAddrReg p r d).dr7 = s.dr7 := by unfold State.moveAddrReg; split <;> rfl
@[simp] theorem State.moveAddrReg_testRegs (p : Prefixes) (r : Reg) (d : Word32) : (s.moveAddrReg p r d).testRegs = s.testRegs := by unfold State.moveAddrReg; split <;> rfl
@[simp] theorem State.moveAddrReg_fpu (p : Prefixes) (r : Reg) (d : Word32) : (s.moveAddrReg p r d).fpu = s.fpu := by unfold State.moveAddrReg; split <;> rfl
@[simp] theorem State.moveAddrReg_tsc (p : Prefixes) (r : Reg) (d : Word32) : (s.moveAddrReg p r d).tsc = s.tsc := by unfold State.moveAddrReg; split <;> rfl
@[simp] theorem State.moveAddrReg_pmc0 (p : Prefixes) (r : Reg) (d : Word32) : (s.moveAddrReg p r d).pmc0 = s.pmc0 := by unfold State.moveAddrReg; split <;> rfl
@[simp] theorem State.moveAddrReg_pmc1 (p : Prefixes) (r : Reg) (d : Word32) : (s.moveAddrReg p r d).pmc1 = s.pmc1 := by unfold State.moveAddrReg; split <;> rfl
@[simp] theorem State.moveAddrReg_msrs (p : Prefixes) (r : Reg) (d : Word32) : (s.moveAddrReg p r d).msrs = s.msrs := by unfold State.moveAddrReg; split <;> rfl
@[simp] theorem State.moveAddrReg_mxcsr (p : Prefixes) (r : Reg) (d : Word32) : (s.moveAddrReg p r d).mxcsr = s.mxcsr := by unfold State.moveAddrReg; split <;> rfl
@[simp] theorem State.moveAddrReg_nmiBlocked (p : Prefixes) (r : Reg) (d : Word32) : (s.moveAddrReg p r d).nmiBlocked = s.nmiBlocked := by unfold State.moveAddrReg; split <;> rfl
@[simp] theorem State.moveAddrReg_nmiPending (p : Prefixes) (r : Reg) (d : Word32) : (s.moveAddrReg p r d).nmiPending = s.nmiPending := by unfold State.moveAddrReg; split <;> rfl
@[simp] theorem State.moveAddrReg_inhibitSs (p : Prefixes) (r : Reg) (d : Word32) : (s.moveAddrReg p r d).inhibitSs = s.inhibitSs := by unfold State.moveAddrReg; split <;> rfl
@[simp] theorem State.moveAddrReg_inhibitSti (p : Prefixes) (r : Reg) (d : Word32) : (s.moveAddrReg p r d).inhibitSti = s.inhibitSti := by unfold State.moveAddrReg; split <;> rfl
@[simp] theorem State.moveAddrReg_dbPending (p : Prefixes) (r : Reg) (d : Word32) : (s.moveAddrReg p r d).dbPending = s.dbPending := by unfold State.moveAddrReg; split <;> rfl
@[simp] theorem State.moveAddrReg_tlb (p : Prefixes) (r : Reg) (d : Word32) : (s.moveAddrReg p r d).tlb = s.tlb := by unfold State.moveAddrReg; split <;> rfl
@[simp] theorem State.moveAddrReg_run (p : Prefixes) (r : Reg) (d : Word32) : (s.moveAddrReg p r d).run = s.run := by unfold State.moveAddrReg; split <;> rfl
@[simp] theorem State.moveAddrReg_intr (p : Prefixes) (r : Reg) (d : Word32) : (s.moveAddrReg p r d).intr = s.intr := by unfold State.moveAddrReg; split <;> rfl
@[simp] theorem State.moveAddrReg_nmiEdge (p : Prefixes) (r : Reg) (d : Word32) : (s.moveAddrReg p r d).nmiEdge = s.nmiEdge := by unfold State.moveAddrReg; split <;> rfl
@[simp] theorem State.moveAddrReg_resetLine (p : Prefixes) (r : Reg) (d : Word32) : (s.moveAddrReg p r d).resetLine = s.resetLine := by unfold State.moveAddrReg; split <;> rfl
@[simp] theorem State.moveAddrReg_ignne (p : Prefixes) (r : Reg) (d : Word32) : (s.moveAddrReg p r d).ignne = s.ignne := by unfold State.moveAddrReg; split <;> rfl
@[simp] theorem State.moveAddrReg_mem (p : Prefixes) (r : Reg) (d : Word32) : (s.moveAddrReg p r d).mem = s.mem := by unfold State.moveAddrReg; split <;> rfl
@[simp] theorem State.moveAddrReg_io (p : Prefixes) (r : Reg) (d : Word32) : (s.moveAddrReg p r d).io = s.io := by unfold State.moveAddrReg; split <;> rfl
@[simp] theorem State.moveAddrReg_free (p : Prefixes) (r : Reg) (d : Word32) : (s.moveAddrReg p r d).free = s.free := by unfold State.moveAddrReg; split <;> rfl
@[simp] theorem State.moveAddrReg_params (p : Prefixes) (r : Reg) (d : Word32) : (s.moveAddrReg p r d).params = s.params := by unfold State.moveAddrReg; split <;> rfl

-- setFlag
@[simp] theorem State.setFlag_gpr (n : Nat) (b : Bool) : (s.setFlag n b).gpr = s.gpr := rfl
@[simp] theorem State.setFlag_eip (n : Nat) (b : Bool) : (s.setFlag n b).eip = s.eip := rfl
@[simp] theorem State.setFlag_es (n : Nat) (b : Bool) : (s.setFlag n b).es = s.es := rfl
@[simp] theorem State.setFlag_cs (n : Nat) (b : Bool) : (s.setFlag n b).cs = s.cs := rfl
@[simp] theorem State.setFlag_ss (n : Nat) (b : Bool) : (s.setFlag n b).ss = s.ss := rfl
@[simp] theorem State.setFlag_ds (n : Nat) (b : Bool) : (s.setFlag n b).ds = s.ds := rfl
@[simp] theorem State.setFlag_fs (n : Nat) (b : Bool) : (s.setFlag n b).fs = s.fs := rfl
@[simp] theorem State.setFlag_gs (n : Nat) (b : Bool) : (s.setFlag n b).gs = s.gs := rfl
@[simp] theorem State.setFlag_gdtr (n : Nat) (b : Bool) : (s.setFlag n b).gdtr = s.gdtr := rfl
@[simp] theorem State.setFlag_idtr (n : Nat) (b : Bool) : (s.setFlag n b).idtr = s.idtr := rfl
@[simp] theorem State.setFlag_ldtr (n : Nat) (b : Bool) : (s.setFlag n b).ldtr = s.ldtr := rfl
@[simp] theorem State.setFlag_tr (n : Nat) (b : Bool) : (s.setFlag n b).tr = s.tr := rfl
@[simp] theorem State.setFlag_cr0 (n : Nat) (b : Bool) : (s.setFlag n b).cr0 = s.cr0 := rfl
@[simp] theorem State.setFlag_cr2 (n : Nat) (b : Bool) : (s.setFlag n b).cr2 = s.cr2 := rfl
@[simp] theorem State.setFlag_cr3 (n : Nat) (b : Bool) : (s.setFlag n b).cr3 = s.cr3 := rfl
@[simp] theorem State.setFlag_cr4 (n : Nat) (b : Bool) : (s.setFlag n b).cr4 = s.cr4 := rfl
@[simp] theorem State.setFlag_dr0 (n : Nat) (b : Bool) : (s.setFlag n b).dr0 = s.dr0 := rfl
@[simp] theorem State.setFlag_dr1 (n : Nat) (b : Bool) : (s.setFlag n b).dr1 = s.dr1 := rfl
@[simp] theorem State.setFlag_dr2 (n : Nat) (b : Bool) : (s.setFlag n b).dr2 = s.dr2 := rfl
@[simp] theorem State.setFlag_dr3 (n : Nat) (b : Bool) : (s.setFlag n b).dr3 = s.dr3 := rfl
@[simp] theorem State.setFlag_dr6 (n : Nat) (b : Bool) : (s.setFlag n b).dr6 = s.dr6 := rfl
@[simp] theorem State.setFlag_dr7 (n : Nat) (b : Bool) : (s.setFlag n b).dr7 = s.dr7 := rfl
@[simp] theorem State.setFlag_testRegs (n : Nat) (b : Bool) : (s.setFlag n b).testRegs = s.testRegs := rfl
@[simp] theorem State.setFlag_fpu (n : Nat) (b : Bool) : (s.setFlag n b).fpu = s.fpu := rfl
@[simp] theorem State.setFlag_tsc (n : Nat) (b : Bool) : (s.setFlag n b).tsc = s.tsc := rfl
@[simp] theorem State.setFlag_pmc0 (n : Nat) (b : Bool) : (s.setFlag n b).pmc0 = s.pmc0 := rfl
@[simp] theorem State.setFlag_pmc1 (n : Nat) (b : Bool) : (s.setFlag n b).pmc1 = s.pmc1 := rfl
@[simp] theorem State.setFlag_msrs (n : Nat) (b : Bool) : (s.setFlag n b).msrs = s.msrs := rfl
@[simp] theorem State.setFlag_mxcsr (n : Nat) (b : Bool) : (s.setFlag n b).mxcsr = s.mxcsr := rfl
@[simp] theorem State.setFlag_nmiBlocked (n : Nat) (b : Bool) : (s.setFlag n b).nmiBlocked = s.nmiBlocked := rfl
@[simp] theorem State.setFlag_nmiPending (n : Nat) (b : Bool) : (s.setFlag n b).nmiPending = s.nmiPending := rfl
@[simp] theorem State.setFlag_inhibitSs (n : Nat) (b : Bool) : (s.setFlag n b).inhibitSs = s.inhibitSs := rfl
@[simp] theorem State.setFlag_inhibitSti (n : Nat) (b : Bool) : (s.setFlag n b).inhibitSti = s.inhibitSti := rfl
@[simp] theorem State.setFlag_dbPending (n : Nat) (b : Bool) : (s.setFlag n b).dbPending = s.dbPending := rfl
@[simp] theorem State.setFlag_tlb (n : Nat) (b : Bool) : (s.setFlag n b).tlb = s.tlb := rfl
@[simp] theorem State.setFlag_run (n : Nat) (b : Bool) : (s.setFlag n b).run = s.run := rfl
@[simp] theorem State.setFlag_intr (n : Nat) (b : Bool) : (s.setFlag n b).intr = s.intr := rfl
@[simp] theorem State.setFlag_nmiEdge (n : Nat) (b : Bool) : (s.setFlag n b).nmiEdge = s.nmiEdge := rfl
@[simp] theorem State.setFlag_resetLine (n : Nat) (b : Bool) : (s.setFlag n b).resetLine = s.resetLine := rfl
@[simp] theorem State.setFlag_ignne (n : Nat) (b : Bool) : (s.setFlag n b).ignne = s.ignne := rfl
@[simp] theorem State.setFlag_mem (n : Nat) (b : Bool) : (s.setFlag n b).mem = s.mem := rfl
@[simp] theorem State.setFlag_io (n : Nat) (b : Bool) : (s.setFlag n b).io = s.io := rfl
@[simp] theorem State.setFlag_free (n : Nat) (b : Bool) : (s.setFlag n b).free = s.free := rfl
@[simp] theorem State.setFlag_params (n : Nat) (b : Bool) : (s.setFlag n b).params = s.params := rfl

-- mergeEflags
@[simp] theorem State.mergeEflags_gpr (m v : Word32) : (s.mergeEflags m v).gpr = s.gpr := rfl
@[simp] theorem State.mergeEflags_eip (m v : Word32) : (s.mergeEflags m v).eip = s.eip := rfl
@[simp] theorem State.mergeEflags_es (m v : Word32) : (s.mergeEflags m v).es = s.es := rfl
@[simp] theorem State.mergeEflags_cs (m v : Word32) : (s.mergeEflags m v).cs = s.cs := rfl
@[simp] theorem State.mergeEflags_ss (m v : Word32) : (s.mergeEflags m v).ss = s.ss := rfl
@[simp] theorem State.mergeEflags_ds (m v : Word32) : (s.mergeEflags m v).ds = s.ds := rfl
@[simp] theorem State.mergeEflags_fs (m v : Word32) : (s.mergeEflags m v).fs = s.fs := rfl
@[simp] theorem State.mergeEflags_gs (m v : Word32) : (s.mergeEflags m v).gs = s.gs := rfl
@[simp] theorem State.mergeEflags_gdtr (m v : Word32) : (s.mergeEflags m v).gdtr = s.gdtr := rfl
@[simp] theorem State.mergeEflags_idtr (m v : Word32) : (s.mergeEflags m v).idtr = s.idtr := rfl
@[simp] theorem State.mergeEflags_ldtr (m v : Word32) : (s.mergeEflags m v).ldtr = s.ldtr := rfl
@[simp] theorem State.mergeEflags_tr (m v : Word32) : (s.mergeEflags m v).tr = s.tr := rfl
@[simp] theorem State.mergeEflags_cr0 (m v : Word32) : (s.mergeEflags m v).cr0 = s.cr0 := rfl
@[simp] theorem State.mergeEflags_cr2 (m v : Word32) : (s.mergeEflags m v).cr2 = s.cr2 := rfl
@[simp] theorem State.mergeEflags_cr3 (m v : Word32) : (s.mergeEflags m v).cr3 = s.cr3 := rfl
@[simp] theorem State.mergeEflags_cr4 (m v : Word32) : (s.mergeEflags m v).cr4 = s.cr4 := rfl
@[simp] theorem State.mergeEflags_dr0 (m v : Word32) : (s.mergeEflags m v).dr0 = s.dr0 := rfl
@[simp] theorem State.mergeEflags_dr1 (m v : Word32) : (s.mergeEflags m v).dr1 = s.dr1 := rfl
@[simp] theorem State.mergeEflags_dr2 (m v : Word32) : (s.mergeEflags m v).dr2 = s.dr2 := rfl
@[simp] theorem State.mergeEflags_dr3 (m v : Word32) : (s.mergeEflags m v).dr3 = s.dr3 := rfl
@[simp] theorem State.mergeEflags_dr6 (m v : Word32) : (s.mergeEflags m v).dr6 = s.dr6 := rfl
@[simp] theorem State.mergeEflags_dr7 (m v : Word32) : (s.mergeEflags m v).dr7 = s.dr7 := rfl
@[simp] theorem State.mergeEflags_testRegs (m v : Word32) : (s.mergeEflags m v).testRegs = s.testRegs := rfl
@[simp] theorem State.mergeEflags_fpu (m v : Word32) : (s.mergeEflags m v).fpu = s.fpu := rfl
@[simp] theorem State.mergeEflags_tsc (m v : Word32) : (s.mergeEflags m v).tsc = s.tsc := rfl
@[simp] theorem State.mergeEflags_pmc0 (m v : Word32) : (s.mergeEflags m v).pmc0 = s.pmc0 := rfl
@[simp] theorem State.mergeEflags_pmc1 (m v : Word32) : (s.mergeEflags m v).pmc1 = s.pmc1 := rfl
@[simp] theorem State.mergeEflags_msrs (m v : Word32) : (s.mergeEflags m v).msrs = s.msrs := rfl
@[simp] theorem State.mergeEflags_mxcsr (m v : Word32) : (s.mergeEflags m v).mxcsr = s.mxcsr := rfl
@[simp] theorem State.mergeEflags_nmiBlocked (m v : Word32) : (s.mergeEflags m v).nmiBlocked = s.nmiBlocked := rfl
@[simp] theorem State.mergeEflags_nmiPending (m v : Word32) : (s.mergeEflags m v).nmiPending = s.nmiPending := rfl
@[simp] theorem State.mergeEflags_inhibitSs (m v : Word32) : (s.mergeEflags m v).inhibitSs = s.inhibitSs := rfl
@[simp] theorem State.mergeEflags_inhibitSti (m v : Word32) : (s.mergeEflags m v).inhibitSti = s.inhibitSti := rfl
@[simp] theorem State.mergeEflags_dbPending (m v : Word32) : (s.mergeEflags m v).dbPending = s.dbPending := rfl
@[simp] theorem State.mergeEflags_tlb (m v : Word32) : (s.mergeEflags m v).tlb = s.tlb := rfl
@[simp] theorem State.mergeEflags_run (m v : Word32) : (s.mergeEflags m v).run = s.run := rfl
@[simp] theorem State.mergeEflags_intr (m v : Word32) : (s.mergeEflags m v).intr = s.intr := rfl
@[simp] theorem State.mergeEflags_nmiEdge (m v : Word32) : (s.mergeEflags m v).nmiEdge = s.nmiEdge := rfl
@[simp] theorem State.mergeEflags_resetLine (m v : Word32) : (s.mergeEflags m v).resetLine = s.resetLine := rfl
@[simp] theorem State.mergeEflags_ignne (m v : Word32) : (s.mergeEflags m v).ignne = s.ignne := rfl
@[simp] theorem State.mergeEflags_mem (m v : Word32) : (s.mergeEflags m v).mem = s.mem := rfl
@[simp] theorem State.mergeEflags_io (m v : Word32) : (s.mergeEflags m v).io = s.io := rfl
@[simp] theorem State.mergeEflags_free (m v : Word32) : (s.mergeEflags m v).free = s.free := rfl
@[simp] theorem State.mergeEflags_params (m v : Word32) : (s.mergeEflags m v).params = s.params := rfl

-- dataBp
@[simp] theorem State.dataBp_gpr (la : Word32) (n : Nat) (w : Bool) : (s.dataBp la n w).gpr = s.gpr := rfl
@[simp] theorem State.dataBp_eip (la : Word32) (n : Nat) (w : Bool) : (s.dataBp la n w).eip = s.eip := rfl
@[simp] theorem State.dataBp_eflags (la : Word32) (n : Nat) (w : Bool) : (s.dataBp la n w).eflags = s.eflags := rfl
@[simp] theorem State.dataBp_es (la : Word32) (n : Nat) (w : Bool) : (s.dataBp la n w).es = s.es := rfl
@[simp] theorem State.dataBp_cs (la : Word32) (n : Nat) (w : Bool) : (s.dataBp la n w).cs = s.cs := rfl
@[simp] theorem State.dataBp_ss (la : Word32) (n : Nat) (w : Bool) : (s.dataBp la n w).ss = s.ss := rfl
@[simp] theorem State.dataBp_ds (la : Word32) (n : Nat) (w : Bool) : (s.dataBp la n w).ds = s.ds := rfl
@[simp] theorem State.dataBp_fs (la : Word32) (n : Nat) (w : Bool) : (s.dataBp la n w).fs = s.fs := rfl
@[simp] theorem State.dataBp_gs (la : Word32) (n : Nat) (w : Bool) : (s.dataBp la n w).gs = s.gs := rfl
@[simp] theorem State.dataBp_gdtr (la : Word32) (n : Nat) (w : Bool) : (s.dataBp la n w).gdtr = s.gdtr := rfl
@[simp] theorem State.dataBp_idtr (la : Word32) (n : Nat) (w : Bool) : (s.dataBp la n w).idtr = s.idtr := rfl
@[simp] theorem State.dataBp_ldtr (la : Word32) (n : Nat) (w : Bool) : (s.dataBp la n w).ldtr = s.ldtr := rfl
@[simp] theorem State.dataBp_tr (la : Word32) (n : Nat) (w : Bool) : (s.dataBp la n w).tr = s.tr := rfl
@[simp] theorem State.dataBp_cr0 (la : Word32) (n : Nat) (w : Bool) : (s.dataBp la n w).cr0 = s.cr0 := rfl
@[simp] theorem State.dataBp_cr2 (la : Word32) (n : Nat) (w : Bool) : (s.dataBp la n w).cr2 = s.cr2 := rfl
@[simp] theorem State.dataBp_cr3 (la : Word32) (n : Nat) (w : Bool) : (s.dataBp la n w).cr3 = s.cr3 := rfl
@[simp] theorem State.dataBp_cr4 (la : Word32) (n : Nat) (w : Bool) : (s.dataBp la n w).cr4 = s.cr4 := rfl
@[simp] theorem State.dataBp_dr0 (la : Word32) (n : Nat) (w : Bool) : (s.dataBp la n w).dr0 = s.dr0 := rfl
@[simp] theorem State.dataBp_dr1 (la : Word32) (n : Nat) (w : Bool) : (s.dataBp la n w).dr1 = s.dr1 := rfl
@[simp] theorem State.dataBp_dr2 (la : Word32) (n : Nat) (w : Bool) : (s.dataBp la n w).dr2 = s.dr2 := rfl
@[simp] theorem State.dataBp_dr3 (la : Word32) (n : Nat) (w : Bool) : (s.dataBp la n w).dr3 = s.dr3 := rfl
@[simp] theorem State.dataBp_dr6 (la : Word32) (n : Nat) (w : Bool) : (s.dataBp la n w).dr6 = s.dr6 := rfl
@[simp] theorem State.dataBp_dr7 (la : Word32) (n : Nat) (w : Bool) : (s.dataBp la n w).dr7 = s.dr7 := rfl
@[simp] theorem State.dataBp_testRegs (la : Word32) (n : Nat) (w : Bool) : (s.dataBp la n w).testRegs = s.testRegs := rfl
@[simp] theorem State.dataBp_fpu (la : Word32) (n : Nat) (w : Bool) : (s.dataBp la n w).fpu = s.fpu := rfl
@[simp] theorem State.dataBp_tsc (la : Word32) (n : Nat) (w : Bool) : (s.dataBp la n w).tsc = s.tsc := rfl
@[simp] theorem State.dataBp_pmc0 (la : Word32) (n : Nat) (w : Bool) : (s.dataBp la n w).pmc0 = s.pmc0 := rfl
@[simp] theorem State.dataBp_pmc1 (la : Word32) (n : Nat) (w : Bool) : (s.dataBp la n w).pmc1 = s.pmc1 := rfl
@[simp] theorem State.dataBp_msrs (la : Word32) (n : Nat) (w : Bool) : (s.dataBp la n w).msrs = s.msrs := rfl
@[simp] theorem State.dataBp_mxcsr (la : Word32) (n : Nat) (w : Bool) : (s.dataBp la n w).mxcsr = s.mxcsr := rfl
@[simp] theorem State.dataBp_nmiBlocked (la : Word32) (n : Nat) (w : Bool) : (s.dataBp la n w).nmiBlocked = s.nmiBlocked := rfl
@[simp] theorem State.dataBp_nmiPending (la : Word32) (n : Nat) (w : Bool) : (s.dataBp la n w).nmiPending = s.nmiPending := rfl
@[simp] theorem State.dataBp_inhibitSs (la : Word32) (n : Nat) (w : Bool) : (s.dataBp la n w).inhibitSs = s.inhibitSs := rfl
@[simp] theorem State.dataBp_inhibitSti (la : Word32) (n : Nat) (w : Bool) : (s.dataBp la n w).inhibitSti = s.inhibitSti := rfl
@[simp] theorem State.dataBp_tlb (la : Word32) (n : Nat) (w : Bool) : (s.dataBp la n w).tlb = s.tlb := rfl
@[simp] theorem State.dataBp_run (la : Word32) (n : Nat) (w : Bool) : (s.dataBp la n w).run = s.run := rfl
@[simp] theorem State.dataBp_intr (la : Word32) (n : Nat) (w : Bool) : (s.dataBp la n w).intr = s.intr := rfl
@[simp] theorem State.dataBp_nmiEdge (la : Word32) (n : Nat) (w : Bool) : (s.dataBp la n w).nmiEdge = s.nmiEdge := rfl
@[simp] theorem State.dataBp_resetLine (la : Word32) (n : Nat) (w : Bool) : (s.dataBp la n w).resetLine = s.resetLine := rfl
@[simp] theorem State.dataBp_ignne (la : Word32) (n : Nat) (w : Bool) : (s.dataBp la n w).ignne = s.ignne := rfl
@[simp] theorem State.dataBp_mem (la : Word32) (n : Nat) (w : Bool) : (s.dataBp la n w).mem = s.mem := rfl
@[simp] theorem State.dataBp_io (la : Word32) (n : Nat) (w : Bool) : (s.dataBp la n w).io = s.io := rfl
@[simp] theorem State.dataBp_free (la : Word32) (n : Nat) (w : Bool) : (s.dataBp la n w).free = s.free := rfl
@[simp] theorem State.dataBp_params (la : Word32) (n : Nat) (w : Bool) : (s.dataBp la n w).params = s.params := rfl

-- setSeg
@[simp] theorem State.setSeg_gpr (r : SegReg) (g : SegState) : (s.setSeg r g).gpr = s.gpr := by cases r <;> rfl
@[simp] theorem State.setSeg_eip (r : SegReg) (g : SegState) : (s.setSeg r g).eip = s.eip := by cases r <;> rfl
@[simp] theorem State.setSeg_eflags (r : SegReg) (g : SegState) : (s.setSeg r g).eflags = s.eflags := by cases r <;> rfl
@[simp] theorem State.setSeg_gdtr (r : SegReg) (g : SegState) : (s.setSeg r g).gdtr = s.gdtr := by cases r <;> rfl
@[simp] theorem State.setSeg_idtr (r : SegReg) (g : SegState) : (s.setSeg r g).idtr = s.idtr := by cases r <;> rfl
@[simp] theorem State.setSeg_ldtr (r : SegReg) (g : SegState) : (s.setSeg r g).ldtr = s.ldtr := by cases r <;> rfl
@[simp] theorem State.setSeg_tr (r : SegReg) (g : SegState) : (s.setSeg r g).tr = s.tr := by cases r <;> rfl
@[simp] theorem State.setSeg_cr0 (r : SegReg) (g : SegState) : (s.setSeg r g).cr0 = s.cr0 := by cases r <;> rfl
@[simp] theorem State.setSeg_cr2 (r : SegReg) (g : SegState) : (s.setSeg r g).cr2 = s.cr2 := by cases r <;> rfl
@[simp] theorem State.setSeg_cr3 (r : SegReg) (g : SegState) : (s.setSeg r g).cr3 = s.cr3 := by cases r <;> rfl
@[simp] theorem State.setSeg_cr4 (r : SegReg) (g : SegState) : (s.setSeg r g).cr4 = s.cr4 := by cases r <;> rfl
@[simp] theorem State.setSeg_dr0 (r : SegReg) (g : SegState) : (s.setSeg r g).dr0 = s.dr0 := by cases r <;> rfl
@[simp] theorem State.setSeg_dr1 (r : SegReg) (g : SegState) : (s.setSeg r g).dr1 = s.dr1 := by cases r <;> rfl
@[simp] theorem State.setSeg_dr2 (r : SegReg) (g : SegState) : (s.setSeg r g).dr2 = s.dr2 := by cases r <;> rfl
@[simp] theorem State.setSeg_dr3 (r : SegReg) (g : SegState) : (s.setSeg r g).dr3 = s.dr3 := by cases r <;> rfl
@[simp] theorem State.setSeg_dr6 (r : SegReg) (g : SegState) : (s.setSeg r g).dr6 = s.dr6 := by cases r <;> rfl
@[simp] theorem State.setSeg_dr7 (r : SegReg) (g : SegState) : (s.setSeg r g).dr7 = s.dr7 := by cases r <;> rfl
@[simp] theorem State.setSeg_testRegs (r : SegReg) (g : SegState) : (s.setSeg r g).testRegs = s.testRegs := by cases r <;> rfl
@[simp] theorem State.setSeg_fpu (r : SegReg) (g : SegState) : (s.setSeg r g).fpu = s.fpu := by cases r <;> rfl
@[simp] theorem State.setSeg_tsc (r : SegReg) (g : SegState) : (s.setSeg r g).tsc = s.tsc := by cases r <;> rfl
@[simp] theorem State.setSeg_pmc0 (r : SegReg) (g : SegState) : (s.setSeg r g).pmc0 = s.pmc0 := by cases r <;> rfl
@[simp] theorem State.setSeg_pmc1 (r : SegReg) (g : SegState) : (s.setSeg r g).pmc1 = s.pmc1 := by cases r <;> rfl
@[simp] theorem State.setSeg_msrs (r : SegReg) (g : SegState) : (s.setSeg r g).msrs = s.msrs := by cases r <;> rfl
@[simp] theorem State.setSeg_mxcsr (r : SegReg) (g : SegState) : (s.setSeg r g).mxcsr = s.mxcsr := by cases r <;> rfl
@[simp] theorem State.setSeg_nmiBlocked (r : SegReg) (g : SegState) : (s.setSeg r g).nmiBlocked = s.nmiBlocked := by cases r <;> rfl
@[simp] theorem State.setSeg_nmiPending (r : SegReg) (g : SegState) : (s.setSeg r g).nmiPending = s.nmiPending := by cases r <;> rfl
@[simp] theorem State.setSeg_inhibitSs (r : SegReg) (g : SegState) : (s.setSeg r g).inhibitSs = s.inhibitSs := by cases r <;> rfl
@[simp] theorem State.setSeg_inhibitSti (r : SegReg) (g : SegState) : (s.setSeg r g).inhibitSti = s.inhibitSti := by cases r <;> rfl
@[simp] theorem State.setSeg_dbPending (r : SegReg) (g : SegState) : (s.setSeg r g).dbPending = s.dbPending := by cases r <;> rfl
@[simp] theorem State.setSeg_tlb (r : SegReg) (g : SegState) : (s.setSeg r g).tlb = s.tlb := by cases r <;> rfl
@[simp] theorem State.setSeg_run (r : SegReg) (g : SegState) : (s.setSeg r g).run = s.run := by cases r <;> rfl
@[simp] theorem State.setSeg_intr (r : SegReg) (g : SegState) : (s.setSeg r g).intr = s.intr := by cases r <;> rfl
@[simp] theorem State.setSeg_nmiEdge (r : SegReg) (g : SegState) : (s.setSeg r g).nmiEdge = s.nmiEdge := by cases r <;> rfl
@[simp] theorem State.setSeg_resetLine (r : SegReg) (g : SegState) : (s.setSeg r g).resetLine = s.resetLine := by cases r <;> rfl
@[simp] theorem State.setSeg_ignne (r : SegReg) (g : SegState) : (s.setSeg r g).ignne = s.ignne := by cases r <;> rfl
@[simp] theorem State.setSeg_mem (r : SegReg) (g : SegState) : (s.setSeg r g).mem = s.mem := by cases r <;> rfl
@[simp] theorem State.setSeg_io (r : SegReg) (g : SegState) : (s.setSeg r g).io = s.io := by cases r <;> rfl
@[simp] theorem State.setSeg_free (r : SegReg) (g : SegState) : (s.setSeg r g).free = s.free := by cases r <;> rfl
@[simp] theorem State.setSeg_params (r : SegReg) (g : SegState) : (s.setSeg r g).params = s.params := by cases r <;> rfl

-- setDr
@[simp] theorem State.setDr_gpr (n : BitVec 3) (v : Word32) : (s.setDr n v).gpr = s.gpr := by unfold State.setDr; split <;> rfl
@[simp] theorem State.setDr_eip (n : BitVec 3) (v : Word32) : (s.setDr n v).eip = s.eip := by unfold State.setDr; split <;> rfl
@[simp] theorem State.setDr_eflags (n : BitVec 3) (v : Word32) : (s.setDr n v).eflags = s.eflags := by unfold State.setDr; split <;> rfl
@[simp] theorem State.setDr_es (n : BitVec 3) (v : Word32) : (s.setDr n v).es = s.es := by unfold State.setDr; split <;> rfl
@[simp] theorem State.setDr_cs (n : BitVec 3) (v : Word32) : (s.setDr n v).cs = s.cs := by unfold State.setDr; split <;> rfl
@[simp] theorem State.setDr_ss (n : BitVec 3) (v : Word32) : (s.setDr n v).ss = s.ss := by unfold State.setDr; split <;> rfl
@[simp] theorem State.setDr_ds (n : BitVec 3) (v : Word32) : (s.setDr n v).ds = s.ds := by unfold State.setDr; split <;> rfl
@[simp] theorem State.setDr_fs (n : BitVec 3) (v : Word32) : (s.setDr n v).fs = s.fs := by unfold State.setDr; split <;> rfl
@[simp] theorem State.setDr_gs (n : BitVec 3) (v : Word32) : (s.setDr n v).gs = s.gs := by unfold State.setDr; split <;> rfl
@[simp] theorem State.setDr_gdtr (n : BitVec 3) (v : Word32) : (s.setDr n v).gdtr = s.gdtr := by unfold State.setDr; split <;> rfl
@[simp] theorem State.setDr_idtr (n : BitVec 3) (v : Word32) : (s.setDr n v).idtr = s.idtr := by unfold State.setDr; split <;> rfl
@[simp] theorem State.setDr_ldtr (n : BitVec 3) (v : Word32) : (s.setDr n v).ldtr = s.ldtr := by unfold State.setDr; split <;> rfl
@[simp] theorem State.setDr_tr (n : BitVec 3) (v : Word32) : (s.setDr n v).tr = s.tr := by unfold State.setDr; split <;> rfl
@[simp] theorem State.setDr_cr0 (n : BitVec 3) (v : Word32) : (s.setDr n v).cr0 = s.cr0 := by unfold State.setDr; split <;> rfl
@[simp] theorem State.setDr_cr2 (n : BitVec 3) (v : Word32) : (s.setDr n v).cr2 = s.cr2 := by unfold State.setDr; split <;> rfl
@[simp] theorem State.setDr_cr3 (n : BitVec 3) (v : Word32) : (s.setDr n v).cr3 = s.cr3 := by unfold State.setDr; split <;> rfl
@[simp] theorem State.setDr_cr4 (n : BitVec 3) (v : Word32) : (s.setDr n v).cr4 = s.cr4 := by unfold State.setDr; split <;> rfl
@[simp] theorem State.setDr_testRegs (n : BitVec 3) (v : Word32) : (s.setDr n v).testRegs = s.testRegs := by unfold State.setDr; split <;> rfl
@[simp] theorem State.setDr_fpu (n : BitVec 3) (v : Word32) : (s.setDr n v).fpu = s.fpu := by unfold State.setDr; split <;> rfl
@[simp] theorem State.setDr_tsc (n : BitVec 3) (v : Word32) : (s.setDr n v).tsc = s.tsc := by unfold State.setDr; split <;> rfl
@[simp] theorem State.setDr_pmc0 (n : BitVec 3) (v : Word32) : (s.setDr n v).pmc0 = s.pmc0 := by unfold State.setDr; split <;> rfl
@[simp] theorem State.setDr_pmc1 (n : BitVec 3) (v : Word32) : (s.setDr n v).pmc1 = s.pmc1 := by unfold State.setDr; split <;> rfl
@[simp] theorem State.setDr_msrs (n : BitVec 3) (v : Word32) : (s.setDr n v).msrs = s.msrs := by unfold State.setDr; split <;> rfl
@[simp] theorem State.setDr_mxcsr (n : BitVec 3) (v : Word32) : (s.setDr n v).mxcsr = s.mxcsr := by unfold State.setDr; split <;> rfl
@[simp] theorem State.setDr_nmiBlocked (n : BitVec 3) (v : Word32) : (s.setDr n v).nmiBlocked = s.nmiBlocked := by unfold State.setDr; split <;> rfl
@[simp] theorem State.setDr_nmiPending (n : BitVec 3) (v : Word32) : (s.setDr n v).nmiPending = s.nmiPending := by unfold State.setDr; split <;> rfl
@[simp] theorem State.setDr_inhibitSs (n : BitVec 3) (v : Word32) : (s.setDr n v).inhibitSs = s.inhibitSs := by unfold State.setDr; split <;> rfl
@[simp] theorem State.setDr_inhibitSti (n : BitVec 3) (v : Word32) : (s.setDr n v).inhibitSti = s.inhibitSti := by unfold State.setDr; split <;> rfl
@[simp] theorem State.setDr_dbPending (n : BitVec 3) (v : Word32) : (s.setDr n v).dbPending = s.dbPending := by unfold State.setDr; split <;> rfl
@[simp] theorem State.setDr_tlb (n : BitVec 3) (v : Word32) : (s.setDr n v).tlb = s.tlb := by unfold State.setDr; split <;> rfl
@[simp] theorem State.setDr_run (n : BitVec 3) (v : Word32) : (s.setDr n v).run = s.run := by unfold State.setDr; split <;> rfl
@[simp] theorem State.setDr_intr (n : BitVec 3) (v : Word32) : (s.setDr n v).intr = s.intr := by unfold State.setDr; split <;> rfl
@[simp] theorem State.setDr_nmiEdge (n : BitVec 3) (v : Word32) : (s.setDr n v).nmiEdge = s.nmiEdge := by unfold State.setDr; split <;> rfl
@[simp] theorem State.setDr_resetLine (n : BitVec 3) (v : Word32) : (s.setDr n v).resetLine = s.resetLine := by unfold State.setDr; split <;> rfl
@[simp] theorem State.setDr_ignne (n : BitVec 3) (v : Word32) : (s.setDr n v).ignne = s.ignne := by unfold State.setDr; split <;> rfl
@[simp] theorem State.setDr_mem (n : BitVec 3) (v : Word32) : (s.setDr n v).mem = s.mem := by unfold State.setDr; split <;> rfl
@[simp] theorem State.setDr_io (n : BitVec 3) (v : Word32) : (s.setDr n v).io = s.io := by unfold State.setDr; split <;> rfl
@[simp] theorem State.setDr_free (n : BitVec 3) (v : Word32) : (s.setDr n v).free = s.free := by unfold State.setDr; split <;> rfl
@[simp] theorem State.setDr_params (n : BitVec 3) (v : Word32) : (s.setDr n v).params = s.params := by unfold State.setDr; split <;> rfl

-- setTestReg
@[simp] theorem State.setTestReg_gpr (n : BitVec 3) (v : Word32) : (s.setTestReg n v).gpr = s.gpr := rfl
@[simp] theorem State.setTestReg_eip (n : BitVec 3) (v : Word32) : (s.setTestReg n v).eip = s.eip := rfl
@[simp] theorem State.setTestReg_eflags (n : BitVec 3) (v : Word32) : (s.setTestReg n v).eflags = s.eflags := rfl
@[simp] theorem State.setTestReg_es (n : BitVec 3) (v : Word32) : (s.setTestReg n v).es = s.es := rfl
@[simp] theorem State.setTestReg_cs (n : BitVec 3) (v : Word32) : (s.setTestReg n v).cs = s.cs := rfl
@[simp] theorem State.setTestReg_ss (n : BitVec 3) (v : Word32) : (s.setTestReg n v).ss = s.ss := rfl
@[simp] theorem State.setTestReg_ds (n : BitVec 3) (v : Word32) : (s.setTestReg n v).ds = s.ds := rfl
@[simp] theorem State.setTestReg_fs (n : BitVec 3) (v : Word32) : (s.setTestReg n v).fs = s.fs := rfl
@[simp] theorem State.setTestReg_gs (n : BitVec 3) (v : Word32) : (s.setTestReg n v).gs = s.gs := rfl
@[simp] theorem State.setTestReg_gdtr (n : BitVec 3) (v : Word32) : (s.setTestReg n v).gdtr = s.gdtr := rfl
@[simp] theorem State.setTestReg_idtr (n : BitVec 3) (v : Word32) : (s.setTestReg n v).idtr = s.idtr := rfl
@[simp] theorem State.setTestReg_ldtr (n : BitVec 3) (v : Word32) : (s.setTestReg n v).ldtr = s.ldtr := rfl
@[simp] theorem State.setTestReg_tr (n : BitVec 3) (v : Word32) : (s.setTestReg n v).tr = s.tr := rfl
@[simp] theorem State.setTestReg_cr0 (n : BitVec 3) (v : Word32) : (s.setTestReg n v).cr0 = s.cr0 := rfl
@[simp] theorem State.setTestReg_cr2 (n : BitVec 3) (v : Word32) : (s.setTestReg n v).cr2 = s.cr2 := rfl
@[simp] theorem State.setTestReg_cr3 (n : BitVec 3) (v : Word32) : (s.setTestReg n v).cr3 = s.cr3 := rfl
@[simp] theorem State.setTestReg_cr4 (n : BitVec 3) (v : Word32) : (s.setTestReg n v).cr4 = s.cr4 := rfl
@[simp] theorem State.setTestReg_dr0 (n : BitVec 3) (v : Word32) : (s.setTestReg n v).dr0 = s.dr0 := rfl
@[simp] theorem State.setTestReg_dr1 (n : BitVec 3) (v : Word32) : (s.setTestReg n v).dr1 = s.dr1 := rfl
@[simp] theorem State.setTestReg_dr2 (n : BitVec 3) (v : Word32) : (s.setTestReg n v).dr2 = s.dr2 := rfl
@[simp] theorem State.setTestReg_dr3 (n : BitVec 3) (v : Word32) : (s.setTestReg n v).dr3 = s.dr3 := rfl
@[simp] theorem State.setTestReg_dr6 (n : BitVec 3) (v : Word32) : (s.setTestReg n v).dr6 = s.dr6 := rfl
@[simp] theorem State.setTestReg_dr7 (n : BitVec 3) (v : Word32) : (s.setTestReg n v).dr7 = s.dr7 := rfl
@[simp] theorem State.setTestReg_fpu (n : BitVec 3) (v : Word32) : (s.setTestReg n v).fpu = s.fpu := rfl
@[simp] theorem State.setTestReg_tsc (n : BitVec 3) (v : Word32) : (s.setTestReg n v).tsc = s.tsc := rfl
@[simp] theorem State.setTestReg_pmc0 (n : BitVec 3) (v : Word32) : (s.setTestReg n v).pmc0 = s.pmc0 := rfl
@[simp] theorem State.setTestReg_pmc1 (n : BitVec 3) (v : Word32) : (s.setTestReg n v).pmc1 = s.pmc1 := rfl
@[simp] theorem State.setTestReg_msrs (n : BitVec 3) (v : Word32) : (s.setTestReg n v).msrs = s.msrs := rfl
@[simp] theorem State.setTestReg_mxcsr (n : BitVec 3) (v : Word32) : (s.setTestReg n v).mxcsr = s.mxcsr := rfl
@[simp] theorem State.setTestReg_nmiBlocked (n : BitVec 3) (v : Word32) : (s.setTestReg n v).nmiBlocked = s.nmiBlocked := rfl
@[simp] theorem State.setTestReg_nmiPending (n : BitVec 3) (v : Word32) : (s.setTestReg n v).nmiPending = s.nmiPending := rfl
@[simp] theorem State.setTestReg_inhibitSs (n : BitVec 3) (v : Word32) : (s.setTestReg n v).inhibitSs = s.inhibitSs := rfl
@[simp] theorem State.setTestReg_inhibitSti (n : BitVec 3) (v : Word32) : (s.setTestReg n v).inhibitSti = s.inhibitSti := rfl
@[simp] theorem State.setTestReg_dbPending (n : BitVec 3) (v : Word32) : (s.setTestReg n v).dbPending = s.dbPending := rfl
@[simp] theorem State.setTestReg_tlb (n : BitVec 3) (v : Word32) : (s.setTestReg n v).tlb = s.tlb := rfl
@[simp] theorem State.setTestReg_run (n : BitVec 3) (v : Word32) : (s.setTestReg n v).run = s.run := rfl
@[simp] theorem State.setTestReg_intr (n : BitVec 3) (v : Word32) : (s.setTestReg n v).intr = s.intr := rfl
@[simp] theorem State.setTestReg_nmiEdge (n : BitVec 3) (v : Word32) : (s.setTestReg n v).nmiEdge = s.nmiEdge := rfl
@[simp] theorem State.setTestReg_resetLine (n : BitVec 3) (v : Word32) : (s.setTestReg n v).resetLine = s.resetLine := rfl
@[simp] theorem State.setTestReg_ignne (n : BitVec 3) (v : Word32) : (s.setTestReg n v).ignne = s.ignne := rfl
@[simp] theorem State.setTestReg_mem (n : BitVec 3) (v : Word32) : (s.setTestReg n v).mem = s.mem := rfl
@[simp] theorem State.setTestReg_io (n : BitVec 3) (v : Word32) : (s.setTestReg n v).io = s.io := rfl
@[simp] theorem State.setTestReg_free (n : BitVec 3) (v : Word32) : (s.setTestReg n v).free = s.free := rfl
@[simp] theorem State.setTestReg_params (n : BitVec 3) (v : Word32) : (s.setTestReg n v).params = s.params := rfl

-- finish
@[simp] theorem State.finish_gpr (d : Done) : (s.finish d).gpr = s.gpr := by cases d <;> rfl
@[simp] theorem State.finish_eip (d : Done) : (s.finish d).eip = s.eip := by cases d <;> rfl
@[simp] theorem State.finish_es (d : Done) : (s.finish d).es = s.es := by cases d <;> rfl
@[simp] theorem State.finish_cs (d : Done) : (s.finish d).cs = s.cs := by cases d <;> rfl
@[simp] theorem State.finish_ss (d : Done) : (s.finish d).ss = s.ss := by cases d <;> rfl
@[simp] theorem State.finish_ds (d : Done) : (s.finish d).ds = s.ds := by cases d <;> rfl
@[simp] theorem State.finish_fs (d : Done) : (s.finish d).fs = s.fs := by cases d <;> rfl
@[simp] theorem State.finish_gs (d : Done) : (s.finish d).gs = s.gs := by cases d <;> rfl
@[simp] theorem State.finish_gdtr (d : Done) : (s.finish d).gdtr = s.gdtr := by cases d <;> rfl
@[simp] theorem State.finish_idtr (d : Done) : (s.finish d).idtr = s.idtr := by cases d <;> rfl
@[simp] theorem State.finish_ldtr (d : Done) : (s.finish d).ldtr = s.ldtr := by cases d <;> rfl
@[simp] theorem State.finish_tr (d : Done) : (s.finish d).tr = s.tr := by cases d <;> rfl
@[simp] theorem State.finish_cr0 (d : Done) : (s.finish d).cr0 = s.cr0 := by cases d <;> rfl
@[simp] theorem State.finish_cr2 (d : Done) : (s.finish d).cr2 = s.cr2 := by cases d <;> rfl
@[simp] theorem State.finish_cr3 (d : Done) : (s.finish d).cr3 = s.cr3 := by cases d <;> rfl
@[simp] theorem State.finish_cr4 (d : Done) : (s.finish d).cr4 = s.cr4 := by cases d <;> rfl
@[simp] theorem State.finish_dr0 (d : Done) : (s.finish d).dr0 = s.dr0 := by cases d <;> rfl
@[simp] theorem State.finish_dr1 (d : Done) : (s.finish d).dr1 = s.dr1 := by cases d <;> rfl
@[simp] theorem State.finish_dr2 (d : Done) : (s.finish d).dr2 = s.dr2 := by cases d <;> rfl
@[simp] theorem State.finish_dr3 (d : Done) : (s.finish d).dr3 = s.dr3 := by cases d <;> rfl
@[simp] theorem State.finish_dr6 (d : Done) : (s.finish d).dr6 = s.dr6 := by cases d <;> rfl
@[simp] theorem State.finish_dr7 (d : Done) : (s.finish d).dr7 = s.dr7 := by cases d <;> rfl
@[simp] theorem State.finish_testRegs (d : Done) : (s.finish d).testRegs = s.testRegs := by cases d <;> rfl
@[simp] theorem State.finish_fpu (d : Done) : (s.finish d).fpu = s.fpu := by cases d <;> rfl
@[simp] theorem State.finish_tsc (d : Done) : (s.finish d).tsc = s.tsc := by cases d <;> rfl
@[simp] theorem State.finish_pmc0 (d : Done) : (s.finish d).pmc0 = s.pmc0 := by cases d <;> rfl
@[simp] theorem State.finish_pmc1 (d : Done) : (s.finish d).pmc1 = s.pmc1 := by cases d <;> rfl
@[simp] theorem State.finish_msrs (d : Done) : (s.finish d).msrs = s.msrs := by cases d <;> rfl
@[simp] theorem State.finish_mxcsr (d : Done) : (s.finish d).mxcsr = s.mxcsr := by cases d <;> rfl
@[simp] theorem State.finish_nmiBlocked (d : Done) : (s.finish d).nmiBlocked = s.nmiBlocked := by cases d <;> rfl
@[simp] theorem State.finish_nmiPending (d : Done) : (s.finish d).nmiPending = s.nmiPending := by cases d <;> rfl
@[simp] theorem State.finish_inhibitSs (d : Done) : (s.finish d).inhibitSs = s.inhibitSs := by cases d <;> rfl
@[simp] theorem State.finish_inhibitSti (d : Done) : (s.finish d).inhibitSti = s.inhibitSti := by cases d <;> rfl
@[simp] theorem State.finish_dbPending (d : Done) : (s.finish d).dbPending = s.dbPending := by cases d <;> rfl
@[simp] theorem State.finish_tlb (d : Done) : (s.finish d).tlb = s.tlb := by cases d <;> rfl
@[simp] theorem State.finish_run (d : Done) : (s.finish d).run = s.run := by cases d <;> rfl
@[simp] theorem State.finish_intr (d : Done) : (s.finish d).intr = s.intr := by cases d <;> rfl
@[simp] theorem State.finish_nmiEdge (d : Done) : (s.finish d).nmiEdge = s.nmiEdge := by cases d <;> rfl
@[simp] theorem State.finish_resetLine (d : Done) : (s.finish d).resetLine = s.resetLine := by cases d <;> rfl
@[simp] theorem State.finish_ignne (d : Done) : (s.finish d).ignne = s.ignne := by cases d <;> rfl
@[simp] theorem State.finish_mem (d : Done) : (s.finish d).mem = s.mem := by cases d <;> rfl
@[simp] theorem State.finish_io (d : Done) : (s.finish d).io = s.io := by cases d <;> rfl
@[simp] theorem State.finish_free (d : Done) : (s.finish d).free = s.free := by cases d <;> rfl
@[simp] theorem State.finish_params (d : Done) : (s.finish d).params = s.params := by cases d <;> rfl

-- tick
@[simp] theorem State.tick_gpr : (s.tick).gpr = s.gpr := by unfold State.tick; split <;> rfl
@[simp] theorem State.tick_eip : (s.tick).eip = s.eip := by unfold State.tick; split <;> rfl
@[simp] theorem State.tick_eflags : (s.tick).eflags = s.eflags := by unfold State.tick; split <;> rfl
@[simp] theorem State.tick_es : (s.tick).es = s.es := by unfold State.tick; split <;> rfl
@[simp] theorem State.tick_cs : (s.tick).cs = s.cs := by unfold State.tick; split <;> rfl
@[simp] theorem State.tick_ss : (s.tick).ss = s.ss := by unfold State.tick; split <;> rfl
@[simp] theorem State.tick_ds : (s.tick).ds = s.ds := by unfold State.tick; split <;> rfl
@[simp] theorem State.tick_fs : (s.tick).fs = s.fs := by unfold State.tick; split <;> rfl
@[simp] theorem State.tick_gs : (s.tick).gs = s.gs := by unfold State.tick; split <;> rfl
@[simp] theorem State.tick_gdtr : (s.tick).gdtr = s.gdtr := by unfold State.tick; split <;> rfl
@[simp] theorem State.tick_idtr : (s.tick).idtr = s.idtr := by unfold State.tick; split <;> rfl
@[simp] theorem State.tick_ldtr : (s.tick).ldtr = s.ldtr := by unfold State.tick; split <;> rfl
@[simp] theorem State.tick_tr : (s.tick).tr = s.tr := by unfold State.tick; split <;> rfl
@[simp] theorem State.tick_cr0 : (s.tick).cr0 = s.cr0 := by unfold State.tick; split <;> rfl
@[simp] theorem State.tick_cr2 : (s.tick).cr2 = s.cr2 := by unfold State.tick; split <;> rfl
@[simp] theorem State.tick_cr3 : (s.tick).cr3 = s.cr3 := by unfold State.tick; split <;> rfl
@[simp] theorem State.tick_cr4 : (s.tick).cr4 = s.cr4 := by unfold State.tick; split <;> rfl
@[simp] theorem State.tick_dr0 : (s.tick).dr0 = s.dr0 := by unfold State.tick; split <;> rfl
@[simp] theorem State.tick_dr1 : (s.tick).dr1 = s.dr1 := by unfold State.tick; split <;> rfl
@[simp] theorem State.tick_dr2 : (s.tick).dr2 = s.dr2 := by unfold State.tick; split <;> rfl
@[simp] theorem State.tick_dr3 : (s.tick).dr3 = s.dr3 := by unfold State.tick; split <;> rfl
@[simp] theorem State.tick_dr6 : (s.tick).dr6 = s.dr6 := by unfold State.tick; split <;> rfl
@[simp] theorem State.tick_dr7 : (s.tick).dr7 = s.dr7 := by unfold State.tick; split <;> rfl
@[simp] theorem State.tick_testRegs : (s.tick).testRegs = s.testRegs := by unfold State.tick; split <;> rfl
@[simp] theorem State.tick_fpu : (s.tick).fpu = s.fpu := by unfold State.tick; split <;> rfl
@[simp] theorem State.tick_pmc0 : (s.tick).pmc0 = s.pmc0 := by unfold State.tick; split <;> rfl
@[simp] theorem State.tick_pmc1 : (s.tick).pmc1 = s.pmc1 := by unfold State.tick; split <;> rfl
@[simp] theorem State.tick_msrs : (s.tick).msrs = s.msrs := by unfold State.tick; split <;> rfl
@[simp] theorem State.tick_mxcsr : (s.tick).mxcsr = s.mxcsr := by unfold State.tick; split <;> rfl
@[simp] theorem State.tick_nmiBlocked : (s.tick).nmiBlocked = s.nmiBlocked := by unfold State.tick; split <;> rfl
@[simp] theorem State.tick_nmiPending : (s.tick).nmiPending = s.nmiPending := by unfold State.tick; split <;> rfl
@[simp] theorem State.tick_inhibitSs : (s.tick).inhibitSs = s.inhibitSs := by unfold State.tick; split <;> rfl
@[simp] theorem State.tick_inhibitSti : (s.tick).inhibitSti = s.inhibitSti := by unfold State.tick; split <;> rfl
@[simp] theorem State.tick_dbPending : (s.tick).dbPending = s.dbPending := by unfold State.tick; split <;> rfl
@[simp] theorem State.tick_tlb : (s.tick).tlb = s.tlb := by unfold State.tick; split <;> rfl
@[simp] theorem State.tick_run : (s.tick).run = s.run := by unfold State.tick; split <;> rfl
@[simp] theorem State.tick_intr : (s.tick).intr = s.intr := by unfold State.tick; split <;> rfl
@[simp] theorem State.tick_nmiEdge : (s.tick).nmiEdge = s.nmiEdge := by unfold State.tick; split <;> rfl
@[simp] theorem State.tick_resetLine : (s.tick).resetLine = s.resetLine := by unfold State.tick; split <;> rfl
@[simp] theorem State.tick_ignne : (s.tick).ignne = s.ignne := by unfold State.tick; split <;> rfl
@[simp] theorem State.tick_mem : (s.tick).mem = s.mem := by unfold State.tick; split <;> rfl
@[simp] theorem State.tick_io : (s.tick).io = s.io := by unfold State.tick; split <;> rfl
@[simp] theorem State.tick_params : (s.tick).params = s.params := by unfold State.tick; split <;> rfl

-- begin
@[simp] theorem State.begin_gpr : (s.begin).gpr = s.gpr := State.tick_gpr _
@[simp] theorem State.begin_eip : (s.begin).eip = s.eip := State.tick_eip _
@[simp] theorem State.begin_eflags : (s.begin).eflags = s.eflags := State.tick_eflags _
@[simp] theorem State.begin_es : (s.begin).es = s.es := State.tick_es _
@[simp] theorem State.begin_cs : (s.begin).cs = s.cs := State.tick_cs _
@[simp] theorem State.begin_ss : (s.begin).ss = s.ss := State.tick_ss _
@[simp] theorem State.begin_ds : (s.begin).ds = s.ds := State.tick_ds _
@[simp] theorem State.begin_fs : (s.begin).fs = s.fs := State.tick_fs _
@[simp] theorem State.begin_gs : (s.begin).gs = s.gs := State.tick_gs _
@[simp] theorem State.begin_gdtr : (s.begin).gdtr = s.gdtr := State.tick_gdtr _
@[simp] theorem State.begin_idtr : (s.begin).idtr = s.idtr := State.tick_idtr _
@[simp] theorem State.begin_ldtr : (s.begin).ldtr = s.ldtr := State.tick_ldtr _
@[simp] theorem State.begin_tr : (s.begin).tr = s.tr := State.tick_tr _
@[simp] theorem State.begin_cr0 : (s.begin).cr0 = s.cr0 := State.tick_cr0 _
@[simp] theorem State.begin_cr2 : (s.begin).cr2 = s.cr2 := State.tick_cr2 _
@[simp] theorem State.begin_cr3 : (s.begin).cr3 = s.cr3 := State.tick_cr3 _
@[simp] theorem State.begin_cr4 : (s.begin).cr4 = s.cr4 := State.tick_cr4 _
@[simp] theorem State.begin_dr0 : (s.begin).dr0 = s.dr0 := State.tick_dr0 _
@[simp] theorem State.begin_dr1 : (s.begin).dr1 = s.dr1 := State.tick_dr1 _
@[simp] theorem State.begin_dr2 : (s.begin).dr2 = s.dr2 := State.tick_dr2 _
@[simp] theorem State.begin_dr3 : (s.begin).dr3 = s.dr3 := State.tick_dr3 _
@[simp] theorem State.begin_dr6 : (s.begin).dr6 = s.dr6 := State.tick_dr6 _
@[simp] theorem State.begin_dr7 : (s.begin).dr7 = s.dr7 := State.tick_dr7 _
@[simp] theorem State.begin_testRegs : (s.begin).testRegs = s.testRegs := State.tick_testRegs _
@[simp] theorem State.begin_fpu : (s.begin).fpu = s.fpu := State.tick_fpu _
@[simp] theorem State.begin_pmc0 : (s.begin).pmc0 = s.pmc0 := State.tick_pmc0 _
@[simp] theorem State.begin_pmc1 : (s.begin).pmc1 = s.pmc1 := State.tick_pmc1 _
@[simp] theorem State.begin_msrs : (s.begin).msrs = s.msrs := State.tick_msrs _
@[simp] theorem State.begin_mxcsr : (s.begin).mxcsr = s.mxcsr := State.tick_mxcsr _
@[simp] theorem State.begin_nmiBlocked : (s.begin).nmiBlocked = s.nmiBlocked := State.tick_nmiBlocked _
@[simp] theorem State.begin_nmiPending : (s.begin).nmiPending = s.nmiPending := State.tick_nmiPending _
@[simp] theorem State.begin_inhibitSs : (s.begin).inhibitSs = s.inhibitSs := State.tick_inhibitSs _
@[simp] theorem State.begin_inhibitSti : (s.begin).inhibitSti = s.inhibitSti := State.tick_inhibitSti _
@[simp] theorem State.begin_tlb : (s.begin).tlb = s.tlb := State.tick_tlb _
@[simp] theorem State.begin_run : (s.begin).run = s.run := State.tick_run _
@[simp] theorem State.begin_intr : (s.begin).intr = s.intr := State.tick_intr _
@[simp] theorem State.begin_nmiEdge : (s.begin).nmiEdge = s.nmiEdge := State.tick_nmiEdge _
@[simp] theorem State.begin_resetLine : (s.begin).resetLine = s.resetLine := State.tick_resetLine _
@[simp] theorem State.begin_ignne : (s.begin).ignne = s.ignne := State.tick_ignne _
@[simp] theorem State.begin_mem : (s.begin).mem = s.mem := State.tick_mem _
@[simp] theorem State.begin_io : (s.begin).io = s.io := State.tick_io _
@[simp] theorem State.begin_params : (s.begin).params = s.params := State.tick_params _

-- afterRead
@[simp] theorem State.afterRead_gpr (as : List Nat) : (s.afterRead as).gpr = s.gpr := by unfold State.afterRead; split <;> rfl
@[simp] theorem State.afterRead_eip (as : List Nat) : (s.afterRead as).eip = s.eip := by unfold State.afterRead; split <;> rfl
@[simp] theorem State.afterRead_eflags (as : List Nat) : (s.afterRead as).eflags = s.eflags := by unfold State.afterRead; split <;> rfl
@[simp] theorem State.afterRead_es (as : List Nat) : (s.afterRead as).es = s.es := by unfold State.afterRead; split <;> rfl
@[simp] theorem State.afterRead_cs (as : List Nat) : (s.afterRead as).cs = s.cs := by unfold State.afterRead; split <;> rfl
@[simp] theorem State.afterRead_ss (as : List Nat) : (s.afterRead as).ss = s.ss := by unfold State.afterRead; split <;> rfl
@[simp] theorem State.afterRead_ds (as : List Nat) : (s.afterRead as).ds = s.ds := by unfold State.afterRead; split <;> rfl
@[simp] theorem State.afterRead_fs (as : List Nat) : (s.afterRead as).fs = s.fs := by unfold State.afterRead; split <;> rfl
@[simp] theorem State.afterRead_gs (as : List Nat) : (s.afterRead as).gs = s.gs := by unfold State.afterRead; split <;> rfl
@[simp] theorem State.afterRead_gdtr (as : List Nat) : (s.afterRead as).gdtr = s.gdtr := by unfold State.afterRead; split <;> rfl
@[simp] theorem State.afterRead_idtr (as : List Nat) : (s.afterRead as).idtr = s.idtr := by unfold State.afterRead; split <;> rfl
@[simp] theorem State.afterRead_ldtr (as : List Nat) : (s.afterRead as).ldtr = s.ldtr := by unfold State.afterRead; split <;> rfl
@[simp] theorem State.afterRead_tr (as : List Nat) : (s.afterRead as).tr = s.tr := by unfold State.afterRead; split <;> rfl
@[simp] theorem State.afterRead_cr0 (as : List Nat) : (s.afterRead as).cr0 = s.cr0 := by unfold State.afterRead; split <;> rfl
@[simp] theorem State.afterRead_cr2 (as : List Nat) : (s.afterRead as).cr2 = s.cr2 := by unfold State.afterRead; split <;> rfl
@[simp] theorem State.afterRead_cr3 (as : List Nat) : (s.afterRead as).cr3 = s.cr3 := by unfold State.afterRead; split <;> rfl
@[simp] theorem State.afterRead_cr4 (as : List Nat) : (s.afterRead as).cr4 = s.cr4 := by unfold State.afterRead; split <;> rfl
@[simp] theorem State.afterRead_dr0 (as : List Nat) : (s.afterRead as).dr0 = s.dr0 := by unfold State.afterRead; split <;> rfl
@[simp] theorem State.afterRead_dr1 (as : List Nat) : (s.afterRead as).dr1 = s.dr1 := by unfold State.afterRead; split <;> rfl
@[simp] theorem State.afterRead_dr2 (as : List Nat) : (s.afterRead as).dr2 = s.dr2 := by unfold State.afterRead; split <;> rfl
@[simp] theorem State.afterRead_dr3 (as : List Nat) : (s.afterRead as).dr3 = s.dr3 := by unfold State.afterRead; split <;> rfl
@[simp] theorem State.afterRead_dr6 (as : List Nat) : (s.afterRead as).dr6 = s.dr6 := by unfold State.afterRead; split <;> rfl
@[simp] theorem State.afterRead_dr7 (as : List Nat) : (s.afterRead as).dr7 = s.dr7 := by unfold State.afterRead; split <;> rfl
@[simp] theorem State.afterRead_testRegs (as : List Nat) : (s.afterRead as).testRegs = s.testRegs := by unfold State.afterRead; split <;> rfl
@[simp] theorem State.afterRead_fpu (as : List Nat) : (s.afterRead as).fpu = s.fpu := by unfold State.afterRead; split <;> rfl
@[simp] theorem State.afterRead_tsc (as : List Nat) : (s.afterRead as).tsc = s.tsc := by unfold State.afterRead; split <;> rfl
@[simp] theorem State.afterRead_pmc0 (as : List Nat) : (s.afterRead as).pmc0 = s.pmc0 := by unfold State.afterRead; split <;> rfl
@[simp] theorem State.afterRead_pmc1 (as : List Nat) : (s.afterRead as).pmc1 = s.pmc1 := by unfold State.afterRead; split <;> rfl
@[simp] theorem State.afterRead_msrs (as : List Nat) : (s.afterRead as).msrs = s.msrs := by unfold State.afterRead; split <;> rfl
@[simp] theorem State.afterRead_mxcsr (as : List Nat) : (s.afterRead as).mxcsr = s.mxcsr := by unfold State.afterRead; split <;> rfl
@[simp] theorem State.afterRead_nmiBlocked (as : List Nat) : (s.afterRead as).nmiBlocked = s.nmiBlocked := by unfold State.afterRead; split <;> rfl
@[simp] theorem State.afterRead_nmiPending (as : List Nat) : (s.afterRead as).nmiPending = s.nmiPending := by unfold State.afterRead; split <;> rfl
@[simp] theorem State.afterRead_inhibitSs (as : List Nat) : (s.afterRead as).inhibitSs = s.inhibitSs := by unfold State.afterRead; split <;> rfl
@[simp] theorem State.afterRead_inhibitSti (as : List Nat) : (s.afterRead as).inhibitSti = s.inhibitSti := by unfold State.afterRead; split <;> rfl
@[simp] theorem State.afterRead_dbPending (as : List Nat) : (s.afterRead as).dbPending = s.dbPending := by unfold State.afterRead; split <;> rfl
@[simp] theorem State.afterRead_tlb (as : List Nat) : (s.afterRead as).tlb = s.tlb := by unfold State.afterRead; split <;> rfl
@[simp] theorem State.afterRead_run (as : List Nat) : (s.afterRead as).run = s.run := by unfold State.afterRead; split <;> rfl
@[simp] theorem State.afterRead_intr (as : List Nat) : (s.afterRead as).intr = s.intr := by unfold State.afterRead; split <;> rfl
@[simp] theorem State.afterRead_nmiEdge (as : List Nat) : (s.afterRead as).nmiEdge = s.nmiEdge := by unfold State.afterRead; split <;> rfl
@[simp] theorem State.afterRead_resetLine (as : List Nat) : (s.afterRead as).resetLine = s.resetLine := by unfold State.afterRead; split <;> rfl
@[simp] theorem State.afterRead_ignne (as : List Nat) : (s.afterRead as).ignne = s.ignne := by unfold State.afterRead; split <;> rfl
@[simp] theorem State.afterRead_mem (as : List Nat) : (s.afterRead as).mem = s.mem := by unfold State.afterRead; split <;> rfl
@[simp] theorem State.afterRead_params (as : List Nat) : (s.afterRead as).params = s.params := by unfold State.afterRead; split <;> rfl

-- afterWrite
@[simp] theorem State.afterWrite_gpr (cs : List Host.Cell) : (s.afterWrite cs).gpr = s.gpr := rfl
@[simp] theorem State.afterWrite_eip (cs : List Host.Cell) : (s.afterWrite cs).eip = s.eip := rfl
@[simp] theorem State.afterWrite_eflags (cs : List Host.Cell) : (s.afterWrite cs).eflags = s.eflags := rfl
@[simp] theorem State.afterWrite_es (cs : List Host.Cell) : (s.afterWrite cs).es = s.es := rfl
@[simp] theorem State.afterWrite_cs (cs : List Host.Cell) : (s.afterWrite cs).cs = s.cs := rfl
@[simp] theorem State.afterWrite_ss (cs : List Host.Cell) : (s.afterWrite cs).ss = s.ss := rfl
@[simp] theorem State.afterWrite_ds (cs : List Host.Cell) : (s.afterWrite cs).ds = s.ds := rfl
@[simp] theorem State.afterWrite_fs (cs : List Host.Cell) : (s.afterWrite cs).fs = s.fs := rfl
@[simp] theorem State.afterWrite_gs (cs : List Host.Cell) : (s.afterWrite cs).gs = s.gs := rfl
@[simp] theorem State.afterWrite_gdtr (cs : List Host.Cell) : (s.afterWrite cs).gdtr = s.gdtr := rfl
@[simp] theorem State.afterWrite_idtr (cs : List Host.Cell) : (s.afterWrite cs).idtr = s.idtr := rfl
@[simp] theorem State.afterWrite_ldtr (cs : List Host.Cell) : (s.afterWrite cs).ldtr = s.ldtr := rfl
@[simp] theorem State.afterWrite_tr (cs : List Host.Cell) : (s.afterWrite cs).tr = s.tr := rfl
@[simp] theorem State.afterWrite_cr0 (cs : List Host.Cell) : (s.afterWrite cs).cr0 = s.cr0 := rfl
@[simp] theorem State.afterWrite_cr2 (cs : List Host.Cell) : (s.afterWrite cs).cr2 = s.cr2 := rfl
@[simp] theorem State.afterWrite_cr3 (cs : List Host.Cell) : (s.afterWrite cs).cr3 = s.cr3 := rfl
@[simp] theorem State.afterWrite_cr4 (cs : List Host.Cell) : (s.afterWrite cs).cr4 = s.cr4 := rfl
@[simp] theorem State.afterWrite_dr0 (cs : List Host.Cell) : (s.afterWrite cs).dr0 = s.dr0 := rfl
@[simp] theorem State.afterWrite_dr1 (cs : List Host.Cell) : (s.afterWrite cs).dr1 = s.dr1 := rfl
@[simp] theorem State.afterWrite_dr2 (cs : List Host.Cell) : (s.afterWrite cs).dr2 = s.dr2 := rfl
@[simp] theorem State.afterWrite_dr3 (cs : List Host.Cell) : (s.afterWrite cs).dr3 = s.dr3 := rfl
@[simp] theorem State.afterWrite_dr6 (cs : List Host.Cell) : (s.afterWrite cs).dr6 = s.dr6 := rfl
@[simp] theorem State.afterWrite_dr7 (cs : List Host.Cell) : (s.afterWrite cs).dr7 = s.dr7 := rfl
@[simp] theorem State.afterWrite_testRegs (cs : List Host.Cell) : (s.afterWrite cs).testRegs = s.testRegs := rfl
@[simp] theorem State.afterWrite_fpu (cs : List Host.Cell) : (s.afterWrite cs).fpu = s.fpu := rfl
@[simp] theorem State.afterWrite_tsc (cs : List Host.Cell) : (s.afterWrite cs).tsc = s.tsc := rfl
@[simp] theorem State.afterWrite_pmc0 (cs : List Host.Cell) : (s.afterWrite cs).pmc0 = s.pmc0 := rfl
@[simp] theorem State.afterWrite_pmc1 (cs : List Host.Cell) : (s.afterWrite cs).pmc1 = s.pmc1 := rfl
@[simp] theorem State.afterWrite_msrs (cs : List Host.Cell) : (s.afterWrite cs).msrs = s.msrs := rfl
@[simp] theorem State.afterWrite_mxcsr (cs : List Host.Cell) : (s.afterWrite cs).mxcsr = s.mxcsr := rfl
@[simp] theorem State.afterWrite_nmiBlocked (cs : List Host.Cell) : (s.afterWrite cs).nmiBlocked = s.nmiBlocked := rfl
@[simp] theorem State.afterWrite_nmiPending (cs : List Host.Cell) : (s.afterWrite cs).nmiPending = s.nmiPending := rfl
@[simp] theorem State.afterWrite_inhibitSs (cs : List Host.Cell) : (s.afterWrite cs).inhibitSs = s.inhibitSs := rfl
@[simp] theorem State.afterWrite_inhibitSti (cs : List Host.Cell) : (s.afterWrite cs).inhibitSti = s.inhibitSti := rfl
@[simp] theorem State.afterWrite_dbPending (cs : List Host.Cell) : (s.afterWrite cs).dbPending = s.dbPending := rfl
@[simp] theorem State.afterWrite_tlb (cs : List Host.Cell) : (s.afterWrite cs).tlb = s.tlb := rfl
@[simp] theorem State.afterWrite_run (cs : List Host.Cell) : (s.afterWrite cs).run = s.run := rfl
@[simp] theorem State.afterWrite_intr (cs : List Host.Cell) : (s.afterWrite cs).intr = s.intr := rfl
@[simp] theorem State.afterWrite_nmiEdge (cs : List Host.Cell) : (s.afterWrite cs).nmiEdge = s.nmiEdge := rfl
@[simp] theorem State.afterWrite_resetLine (cs : List Host.Cell) : (s.afterWrite cs).resetLine = s.resetLine := rfl
@[simp] theorem State.afterWrite_ignne (cs : List Host.Cell) : (s.afterWrite cs).ignne = s.ignne := rfl
@[simp] theorem State.afterWrite_free (cs : List Host.Cell) : (s.afterWrite cs).free = s.free := rfl
@[simp] theorem State.afterWrite_params (cs : List Host.Cell) : (s.afterWrite cs).params = s.params := rfl

-- recordTlb
@[simp] theorem State.recordTlb_gpr (e : TlbEntry) : (s.recordTlb e).gpr = s.gpr := by unfold State.recordTlb; split <;> rfl
@[simp] theorem State.recordTlb_eip (e : TlbEntry) : (s.recordTlb e).eip = s.eip := by unfold State.recordTlb; split <;> rfl
@[simp] theorem State.recordTlb_eflags (e : TlbEntry) : (s.recordTlb e).eflags = s.eflags := by unfold State.recordTlb; split <;> rfl
@[simp] theorem State.recordTlb_es (e : TlbEntry) : (s.recordTlb e).es = s.es := by unfold State.recordTlb; split <;> rfl
@[simp] theorem State.recordTlb_cs (e : TlbEntry) : (s.recordTlb e).cs = s.cs := by unfold State.recordTlb; split <;> rfl
@[simp] theorem State.recordTlb_ss (e : TlbEntry) : (s.recordTlb e).ss = s.ss := by unfold State.recordTlb; split <;> rfl
@[simp] theorem State.recordTlb_ds (e : TlbEntry) : (s.recordTlb e).ds = s.ds := by unfold State.recordTlb; split <;> rfl
@[simp] theorem State.recordTlb_fs (e : TlbEntry) : (s.recordTlb e).fs = s.fs := by unfold State.recordTlb; split <;> rfl
@[simp] theorem State.recordTlb_gs (e : TlbEntry) : (s.recordTlb e).gs = s.gs := by unfold State.recordTlb; split <;> rfl
@[simp] theorem State.recordTlb_gdtr (e : TlbEntry) : (s.recordTlb e).gdtr = s.gdtr := by unfold State.recordTlb; split <;> rfl
@[simp] theorem State.recordTlb_idtr (e : TlbEntry) : (s.recordTlb e).idtr = s.idtr := by unfold State.recordTlb; split <;> rfl
@[simp] theorem State.recordTlb_ldtr (e : TlbEntry) : (s.recordTlb e).ldtr = s.ldtr := by unfold State.recordTlb; split <;> rfl
@[simp] theorem State.recordTlb_tr (e : TlbEntry) : (s.recordTlb e).tr = s.tr := by unfold State.recordTlb; split <;> rfl
@[simp] theorem State.recordTlb_cr0 (e : TlbEntry) : (s.recordTlb e).cr0 = s.cr0 := by unfold State.recordTlb; split <;> rfl
@[simp] theorem State.recordTlb_cr2 (e : TlbEntry) : (s.recordTlb e).cr2 = s.cr2 := by unfold State.recordTlb; split <;> rfl
@[simp] theorem State.recordTlb_cr3 (e : TlbEntry) : (s.recordTlb e).cr3 = s.cr3 := by unfold State.recordTlb; split <;> rfl
@[simp] theorem State.recordTlb_cr4 (e : TlbEntry) : (s.recordTlb e).cr4 = s.cr4 := by unfold State.recordTlb; split <;> rfl
@[simp] theorem State.recordTlb_dr0 (e : TlbEntry) : (s.recordTlb e).dr0 = s.dr0 := by unfold State.recordTlb; split <;> rfl
@[simp] theorem State.recordTlb_dr1 (e : TlbEntry) : (s.recordTlb e).dr1 = s.dr1 := by unfold State.recordTlb; split <;> rfl
@[simp] theorem State.recordTlb_dr2 (e : TlbEntry) : (s.recordTlb e).dr2 = s.dr2 := by unfold State.recordTlb; split <;> rfl
@[simp] theorem State.recordTlb_dr3 (e : TlbEntry) : (s.recordTlb e).dr3 = s.dr3 := by unfold State.recordTlb; split <;> rfl
@[simp] theorem State.recordTlb_dr6 (e : TlbEntry) : (s.recordTlb e).dr6 = s.dr6 := by unfold State.recordTlb; split <;> rfl
@[simp] theorem State.recordTlb_dr7 (e : TlbEntry) : (s.recordTlb e).dr7 = s.dr7 := by unfold State.recordTlb; split <;> rfl
@[simp] theorem State.recordTlb_testRegs (e : TlbEntry) : (s.recordTlb e).testRegs = s.testRegs := by unfold State.recordTlb; split <;> rfl
@[simp] theorem State.recordTlb_fpu (e : TlbEntry) : (s.recordTlb e).fpu = s.fpu := by unfold State.recordTlb; split <;> rfl
@[simp] theorem State.recordTlb_tsc (e : TlbEntry) : (s.recordTlb e).tsc = s.tsc := by unfold State.recordTlb; split <;> rfl
@[simp] theorem State.recordTlb_pmc0 (e : TlbEntry) : (s.recordTlb e).pmc0 = s.pmc0 := by unfold State.recordTlb; split <;> rfl
@[simp] theorem State.recordTlb_pmc1 (e : TlbEntry) : (s.recordTlb e).pmc1 = s.pmc1 := by unfold State.recordTlb; split <;> rfl
@[simp] theorem State.recordTlb_msrs (e : TlbEntry) : (s.recordTlb e).msrs = s.msrs := by unfold State.recordTlb; split <;> rfl
@[simp] theorem State.recordTlb_mxcsr (e : TlbEntry) : (s.recordTlb e).mxcsr = s.mxcsr := by unfold State.recordTlb; split <;> rfl
@[simp] theorem State.recordTlb_nmiBlocked (e : TlbEntry) : (s.recordTlb e).nmiBlocked = s.nmiBlocked := by unfold State.recordTlb; split <;> rfl
@[simp] theorem State.recordTlb_nmiPending (e : TlbEntry) : (s.recordTlb e).nmiPending = s.nmiPending := by unfold State.recordTlb; split <;> rfl
@[simp] theorem State.recordTlb_inhibitSs (e : TlbEntry) : (s.recordTlb e).inhibitSs = s.inhibitSs := by unfold State.recordTlb; split <;> rfl
@[simp] theorem State.recordTlb_inhibitSti (e : TlbEntry) : (s.recordTlb e).inhibitSti = s.inhibitSti := by unfold State.recordTlb; split <;> rfl
@[simp] theorem State.recordTlb_dbPending (e : TlbEntry) : (s.recordTlb e).dbPending = s.dbPending := by unfold State.recordTlb; split <;> rfl
@[simp] theorem State.recordTlb_run (e : TlbEntry) : (s.recordTlb e).run = s.run := by unfold State.recordTlb; split <;> rfl
@[simp] theorem State.recordTlb_intr (e : TlbEntry) : (s.recordTlb e).intr = s.intr := by unfold State.recordTlb; split <;> rfl
@[simp] theorem State.recordTlb_nmiEdge (e : TlbEntry) : (s.recordTlb e).nmiEdge = s.nmiEdge := by unfold State.recordTlb; split <;> rfl
@[simp] theorem State.recordTlb_resetLine (e : TlbEntry) : (s.recordTlb e).resetLine = s.resetLine := by unfold State.recordTlb; split <;> rfl
@[simp] theorem State.recordTlb_ignne (e : TlbEntry) : (s.recordTlb e).ignne = s.ignne := by unfold State.recordTlb; split <;> rfl
@[simp] theorem State.recordTlb_mem (e : TlbEntry) : (s.recordTlb e).mem = s.mem := by unfold State.recordTlb; split <;> rfl
@[simp] theorem State.recordTlb_io (e : TlbEntry) : (s.recordTlb e).io = s.io := by unfold State.recordTlb; split <;> rfl
@[simp] theorem State.recordTlb_free (e : TlbEntry) : (s.recordTlb e).free = s.free := by unfold State.recordTlb; split <;> rfl
@[simp] theorem State.recordTlb_params (e : TlbEntry) : (s.recordTlb e).params = s.params := by unfold State.recordTlb; split <;> rfl

-- setMsr
@[simp] theorem State.setMsr_gpr (n : Word32) (v : BitVec 64) : (s.setMsr n v).gpr = s.gpr := by unfold State.setMsr; split <;> rfl
@[simp] theorem State.setMsr_eip (n : Word32) (v : BitVec 64) : (s.setMsr n v).eip = s.eip := by unfold State.setMsr; split <;> rfl
@[simp] theorem State.setMsr_eflags (n : Word32) (v : BitVec 64) : (s.setMsr n v).eflags = s.eflags := by unfold State.setMsr; split <;> rfl
@[simp] theorem State.setMsr_es (n : Word32) (v : BitVec 64) : (s.setMsr n v).es = s.es := by unfold State.setMsr; split <;> rfl
@[simp] theorem State.setMsr_cs (n : Word32) (v : BitVec 64) : (s.setMsr n v).cs = s.cs := by unfold State.setMsr; split <;> rfl
@[simp] theorem State.setMsr_ss (n : Word32) (v : BitVec 64) : (s.setMsr n v).ss = s.ss := by unfold State.setMsr; split <;> rfl
@[simp] theorem State.setMsr_ds (n : Word32) (v : BitVec 64) : (s.setMsr n v).ds = s.ds := by unfold State.setMsr; split <;> rfl
@[simp] theorem State.setMsr_fs (n : Word32) (v : BitVec 64) : (s.setMsr n v).fs = s.fs := by unfold State.setMsr; split <;> rfl
@[simp] theorem State.setMsr_gs (n : Word32) (v : BitVec 64) : (s.setMsr n v).gs = s.gs := by unfold State.setMsr; split <;> rfl
@[simp] theorem State.setMsr_gdtr (n : Word32) (v : BitVec 64) : (s.setMsr n v).gdtr = s.gdtr := by unfold State.setMsr; split <;> rfl
@[simp] theorem State.setMsr_idtr (n : Word32) (v : BitVec 64) : (s.setMsr n v).idtr = s.idtr := by unfold State.setMsr; split <;> rfl
@[simp] theorem State.setMsr_ldtr (n : Word32) (v : BitVec 64) : (s.setMsr n v).ldtr = s.ldtr := by unfold State.setMsr; split <;> rfl
@[simp] theorem State.setMsr_tr (n : Word32) (v : BitVec 64) : (s.setMsr n v).tr = s.tr := by unfold State.setMsr; split <;> rfl
@[simp] theorem State.setMsr_cr0 (n : Word32) (v : BitVec 64) : (s.setMsr n v).cr0 = s.cr0 := by unfold State.setMsr; split <;> rfl
@[simp] theorem State.setMsr_cr2 (n : Word32) (v : BitVec 64) : (s.setMsr n v).cr2 = s.cr2 := by unfold State.setMsr; split <;> rfl
@[simp] theorem State.setMsr_cr3 (n : Word32) (v : BitVec 64) : (s.setMsr n v).cr3 = s.cr3 := by unfold State.setMsr; split <;> rfl
@[simp] theorem State.setMsr_cr4 (n : Word32) (v : BitVec 64) : (s.setMsr n v).cr4 = s.cr4 := by unfold State.setMsr; split <;> rfl
@[simp] theorem State.setMsr_dr0 (n : Word32) (v : BitVec 64) : (s.setMsr n v).dr0 = s.dr0 := by unfold State.setMsr; split <;> rfl
@[simp] theorem State.setMsr_dr1 (n : Word32) (v : BitVec 64) : (s.setMsr n v).dr1 = s.dr1 := by unfold State.setMsr; split <;> rfl
@[simp] theorem State.setMsr_dr2 (n : Word32) (v : BitVec 64) : (s.setMsr n v).dr2 = s.dr2 := by unfold State.setMsr; split <;> rfl
@[simp] theorem State.setMsr_dr3 (n : Word32) (v : BitVec 64) : (s.setMsr n v).dr3 = s.dr3 := by unfold State.setMsr; split <;> rfl
@[simp] theorem State.setMsr_dr6 (n : Word32) (v : BitVec 64) : (s.setMsr n v).dr6 = s.dr6 := by unfold State.setMsr; split <;> rfl
@[simp] theorem State.setMsr_dr7 (n : Word32) (v : BitVec 64) : (s.setMsr n v).dr7 = s.dr7 := by unfold State.setMsr; split <;> rfl
@[simp] theorem State.setMsr_testRegs (n : Word32) (v : BitVec 64) : (s.setMsr n v).testRegs = s.testRegs := by unfold State.setMsr; split <;> rfl
@[simp] theorem State.setMsr_fpu (n : Word32) (v : BitVec 64) : (s.setMsr n v).fpu = s.fpu := by unfold State.setMsr; split <;> rfl
@[simp] theorem State.setMsr_pmc0 (n : Word32) (v : BitVec 64) : (s.setMsr n v).pmc0 = s.pmc0 := by unfold State.setMsr; split <;> rfl
@[simp] theorem State.setMsr_pmc1 (n : Word32) (v : BitVec 64) : (s.setMsr n v).pmc1 = s.pmc1 := by unfold State.setMsr; split <;> rfl
@[simp] theorem State.setMsr_mxcsr (n : Word32) (v : BitVec 64) : (s.setMsr n v).mxcsr = s.mxcsr := by unfold State.setMsr; split <;> rfl
@[simp] theorem State.setMsr_nmiBlocked (n : Word32) (v : BitVec 64) : (s.setMsr n v).nmiBlocked = s.nmiBlocked := by unfold State.setMsr; split <;> rfl
@[simp] theorem State.setMsr_nmiPending (n : Word32) (v : BitVec 64) : (s.setMsr n v).nmiPending = s.nmiPending := by unfold State.setMsr; split <;> rfl
@[simp] theorem State.setMsr_inhibitSs (n : Word32) (v : BitVec 64) : (s.setMsr n v).inhibitSs = s.inhibitSs := by unfold State.setMsr; split <;> rfl
@[simp] theorem State.setMsr_inhibitSti (n : Word32) (v : BitVec 64) : (s.setMsr n v).inhibitSti = s.inhibitSti := by unfold State.setMsr; split <;> rfl
@[simp] theorem State.setMsr_dbPending (n : Word32) (v : BitVec 64) : (s.setMsr n v).dbPending = s.dbPending := by unfold State.setMsr; split <;> rfl
@[simp] theorem State.setMsr_tlb (n : Word32) (v : BitVec 64) : (s.setMsr n v).tlb = s.tlb := by unfold State.setMsr; split <;> rfl
@[simp] theorem State.setMsr_run (n : Word32) (v : BitVec 64) : (s.setMsr n v).run = s.run := by unfold State.setMsr; split <;> rfl
@[simp] theorem State.setMsr_intr (n : Word32) (v : BitVec 64) : (s.setMsr n v).intr = s.intr := by unfold State.setMsr; split <;> rfl
@[simp] theorem State.setMsr_nmiEdge (n : Word32) (v : BitVec 64) : (s.setMsr n v).nmiEdge = s.nmiEdge := by unfold State.setMsr; split <;> rfl
@[simp] theorem State.setMsr_resetLine (n : Word32) (v : BitVec 64) : (s.setMsr n v).resetLine = s.resetLine := by unfold State.setMsr; split <;> rfl
@[simp] theorem State.setMsr_ignne (n : Word32) (v : BitVec 64) : (s.setMsr n v).ignne = s.ignne := by unfold State.setMsr; split <;> rfl
@[simp] theorem State.setMsr_mem (n : Word32) (v : BitVec 64) : (s.setMsr n v).mem = s.mem := by unfold State.setMsr; split <;> rfl
@[simp] theorem State.setMsr_io (n : Word32) (v : BitVec 64) : (s.setMsr n v).io = s.io := by unfold State.setMsr; split <;> rfl
@[simp] theorem State.setMsr_free (n : Word32) (v : BitVec 64) : (s.setMsr n v).free = s.free := by unfold State.setMsr; split <;> rfl
@[simp] theorem State.setMsr_params (n : Word32) (v : BitVec 64) : (s.setMsr n v).params = s.params := by unfold State.setMsr; split <;> rfl

end

/-- The register just written. -/
@[simp] theorem State.setReg_reg_same (s : State) (r : Reg) (v : Word32) : (s.setReg r v).reg r = v := by
  cases r <;> rfl

/-- Another register. -/
theorem State.setReg_reg_other (s : State) (r q : Reg) (v : Word32) (h : q ≠ r) : (s.setReg r v).reg q = s.reg q := by
  cases r <;> cases q <;> first | rfl | exact absurd rfl h

/-- The segment register just written. -/
@[simp] theorem State.setSeg_seg_same (s : State) (r : SegReg) (g : SegState) : (s.setSeg r g).seg r = g := by
  cases r <;> rfl

/-- Another segment register. -/
theorem State.setSeg_seg_other (s : State) (r q : SegReg) (g : SegState) (h : q ≠ r) :
    (s.setSeg r g).seg q = s.seg q := by
  cases r <;> cases q <;> first | rfl | exact absurd rfl h

/-- A general register is left alone by a flag update. -/
@[simp] theorem State.setFlag_reg (s : State) (n : Nat) (b : Bool) (r : Reg) : (s.setFlag n b).reg r = s.reg r := rfl

/-- A general register is left alone by the start of an instruction. -/
@[simp] theorem State.begin_reg (s : State) (r : Reg) : s.begin.reg r = s.reg r := by simp [State.reg]

/-- A segment register is left alone by the start of an instruction. -/
@[simp] theorem State.begin_seg (s : State) (r : SegReg) : s.begin.seg r = s.seg r := by
  cases r <;> simp [State.seg]

/-- The privilege level is left alone by the start of an instruction. -/
@[simp] theorem State.begin_cpl (s : State) : s.begin.cpl = s.cpl := by
  unfold State.cpl State.pe State.vm; rw [State.begin_cr0, State.begin_eflags, State.begin_cs]

/-- The mode is left alone by the start of an instruction. -/
@[simp] theorem State.begin_protectedMode (s : State) : s.begin.protectedMode = s.protectedMode := by
  simp [State.protectedMode, State.pe, State.vm]

/-- The operand size is left alone by the start of an instruction. -/
@[simp] theorem State.begin_op32 (s : State) (p : Prefixes) : s.begin.op32 p = s.op32 p := by simp [State.op32]

/-- The offset of the next instruction is left alone by the start of an instruction. -/
@[simp] theorem State.begin_nextPc (s : State) (p : Prefixes) (n : Nat) : s.begin.nextPc p n = s.nextPc p n := by
  simp [State.nextPc]

/-- An effective address is left alone by the start of an instruction. -/
@[simp] theorem State.begin_ea (s : State) (m : MemOp) : s.begin.ea m = s.ea m := by
  cases m <;> simp [State.ea, State.scaledIndex]
  next b d => cases b <;> simp [State.base16]

end Sys2Proof.Machine
end

