-- ==== Sys2Proof/Laws/Keeps.lean ====
section
/-! SUPPORT. What every operation of the machine keeps: the implementation parameters and the invariant of
Sys2Proof/Safety.lean. One lemma for each shared operation, proved from its parts. -/

namespace Sys2Proof.Machine

open Sys2Proof

/-- `t` has the parameters of `s`, and the invariant if `s` has it. -/
def Sound (s t : State) : Prop := t.params = s.params ∧ (s.Inv → t.Inv)

/-- The operation is sound however it ends. -/
def Keeps {α : Type} (m : M α) : Prop :=
  ∀ s, match m s with
    | .ok _ t => Sound s t
    | .error _ t => Sound s t

theorem Sound.rfl' (s : State) : Sound s s := ⟨rfl, id⟩

theorem Sound.trans {s t u : State} (h : Sound s t) (k : Sound t u) : Sound s u :=
  ⟨k.1.trans h.1, fun i => k.2 (h.2 i)⟩

/-- The update does not touch the registers the invariant is about. -/
theorem Sound.of_eq {s t : State} (hp : t.params = s.params) (hm : Memory.wf s.mem = true → Memory.wf t.mem = true)
    (he : t.eflags = s.eflags) (h0 : t.cr0 = s.cr0) (h4 : t.cr4 = s.cr4) (h6 : t.dr6 = s.dr6) (h7 : t.dr7 = s.dr7) :
    Sound s t :=
  ⟨hp, fun i => ⟨hm i.mem, by rw [hp, he]; exact i.eflags, by
    have := i.paging; simp only [State.pg, State.pe] at this ⊢; rw [h0]; exact this, by rw [hp, h4]; exact i.cr4,
    by rw [h6]; exact i.dr6, by rw [h7]; exact i.dr7⟩⟩

section rules
variable {α β : Type}

@[simp] theorem keeps_pure (a : α) : Keeps (pure a : M α) := fun s => Sound.rfl' s

@[simp] theorem keeps_get : Keeps (get : M State) := fun s => Sound.rfl' s

@[simp] theorem keeps_throw (e : Err) : Keeps (throw e : M α) := fun s => Sound.rfl' s

@[simp] theorem keeps_bind {m : M α} {f : α → M β} (hm : Keeps m) (hf : ∀ a, Keeps (f a)) : Keeps (m >>= f) := by
  intro s
  have h1 := hm s
  show match EStateM.bind m f s with
    | .ok _ t => Sound s t
    | .error _ t => Sound s t
  unfold EStateM.bind
  cases h : m s with
  | ok a t =>
    rw [h] at h1
    have h2 := hf a t
    simp only
    cases h' : f a t with
    | ok b u => rw [h'] at h2; exact h1.trans h2
    | error e u => rw [h'] at h2; exact h1.trans h2
  | error e t => rw [h] at h1; exact h1

@[simp] theorem keeps_map {m : M α} {f : α → β} (hm : Keeps m) : Keeps (f <$> m) := by
  rw [← bind_pure_comp]
  exact keeps_bind hm fun a => keeps_pure (f a)

@[simp] theorem keeps_modify {f : State → State} (h : ∀ s, Sound s (f s)) : Keeps (modify f : M Unit) := fun s => h s

/-- An operation that reads the state and goes on from there. -/
theorem keeps_getBind {f : State → M β} (h : ∀ s, match f s s with | .ok _ t => Sound s t | .error _ t => Sound s t) :
    Keeps (get >>= f) := fun s => h s

/-- An operation that has read the state, writes it and goes on. -/
theorem keeps_setThen {s t : State} (h : Sound s t) {m : M β} (hm : Keeps m) :
    match (set t >>= fun _ => m : M β) s with
    | .ok _ u => Sound s u
    | .error _ u => Sound s u := by
  have h2 := hm t
  show match m t with
    | .ok _ u => Sound s u
    | .error _ u => Sound s u
  cases h' : m t with
  | ok b u => rw [h'] at h2; exact h.trans h2
  | error e u => rw [h'] at h2; exact h.trans h2

@[simp] theorem keeps_ite {c : Prop} [Decidable c] {a b : M α} (ha : Keeps a) (hb : Keeps b) :
    Keeps (if c then a else b) := by
  split <;> assumption

end rules

-- BEGIN GENERATED
/-- A record update that leaves the registers of the invariant, memory and the parameters alone. -/
@[simp] theorem sound_mk (s : State) (gpr' : GprFile) (eip' cr2' cr3' dr0' dr1' dr2' dr3' mxcsr' : Word32) (es' cs'
    ss' ds' fs' gs' ldtr' tr' : SegState) (gdtr' idtr' : TableReg) (testRegs' : TestRegs) (fpu' : FpuState) (tsc' :
    BitVec 64) (pmc0' pmc1' : BitVec 40) (msrs' : List Msr) (nmiBlocked' nmiPending' inhibitSs' inhibitSti' nmiEdge'
    resetLine' ignne' : Bool) (dbPending' : DbPending) (tlb' : List TlbEntry) (run' : Run) (intr' : Option Byte)
    (io' : List IoEvent) (free' : Nat) : Sound s ⟨gpr', eip', s.eflags, es', cs', ss', ds', fs', gs', gdtr', idtr',
    ldtr', tr', s.cr0, cr2', cr3', s.cr4, dr0', dr1', dr2', dr3', s.dr6, s.dr7, testRegs', fpu', tsc', pmc0', pmc1',
    msrs', mxcsr', nmiBlocked', nmiPending', inhibitSs', inhibitSti', dbPending', tlb', run', intr', nmiEdge',
    resetLine', ignne', s.mem, io', free', s.params⟩ := Sound.of_eq rfl id rfl rfl rfl rfl rfl

/-- A record update that writes memory in its canonical form. -/
theorem sound_mk_mem (s : State) (m : List Host.Cell) (hm : Memory.wf s.mem = true → Memory.wf m = true) (gpr' :
    GprFile) (eip' cr2' cr3' dr0' dr1' dr2' dr3' mxcsr' : Word32) (es' cs' ss' ds' fs' gs' ldtr' tr' : SegState)
    (gdtr' idtr' : TableReg) (testRegs' : TestRegs) (fpu' : FpuState) (tsc' : BitVec 64) (pmc0' pmc1' : BitVec 40)
    (msrs' : List Msr) (nmiBlocked' nmiPending' inhibitSs' inhibitSti' nmiEdge' resetLine' ignne' : Bool)
    (dbPending' : DbPending) (tlb' : List TlbEntry) (run' : Run) (intr' : Option Byte) (io' : List IoEvent) (free' :
    Nat) : Sound s ⟨gpr', eip', s.eflags, es', cs', ss', ds', fs', gs', gdtr', idtr', ldtr', tr', s.cr0, cr2', cr3',
    s.cr4, dr0', dr1', dr2', dr3', s.dr6, s.dr7, testRegs', fpu', tsc', pmc0', pmc1', msrs', mxcsr', nmiBlocked',
    nmiPending', inhibitSs', inhibitSti', dbPending', tlb', run', intr', nmiEdge', resetLine', ignne', m, io',
    free', s.params⟩ := Sound.of_eq rfl hm rfl rfl rfl rfl rfl

end Sys2Proof.Machine
end

