-- ==== Sys2Proof/Laws/Sound.lean ====
section
/-! SUPPORT. The shared operations keep the parameters and the invariant: one lemma each. -/

namespace Sys2Proof.Machine

open Sys2Proof

section bits

/-- Clearing bits other than bit 1 keeps the fixed bits of EFLAGS. -/
theorem fixEflags_clear (p : Params) (e k : Word32) (h : fixEflags p e = e) (hc : k &&& 2 = 0) :
    fixEflags p (e &&& ~~~k) = e &&& ~~~k := by
  unfold fixEflags at h ⊢
  ext i hi
  have h1 := congrArg (fun v : Word32 => v[i]) h
  have h2 := congrArg (fun v : Word32 => v[i]) hc
  simp only [BitVec.getElem_or, BitVec.getElem_and, BitVec.getElem_not] at h1 h2 ⊢
  rw [show (0 : Word32)[i] = false from BitVec.getElem_zero ..] at h2
  revert h1 h2
  generalize e[i] = a; generalize (eflagsMask p)[i] = b; generalize k[i] = d; generalize (2 : Word32)[i] = f
  revert a b d f; decide

/-- Setting bits that exist keeps the fixed bits of EFLAGS. -/
theorem fixEflags_set (p : Params) (e k : Word32) (h : fixEflags p e = e) (hc : k &&& eflagsMask p = k) :
    fixEflags p (e ||| k) = e ||| k := by
  unfold fixEflags at h ⊢
  ext i hi
  have h1 := congrArg (fun v : Word32 => v[i]) h
  have h2 := congrArg (fun v : Word32 => v[i]) hc
  simp only [BitVec.getElem_or, BitVec.getElem_and] at h1 h2 ⊢
  revert h1 h2
  generalize e[i] = a; generalize (eflagsMask p)[i] = b; generalize k[i] = d; generalize (2 : Word32)[i] = f
  revert a b d f; decide

/-- A value with the fixed bits in place stays as it is. -/
theorem fixEflags_idem (p : Params) (v : Word32) : fixEflags p (fixEflags p v) = fixEflags p v := by
  unfold fixEflags
  ext i hi
  simp only [BitVec.getElem_or, BitVec.getElem_and]
  generalize v[i] = a; generalize (eflagsMask p)[i] = b; generalize (2 : Word32)[i] = f
  revert a b f; decide

/-- The bits that exist in every family. -/
theorem mask_flag (p : Params) (k : Word32) (h : k &&& 0x00037FD5 = k) : k &&& eflagsMask p = k := by
  unfold eflagsMask
  ext i hi
  have h1 := congrArg (fun v : Word32 => v[i]) h
  simp only [BitVec.getElem_or, BitVec.getElem_and] at h1 ⊢
  revert h1
  generalize k[i] = a; generalize (0x00037FD5 : Word32)[i] = b
  generalize (if p.hasAC then (0x00040000 : Word32) else 0)[i] = x
  generalize (if p.hasVME then (0x00180000 : Word32) else 0)[i] = y
  generalize (if p.hasID then (0x00200000 : Word32) else 0)[i] = z
  revert a b x y z; decide

/-- Giving an existing flag a value keeps the fixed bits of EFLAGS. -/
theorem fixEflags_setBit (p : Params) (e : Word32) (n : Nat) (b : Bool) (h : fixEflags p e = e)
    (hn : (1#32 <<< n) &&& 0x00037FD5 = 1#32 <<< n) (h2 : (1#32 <<< n) &&& 2 = 0) :
    fixEflags p (setBit e n b) = setBit e n b := by
  unfold setBit
  split
  · exact fixEflags_set p e _ h (mask_flag p _ hn)
  · exact fixEflags_clear p e _ h h2

/-- Giving one bit a value leaves the others alone. -/
theorem bit_setBit_other (v : Word32) (n m : Nat) (b : Bool) (h : m ≠ n) : bit (setBit v n b) m = bit v m := by
  unfold bit setBit
  by_cases hm : m < 32
  · split
    · simp only [BitVec.getLsbD_or, BitVec.getLsbD_shiftLeft, hm, decide_true, Bool.true_and]
      by_cases hmn : m < n
      · simp [hmn]
      · have : (1#32).getLsbD (m - n) = false := by
          rw [BitVec.getLsbD_one]; simp; omega
        simp [this]
    · simp only [BitVec.getLsbD_and, BitVec.getLsbD_not, BitVec.getLsbD_shiftLeft, hm, decide_true, Bool.true_and]
      by_cases hmn : m < n
      · simp [hmn]
      · have : (1#32).getLsbD (m - n) = false := by
          rw [BitVec.getLsbD_one]; simp; omega
        simp [this]
  · rw [BitVec.getLsbD_of_ge _ _ (by omega), BitVec.getLsbD_of_ge _ _ (by omega)]

end bits

section updates

/-- Only EFLAGS changes, and its fixed bits stay. -/
theorem Sound.of_eflags {s t : State} (ht : t = { s with eflags := t.eflags })
    (h : fixEflags s.params s.eflags = s.eflags → fixEflags s.params t.eflags = t.eflags) : Sound s t := by
  have hp : t.params = s.params := by rw [ht]
  refine ⟨hp, fun i => ⟨by rw [ht]; exact i.mem, by rw [hp]; exact h i.eflags, ?_, ?_, ?_, ?_⟩⟩
  · have := i.paging; simp only [State.pg, State.pe] at this ⊢; rw [ht]; exact this
  · rw [ht]; exact i.cr4
  · rw [ht]; exact i.dr6
  · rw [ht]; exact i.dr7

@[simp] theorem sound_setReg (s : State) (r : Reg) (v : Word32) : Sound s (s.setReg r v) := sound_mk ..
@[simp] theorem sound_setReg16 (s : State) (r : Reg) (v : Word16) : Sound s (s.setReg16 r v) := sound_mk ..
@[simp] theorem sound_setSp (s : State) (x : Word32) : Sound s (s.setSp x) := sound_mk ..
@[simp] theorem sound_setEdxEax (s : State) (x : BitVec 64) : Sound s (s.setEdxEax x) := sound_mk ..
@[simp] theorem sound_setAcc (s : State) (n : Nat) (x : Word32) : Sound s (s.setAcc n x) := sound_mk ..
@[simp] theorem sound_setRegV (s : State) (p : Prefixes) (r : Reg) (v : Word32) : Sound s (s.setRegV p r v) := by
  unfold State.setRegV; split <;> simp
@[simp] theorem sound_moveAddrReg (s : State) (p : Prefixes) (r : Reg) (v : Word32) :
    Sound s (s.moveAddrReg p r v) := by unfold State.moveAddrReg; split <;> simp
@[simp] theorem sound_setSeg (s : State) (r : SegReg) (g : SegState) : Sound s (s.setSeg r g) := by
  cases r <;> exact sound_mk ..
@[simp] theorem sound_realLoad (s : State) (r : SegReg) (sel : Word16) : Sound s (s.realLoad r sel) := sound_setSeg ..
@[simp] theorem sound_dataBp (s : State) (la : Word32) (n : Nat) (w : Bool) : Sound s (s.dataBp la n w) := sound_mk ..
@[simp] theorem sound_flushTlb (s : State) : Sound s s.flushTlb := sound_mk ..
@[simp] theorem sound_invalidatePage (s : State) (la : Word32) : Sound s (s.invalidatePage la) := sound_mk ..
@[simp] theorem sound_setTestReg (s : State) (n : BitVec 3) (v : Word32) : Sound s (s.setTestReg n v) := sound_mk ..
@[simp] theorem sound_nullOuterSegments (s : State) (l : BitVec 2) : Sound s (s.nullOuterSegments l) := sound_mk ..
@[simp] theorem sound_shut (s : State) : Sound s s.shut := sound_mk ..
@[simp] theorem sound_sampleNmi (s : State) : Sound s s.sampleNmi := sound_mk ..
@[simp] theorem sound_begin (s : State) : Sound s s.begin := by
  unfold State.begin State.tick; split <;> exact sound_mk ..
@[simp] theorem sound_tick (s : State) : Sound s s.tick := by unfold State.tick; split <;> exact sound_mk ..
@[simp] theorem sound_afterRead (s : State) (as : List Nat) : Sound s (s.afterRead as) := by
  unfold State.afterRead; split
  · exact Sound.rfl' s
  · exact sound_mk ..
@[simp] theorem sound_afterWrite (s : State) (cs : List Host.Cell) : Sound s (s.afterWrite cs) :=
  sound_mk_mem s _ (fun h => wf_setCells _ _ _ h) ..
@[simp] theorem sound_recordTlb (s : State) (e : TlbEntry) : Sound s (s.recordTlb e) := by
  unfold State.recordTlb; split
  · exact Sound.rfl' s
  · exact sound_mk ..
  · exact sound_mk ..
@[simp] theorem sound_setMsr (s : State) (n : Word32) (v : BitVec 64) : Sound s (s.setMsr n v) := by
  unfold State.setMsr; split <;> exact sound_mk ..

@[simp] theorem sound_mergeEflags (s : State) (m v : Word32) : Sound s (s.mergeEflags m v) :=
  Sound.of_eflags rfl fun _ => fixEflags_idem _ _

/-- Giving ZF, IF, NT or RF a value. -/
theorem sound_setFlag (s : State) (n : Nat) (b : Bool) (hn : (1#32 <<< n) &&& 0x00037FD5 = 1#32 <<< n)
    (h2 : (1#32 <<< n) &&& 2 = 0) : Sound s (s.setFlag n b) :=
  Sound.of_eflags rfl fun h => fixEflags_setBit _ _ _ _ h hn h2

@[simp] theorem sound_zf (s : State) (b : Bool) : Sound s (s.setFlag 6 b) := sound_setFlag s 6 b rfl rfl
@[simp] theorem sound_if (s : State) (b : Bool) : Sound s (s.setFlag 9 b) := sound_setFlag s 9 b rfl rfl
/-- VIF cleared. -/
@[simp] theorem sound_clearVif (s : State) : Sound s (s.setFlag 19 false) :=
  Sound.of_eflags rfl fun h => fixEflags_clear _ _ _ h rfl
@[simp] theorem sound_rf (s : State) (b : Bool) : Sound s (s.setFlag 16 b) := sound_setFlag s 16 b rfl rfl
@[simp] theorem sound_finish (s : State) (d : Done) : Sound s (s.finish d) := by
  cases d
  · exact sound_rf s false
  · exact Sound.rfl' s
  · exact sound_rf s true

@[simp] theorem sound_setDr (s : State) (n : BitVec 3) (v : Word32) : Sound s (s.setDr n v) := by
  have h6 : ∀ v : Word32, v &&& 0x0000E00F &&& ~~~(0x0000E00F#32) = 0 := by
    intro v; rw [BitVec.and_assoc]; exact BitVec.and_zero
  have h7 : ∀ v : Word32, v &&& 0xFFFF03FF &&& ~~~(0xFFFF03FF#32) = 0 := by
    intro v; rw [BitVec.and_assoc]; exact BitVec.and_zero
  unfold State.setDr
  split <;> first
    | exact sound_mk ..
    | exact ⟨rfl, fun i => ⟨i.mem, i.eflags, i.paging, i.cr4, h6 v, i.dr7⟩⟩
    | exact ⟨rfl, fun i => ⟨i.mem, i.eflags, i.paging, i.cr4, i.dr6, h7 v⟩⟩

end updates

end Sys2Proof.Machine
end

