-- ==== Sys2Proof/Laws/KeepsOps.lean ====
section
/-! SUPPORT. Every shared operation keeps the parameters and the invariant, whether it completes or not: one lemma for
each. -/

namespace Sys2Proof.Machine

open Sys2Proof

section
variable {α : Type}

@[simp] theorem keeps_raiseCode (e : Exc) (c : Word32) : Keeps (raiseCode e c : M α) := keeps_throw _
@[simp] theorem keeps_raisePlain (e : Exc) : Keeps (raisePlain e : M α) := keeps_throw _
@[simp] theorem keeps_raiseUd : Keeps (raiseUd : M α) := keeps_throw _
@[simp] theorem keeps_raiseGp0 : Keeps (raiseGp0 : M α) := keeps_throw _
@[simp] theorem keeps_refuse (r : Refusal) : Keeps (refuse r : M α) := keeps_throw _
@[simp] theorem keeps_segFault (b : Bool) : Keeps (segFault b : M α) := keeps_throw _
@[simp] theorem keeps_raiseSel (e : Exc) (sel : Word16) (x : Bool) : Keeps (raiseSel e sel x : M α) := keeps_throw _
@[simp] theorem keeps_raiseZero (e : Exc) (x : Bool) : Keeps (raiseZero e x : M α) := keeps_throw _
@[simp] theorem keeps_takeFree (n : Nat) : Keeps (takeFree n) := fun _ => sound_mk ..
@[simp] theorem keeps_freshWord : Keeps freshWord := fun _ => sound_mk ..

@[simp] theorem keeps_requireAsRead (b : Bool) : Keeps (requireAsRead b) := by simp [requireAsRead]
@[simp] theorem keeps_loadEflags (w : Bool) (m v : Word32) : Keeps (loadEflags w m v) := by
  simp (maxDischargeDepth := 99) [loadEflags]

@[simp] theorem keeps_pageFault (la : Word32) (acc : Acc) (p r : Bool) : Keeps (pageFault la acc p r : M α) :=
  fun _ => sound_mk ..

end

section memory

@[simp] theorem keeps_requireMemory (as : List Nat) : Keeps (requireMemory as) := by
  unfold requireMemory
  refine keeps_bind keeps_get fun s => ?_
  split <;> simp

@[simp] theorem keeps_physReadAt (as : List Nat) : Keeps (physReadAt as) := by
  simp (maxDischargeDepth := 99) [physReadAt]

@[simp] theorem keeps_physWriteAt (as : List Nat) (v : Nat) : Keeps (physWriteAt as v) := by
  unfold physWriteAt
  refine keeps_bind (by simp) fun _ => keeps_bind keeps_get fun s => ?_
  split
  · simp
  · exact keeps_modify fun s => sound_afterWrite s _

@[simp] theorem keeps_physRead (a n : Nat) : Keeps (physRead a n) := keeps_physReadAt _
@[simp] theorem keeps_physWrite (a n v : Nat) : Keeps (physWrite a n v) := keeps_physWriteAt _ _

end memory

section paging

@[simp] theorem keeps_checkRights (us rw : Bool) (acc : Acc) (la : Word32) : Keeps (checkRights us rw acc la) := by
  simp [checkRights]

@[simp] theorem keeps_walk32 (la : Word32) (acc : Acc) : Keeps (walk32 la acc) := by simp (maxDischargeDepth := 99) [walk32]

@[simp] theorem keeps_walkPae (la : Word32) (acc : Acc) : Keeps (walkPae la acc) := by simp (maxDischargeDepth := 99) [walkPae]

@[simp] theorem keeps_chooseTlb (cs : List TlbEntry) : Keeps (chooseTlb cs) := by
  unfold chooseTlb
  refine keeps_getBind fun s => ?_
  cases s.params.tlbPolicy with
  | none => exact Sound.rfl' s
  | ideal => exact Sound.rfl' s
  | arbitrary =>
    cases cs with
    | nil => exact Sound.rfl' s
    | cons c cs =>
      exact keeps_setThen (sound_mk ..) (by cases Config.tlbChoice s.free <;> exact keeps_pure _)

@[simp] theorem keeps_tlbLookup (la : Word32) (acc : Acc) : Keeps (tlbLookup la acc) := by
  unfold tlbLookup
  refine keeps_bind keeps_get fun s => keeps_bind (by simp) fun e => ?_
  cases e with
  | none => exact keeps_pure _
  | some e => exact keeps_ite (keeps_bind (keeps_modify fun s => sound_mk ..) fun _ => keeps_pure _) (keeps_pure _)

@[simp] theorem keeps_translate (la : Word32) (acc : Acc) : Keeps (translate la acc) := by
  unfold translate
  refine keeps_bind keeps_get fun s => keeps_ite (by simp) (keeps_bind (by simp) fun e => ?_)
  split <;> simp

@[simp] theorem keeps_applyMarks (ms : List (Nat × Nat)) : Keeps (applyMarks ms) := by
  induction ms with
  | nil => exact keeps_pure _
  | cons m ms ih => obtain ⟨a, b⟩ := m; simp [applyMarks, ih]

@[simp] theorem keeps_recordXlat (e : Option TlbEntry) : Keeps (recordXlat e) := by
  cases e with
  | none => exact keeps_pure _
  | some e => exact keeps_modify fun s => sound_recordTlb s e

@[simp] theorem keeps_commitXlat (x : Xlat) : Keeps (commitXlat x) := by simp [commitXlat]

@[simp] theorem keeps_linAddrs (la : Word32) (n : Nat) (acc : Acc) : Keeps (linAddrs la n acc) := by simp (maxDischargeDepth := 99) [linAddrs]

@[simp] theorem keeps_linRead (la : Word32) (n : Nat) (acc : Acc) : Keeps (linRead la n acc) := by simp [linRead]

@[simp] theorem keeps_linWrite (la : Word32) (n v : Nat) (acc : Acc) : Keeps (linWrite la n v acc) := by
  simp [linWrite]

@[simp] theorem keeps_pdptOk (c : Word32) : Keeps (pdptOk c) := by simp (maxDischargeDepth := 99) [pdptOk]

end paging

section access

@[simp] theorem keeps_segCheck (g : SegState) (b : Bool) (o : Word32) (n : Nat) (w : Bool) :
    Keeps (segCheck g b o n w) := by simp [segCheck]
@[simp] theorem keeps_alignCheck (la : Word32) (n : Nat) (u : Bool) : Keeps (alignCheck la n u) := by simp [alignCheck]
@[simp] theorem keeps_probe (g : SegState) (b : Bool) (o : Word32) (n a : Nat) (acc : Acc) :
    Keeps (probe g b o n a acc) := by simp (maxDischargeDepth := 99) [probe]
@[simp] theorem keeps_slotRead (x : Slot) : Keeps (slotRead x) := by simp (maxDischargeDepth := 99) [slotRead]
@[simp] theorem keeps_slotWrite (x : Slot) (v : Nat) : Keeps (slotWrite x v) := by simp [slotWrite]
@[simp] theorem keeps_memProbe (r : SegReg) (o : Word32) (n a : Nat) (w : Bool) : Keeps (memProbe r o n a w) := by
  simp [memProbe]
@[simp] theorem keeps_memRead (r : SegReg) (o : Word32) (n a : Nat) : Keeps (memRead r o n a) := by simp [memRead]
@[simp] theorem keeps_memWrite (r : SegReg) (o : Word32) (n a v : Nat) : Keeps (memWrite r o n a v) := by
  simp [memWrite]
@[simp] theorem keeps_probePushes (g : SegState) (b : Nat) (u : Bool) (os : List Word32) :
    Keeps (probePushes g b u os) := by
  induction os with
  | nil => exact keeps_pure _
  | cons o os ih => simp [probePushes, ih]
@[simp] theorem keeps_writeSlots (xs : List Slot) (vs : List Nat) : Keeps (writeSlots xs vs) := by
  induction xs generalizing vs with
  | nil => exact keeps_pure _
  | cons x xs ih => cases vs <;> simp [writeSlots, ih]
@[simp] theorem keeps_writeSlotsQuiet (xs : List Slot) (vs : List Nat) : Keeps (writeSlotsQuiet xs vs) := by
  induction xs generalizing vs with
  | nil => exact keeps_pure _
  | cons x xs ih => cases vs <;> simp [writeSlotsQuiet, ih]
@[simp] theorem keeps_push (b v : Nat) : Keeps (push b v) := by simp (maxDischargeDepth := 99) [push]

end access

section descriptor

@[simp] theorem keeps_tableRead (b : Word32) (l : Nat) (ok : Bool) (i : Nat) : Keeps (tableRead b l ok i) := by
  simp [tableRead]
@[simp] theorem keeps_readDescriptor (sel : Word16) : Keeps (readDescriptor sel) := by simp [readDescriptor]
@[simp] theorem keeps_needDescriptor (sel : Word16) (e : Exc) (x : Bool) : Keeps (needDescriptor sel e x) := by
  unfold needDescriptor
  refine keeps_bind (by simp) fun d => ?_
  split <;> simp
@[simp] theorem keeps_probeAccessed (sel : Word16) (d : Desc) : Keeps (probeAccessed sel d) := by simp [probeAccessed]
@[simp] theorem keeps_commitAccessed (as : List Nat) : Keeps (commitAccessed as) := by
  unfold commitAccessed; split <;> simp
@[simp] theorem keeps_checkTarget (l t : Word32) (x : Bool) : Keeps (checkTarget l t x) := by simp [checkTarget]
@[simp] theorem keeps_fetchCode (c : Word16) (x : Bool) : Keeps (fetchCode c x) := by simp (maxDischargeDepth := 99) [fetchCode]
@[simp] theorem keeps_commitCs (c : Word16) (d : Desc) (l : BitVec 2) (as : List Nat) : Keeps (commitCs c d l as) := by
  simp [commitCs]
@[simp] theorem keeps_checkSs (sel : Word16) (l : BitVec 2) (e : Exc) (x : Bool) : Keeps (checkSs sel l e x) := by
  simp (maxDischargeDepth := 99) [checkSs]
@[simp] theorem keeps_checkData (sel : Word16) : Keeps (checkData sel) := by simp (maxDischargeDepth := 99) [checkData]

@[simp] theorem keeps_tssStack (l : BitVec 2) (x : Bool) : Keeps (tssStack l x) := by simp (maxDischargeDepth := 99) [tssStack]

end descriptor

end Sys2Proof.Machine
end

