-- ==== Sys2Proof/Laws/KeepsTask.lean ====
section
/-! SUPPORT. Segment loads, the task switch, operands, delivery and return keep the parameters and the invariant: one
lemma for each. -/

namespace Sys2Proof.Machine

open Sys2Proof

section task

@[simp] theorem keeps_loadSeg (r : SegReg) (sel : Word16) : Keeps (loadSeg r sel) := by
  unfold loadSeg
  refine keeps_getBind fun s => ?_
  split_ifs
  · exact sound_realLoad s r sel
  · exact (show Keeps (do
      let d ← checkSs sel s.cpl .gp false
      commitAccessed (← probeAccessed sel d)
      modify (fun s => s.setSeg .ss (segFrom sel d))) by simp (maxDischargeDepth := 99)) s
  · exact sound_setSeg ..
  · exact (show Keeps (do
      let d ← checkData sel
      commitAccessed (← probeAccessed sel d)
      modify (fun s => s.setSeg r (segFrom sel d))) by simp (maxDischargeDepth := 99)) s

@[simp] theorem keeps_fetchTss (sel : Word16) (k : SwitchKind) (x : Bool) : Keeps (fetchTss sel k x) := by
  unfold fetchTss
  refine keeps_bind keeps_get fun s => ?_
  refine keeps_ite (keeps_raiseSel _ _ _) (keeps_ite (keeps_raiseSel _ _ _) (keeps_bind (keeps_tableRead _ _ _ _) fun d => ?_))
  cases d with
  | none => exact keeps_raiseSel _ _ _
  | some d =>
    refine keeps_ite (keeps_raiseSel _ _ _) (keeps_ite (keeps_raiseSel _ _ _) (keeps_ite (keeps_raiseSel _ _ _) ?_))
    exact keeps_ite (keeps_raiseSel _ _ _) (keeps_ite (keeps_raiseSel _ _ _) (keeps_pure _))

@[simp] theorem keeps_resolveFields (b : Word32) (acc : Acc) (fs : List Field) : Keeps (resolveFields b acc fs) := by
  induction fs with
  | nil => exact keeps_pure _
  | cons f fs ih => obtain ⟨o, n⟩ := f; simp [resolveFields, ih]

@[simp] theorem keeps_writeFields (as : List (List Nat)) (vs : List Nat) : Keeps (writeFields as vs) := by
  induction as generalizing vs with
  | nil => exact keeps_pure _
  | cons a as ih => cases vs <;> simp [writeFields, ih]

@[simp] theorem keeps_readFields (as : List (List Nat)) : Keeps (readFields as) := by
  induction as with
  | nil => exact keeps_pure _
  | cons a as ih => simp [readFields, ih]

@[simp] theorem keeps_updateByte (as : List Nat) (c s : Nat) : Keeps (updateByte as c s) := by simp [updateByte]

@[simp] theorem keeps_loadHalfReg (vs : List Nat) (i : Nat) : Keeps (loadHalfReg vs i) := by simp [loadHalfReg]

@[simp] theorem keeps_loadGprs (w : Bool) (vs : List Nat) : Keeps (loadGprs w vs) := by
  simp (maxDischargeDepth := 99) [loadGprs]

@[simp] theorem keeps_loadTaskLdt (x : Bool) : Keeps (loadTaskLdt x) := by
  unfold loadTaskLdt
  refine keeps_bind keeps_get fun s => keeps_ite (keeps_pure _) ?_
  refine keeps_ite (keeps_raiseSel _ _ _) (keeps_bind (keeps_tableRead _ _ _ _) fun d => ?_)
  cases d with
  | none => exact keeps_raiseSel _ _ _
  | some d => exact keeps_ite (keeps_raiseSel _ _ _) (keeps_ite (keeps_raiseSel _ _ _) (keeps_modify fun s => sound_mk ..))

@[simp] theorem keeps_loadTaskCs (l : BitVec 2) (x : Bool) : Keeps (loadTaskCs l x) := by
  simp (maxDischargeDepth := 99) [loadTaskCs]

@[simp] theorem keeps_loadTaskSs (l : BitVec 2) (x : Bool) : Keeps (loadTaskSs l x) := by
  simp (maxDischargeDepth := 99) [loadTaskSs]

@[simp] theorem keeps_loadTaskData (l : BitVec 2) (x : Bool) (r : SegReg) : Keeps (loadTaskData l x r) := by
  simp (maxDischargeDepth := 99) [loadTaskData]

@[simp] theorem keeps_loadTaskSegments (x : Bool) : Keeps (loadTaskSegments x) := by
  simp (maxDischargeDepth := 99) [loadTaskSegments]

@[simp] theorem keeps_afterCommit {m : M Unit} (h : Keeps m) : Keeps (afterCommit m) := by
  intro s
  have h1 := h s
  unfold afterCommit
  cases hm : m s with
  | ok a t => rw [hm] at h1; exact h1
  | error e t => rw [hm] at h1; cases e <;> exact h1

@[simp] theorem keeps_pushQuiet (b v : Nat) (x : Bool) : Keeps (pushQuiet b v x) := by
  simp (maxDischargeDepth := 99) [pushQuiet]

/-- EFLAGS of a new task has its fixed bits in place. -/
theorem fixEflags_taskEflags (p : Params) (k : SwitchKind) (img : Word32) :
    fixEflags p (taskEflags p k img) = taskEflags p k img := by
  unfold taskEflags
  have h := fixEflags_idem p img
  simp only []
  split
  · exact fixEflags_setBit p _ 14 true h rfl rfl
  · split
    · exact fixEflags_setBit p _ 14 false h rfl rfl
    · exact h

theorem sound_enterTask (s : State) (k : SwitchKind) (w : Bool) (c : Word32) (vs : List Nat) (g : GprFile) :
    Sound s (s.enterTask k w c vs g) := by
  have h7 : s.dr7 &&& ~~~(0xFFFF03FF#32) = 0 → s.dr7 &&& 0xFFFFFEAA &&& ~~~(0xFFFF03FF#32) = 0 := by
    intro h
    rw [BitVec.and_assoc, BitVec.and_comm (0xFFFFFEAA : Word32), ← BitVec.and_assoc, h]
    exact BitVec.zero_and
  unfold State.enterTask
  cases s.taskLoadsCr3 w
  · exact ⟨rfl, fun i => ⟨i.mem, fixEflags_taskEflags _ _ _, i.paging, i.cr4, i.dr6, h7 i.dr7⟩⟩
  · exact ⟨rfl, fun i => ⟨i.mem, fixEflags_taskEflags _ _ _, i.paging, i.cr4, i.dr6, h7 i.dr7⟩⟩

/-- CR0.TS set: PG and PE stay. -/
theorem sound_setTs (s : State) (b : Bool) (tr : SegState) :
    Sound s { s with tr := tr, cr0 := setBit s.cr0 3 b } :=
  ⟨rfl, fun i => ⟨i.mem, i.eflags, by
    have h := i.paging
    simp only [State.pg, State.pe, bit_setBit_other _ 3 31 b (by decide), bit_setBit_other _ 3 0 b (by decide)] at h ⊢
    exact h, i.cr4, i.dr6, i.dr7⟩⟩

end task

end Sys2Proof.Machine
end

