-- ==== Sys2Proof/Laws/KeepsEvents.lean ====
section
/-! SUPPORT. The task switch, operands, taking an exception and returning from one keep the parameters and the invariant:
one lemma for each. -/

namespace Sys2Proof.Machine

open Sys2Proof

section switch

@[simp] theorem keeps_resolvePlan (k : SwitchKind) (sel : Word16) (nd : Desc) : Keeps (resolvePlan k sel nd) := by
  simp (maxDischargeDepth := 99) [resolvePlan]

@[simp] theorem keeps_planSwitch (k : SwitchKind) (sel : Word16) (x : Bool) : Keeps (planSwitch k sel x) := by
  simp (maxDischargeDepth := 99) [planSwitch]

@[simp] theorem keeps_commitSwitch (k : SwitchKind) (sel : Word16) (p : SwitchPlan) (r : Word32) (rf : Bool) :
    Keeps (commitSwitch k sel p r rf) := by
  simp (maxDischargeDepth := 99) [commitSwitch, sound_setTs]

@[simp] theorem keeps_pushTaskCode (w x : Bool) (c : Option Word32) : Keeps (pushTaskCode w x c) := by
  cases c <;> simp [pushTaskCode]

@[simp] theorem keeps_startTask (k : SwitchKind) (w : Bool) (cr : Word32) (vs : List Nat) (x : Bool)
    (c : Option Word32) : Keeps (startTask k w cr vs x c) := by
  unfold startTask
  refine keeps_bind (by simp) fun g => keeps_bind (keeps_bind keeps_get fun _ => keeps_requireAsRead _) fun _ => ?_
  refine keeps_bind (keeps_modify fun s => sound_enterTask ..) fun _ => ?_
  refine keeps_bind (keeps_afterCommit ?_) fun _ => keeps_modify fun s => sound_mk ..
  exact keeps_bind (keeps_loadTaskSegments _) fun _ => keeps_bind keeps_get fun s => by simp

@[simp] theorem keeps_taskSwitch (k : SwitchKind) (sel : Word16) (r : Word32) (x rf : Bool) (c : Option Word32) :
    Keeps (taskSwitch k sel r x rf c) := by
  simp [taskSwitch]

end switch

section operands

@[simp] theorem keeps_noLock (p : Prefixes) : Keeps (noLock p) := by simp [noLock]
@[simp] theorem keeps_plainPrefixes (p : Prefixes) : Keeps (plainPrefixes p) := by simp [plainPrefixes]
@[simp] theorem keeps_readMem (p : Prefixes) (m : MemOp) (i n a : Nat) : Keeps (readMem p m i n a) := by
  simp [readMem]
@[simp] theorem keeps_probeMem (p : Prefixes) (m : MemOp) (i n a : Nat) : Keeps (probeMem p m i n a) := by
  simp [probeMem]
@[simp] theorem keeps_writeMem (p : Prefixes) (m : MemOp) (n a v : Nat) : Keeps (writeMem p m n a v) := by
  simp [writeMem]
@[simp] theorem keeps_readRm16 (p : Prefixes) (rm : Rm) : Keeps (readRm16 p rm) := by cases rm <;> simp [readRm16]
@[simp] theorem keeps_storeRm16 (p : Prefixes) (rm : Rm) (v : Word16) : Keeps (storeRm16 p rm v) := by
  cases rm <;> simp (maxDischargeDepth := 99) [storeRm16]
@[simp] theorem keeps_readRmV (p : Prefixes) (rm : Rm) : Keeps (readRmV p rm) := by
  cases rm <;> simp (maxDischargeDepth := 99) [readRmV]
@[simp] theorem keeps_checkExtent (p : Prefixes) (m : MemOp) (n : Nat) (w : Bool) : Keeps (checkExtent p m n w) := by
  simp [checkExtent]
@[simp] theorem keeps_readFar (p : Prefixes) (m : MemOp) (b : Nat) : Keeps (readFar p m b) := by
  simp (maxDischargeDepth := 99) [readFar]

end operands

section delivery

/-- EFLAGS on entry to a handler has its fixed bits in place. -/
theorem sound_enterFlags (s : State) (b : Bool) : Sound s { s with eflags := enterFlags s.eflags b } :=
  Sound.of_eflags rfl fun h => fixEflags_clear _ _ _ h (by cases b <;> decide)

@[simp] theorem keeps_readIdtGate (v : Byte) (soft : Bool) : Keeps (readIdtGate v soft) := by
  unfold readIdtGate
  refine keeps_bind keeps_get fun s => keeps_ite ?_ (by simp (maxDischargeDepth := 99))
  cases s.params.idtOverrun <;> simp

@[simp] theorem keeps_quietSlots (base : Word32) (b : Nat) (u : Bool) (os : List Word32) :
    Keeps (quietSlots base b u os) := by
  induction os with
  | nil => exact keeps_pure _
  | cons o os ih => simp [quietSlots, ih]

@[simp] theorem keeps_enterHandler (g cd : Desc) (l : BitVec 2) (as : List Nat) : Keeps (enterHandler g cd l as) := by
  unfold enterHandler
  exact keeps_bind (keeps_modify fun s => sound_enterFlags s _) fun _ => by simp

@[simp] theorem keeps_deliverNewStack (g cd : Desc) (l : BitVec 2) (x : Bool) (is : List Nat) :
    Keeps (deliverNewStack g cd l x is) := by
  unfold deliverNewStack
  refine keeps_bind (by simp) fun a => keeps_bind (by simp) fun sd => keeps_ite (by simp) ?_
  refine keeps_bind (by simp) fun _ => keeps_bind (by simp) fun _ => keeps_bind (by simp) fun _ => ?_
  refine keeps_bind (by simp) fun _ => keeps_bind (by simp) fun _ => keeps_bind (by simp) fun _ => ?_
  exact keeps_bind (keeps_modify fun s => sound_mk ..) fun _ => by simp

@[simp] theorem keeps_deliverSameStack (g cd : Desc) (x : Bool) (is : List Nat) :
    Keeps (deliverSameStack g cd x is) := by
  simp (maxDischargeDepth := 99) [deliverSameStack]

@[simp] theorem keeps_deliverGate (g : Desc) (x : Bool) (r img : Word32) (c : Option Word32) :
    Keeps (deliverGate g x r img c) := by
  simp (maxDischargeDepth := 99) [deliverGate]

@[simp] theorem keeps_realDeliver (v : Byte) (r : Word32) : Keeps (realDeliver v r) := by
  unfold realDeliver
  refine keeps_bind keeps_get fun s => keeps_ite (by simp) ?_
  refine keeps_bind (by simp) fun _ => keeps_bind (by simp) fun _ => keeps_ite (by simp) ?_
  refine keeps_bind (by simp) fun _ => keeps_bind (by simp) fun _ => keeps_bind (by simp) fun _ => ?_
  refine keeps_bind (keeps_modify fun s => ?_) fun _ => ?_
  · exact Sound.of_eflags rfl fun h => fixEflags_clear _ _ _ h (by decide)
  · exact keeps_bind (keeps_modify fun s => sound_realLoad ..) fun _ => keeps_modify fun s => sound_mk ..

@[simp] theorem keeps_deliver (v : Byte) (soft : Bool) (r : Word32) (c : Option Word32) (rf : Bool) :
    Keeps (deliver v soft r c rf) := by
  simp (maxDischargeDepth := 99) [deliver]

@[simp] theorem keeps_debugAgain : Keeps debugAgain :=
  keeps_bind keeps_get fun _ => keeps_bind (keeps_readIdtGate _ _) fun _ => keeps_bind (by simp) fun _ => keeps_pure _

/-- What a fault leaves keeps the invariant of the state it began in. -/
theorem sound_rollback {s0 t : State} (h : Sound s0 t) (c : Bool) : Sound s0 (rollback s0 t c) := by
  cases c
  · exact ⟨rfl, fun i => ⟨(h.2 i).mem, i.eflags, i.paging, i.cr4, i.dr6, i.dr7⟩⟩
  · exact h.trans (sound_mk ..)

/-- Whatever a chain of deliveries ends in keeps the invariant. -/
theorem sound_settle (n : Nat) (cls : EvClass) (ev : M Bool) (b t : State) (hev : Keeps ev)
    (h : settle n cls ev b = .next t) : Sound b t := by
  induction n generalizing cls ev b with
  | zero =>
    simp only [settle, Host.Outcome.next.injEq] at h
    exact h ▸ sound_shut b
  | succ n ih =>
    unfold settle at h
    have hb := hev b
    cases hm : ev b with
    | ok a u =>
      rw [hm] at h hb
      simp only [Host.Outcome.next.injEq] at h
      exact h ▸ hb
    | error e u =>
      rw [hm] at h hb
      cases e with
      | fault f => simp at h
      | refuse r => simp at h
      | shutdown =>
        simp only [Host.Outcome.next.injEq] at h
        exact h ▸ (sound_rollback hb false).trans (sound_shut _)
      | exn e =>
        simp only at h
        have hr := sound_rollback hb e.committed
        split at h
        · simp only [Host.Outcome.next.injEq] at h
          exact h ▸ hr.trans (sound_shut _)
        · split at h
          · exact hr.trans (ih _ _ _ (keeps_deliver _ _ _ _ _) h)
          · exact hr.trans (ih _ _ _ (keeps_deliver _ _ _ _ _) h)

/-- What an exception of an instruction ends in keeps the invariant. -/
theorem sound_failed {s0 u t : State} (e : Err) (hu : Sound s0 u) (h : failed s0 e u = .next t) : Sound s0 t := by
  unfold failed at h
  cases e with
  | fault f => simp at h
  | refuse r => simp at h
  | shutdown =>
    simp only [Host.Outcome.next.injEq] at h
    exact h ▸ (sound_rollback hu false).trans (sound_shut _)
  | exn e => exact (sound_rollback hu e.committed).trans (sound_settle _ _ _ _ _ (keeps_deliver _ _ _ _ _) h)

/-- An instruction whose effect keeps the invariant ends in a state that has it. -/
theorem sound_runInstr {m : M Done} (hm : Keeps m) {s t : State} (h : runInstr m s = .next t) : Sound s t := by
  unfold runInstr at h
  have hb := hm s.begin
  cases hr : m s.begin with
  | ok d u =>
    rw [hr] at h hb
    simp only [Host.Outcome.next.injEq] at h
    exact h ▸ ((sound_begin s).trans hb).trans (sound_finish u d)
  | error e u =>
    rw [hr] at h hb
    exact sound_failed e ((sound_begin s).trans hb) h

@[simp] theorem keeps_advance (p : Prefixes) (n : Nat) : Keeps (advance p n) := by simp [advance]
@[simp] theorem keeps_requireCpl0 : Keeps requireCpl0 := by simp [requireCpl0]
@[simp] theorem keeps_requireProtected : Keeps requireProtected := by simp [requireProtected]
@[simp] theorem keeps_requireStack (o : Word32) (n : Nat) : Keeps (requireStack o n) := by simp [requireStack]
@[simp] theorem keeps_readStack (o : Word32) (n : Nat) : Keeps (readStack o n) := keeps_memRead _ _ _ _
@[simp] theorem keeps_returnCode (c : Word16) : Keeps (returnCode c) := by
  simp (maxDischargeDepth := 99) [returnCode]
@[simp] theorem keeps_commitOuter (c : Word16) (cd : Desc) (n : Word16) (sd : Desc) (w : Bool) (e : Word32) :
    Keeps (commitOuter c cd n sd w e) := by
  unfold commitOuter
  refine keeps_bind (by simp) fun _ => keeps_bind (by simp) fun _ => keeps_bind (by simp) fun _ => ?_
  refine keeps_bind (by simp) fun _ => ?_
  split_ifs
  · exact keeps_bind (keeps_pure _) fun _ => keeps_modify fun s => sound_mk ..
  · exact keeps_bind keeps_freshWord fun _ => keeps_modify fun s => sound_mk ..

end delivery

section back

@[simp] theorem keeps_iretReal (w : Bool) : Keeps (iretReal w) := by
  simp (maxDischargeDepth := 99) [iretReal]

@[simp] theorem keeps_iretToV86 (t e : Word32) (c : Word16) (f : Word32) : Keeps (iretToV86 t e c f) := by
  unfold iretToV86
  refine keeps_bind keeps_get fun s => keeps_bind (by simp) fun _ => ?_
  refine keeps_bind (by simp) fun _ => keeps_bind (by simp) fun _ => keeps_bind (by simp) fun _ => ?_
  refine keeps_bind (by simp) fun _ => keeps_bind (by simp) fun _ => keeps_bind (by simp) fun _ => ?_
  refine keeps_bind (by simp) fun _ => keeps_bind (by simp) fun _ => ?_
  exact keeps_bind (keeps_modify fun s => sound_mk ..) fun _ => keeps_pure _

@[simp] theorem keeps_iretWithin (w : Bool) (t e : Word32) (c : Word16) (f : Word32) : Keeps (iretWithin w t e c f) := by
  simp (maxDischargeDepth := 99) [iretWithin]

@[simp] theorem keeps_exceptionReturn (w : Bool) (n : Word32) : Keeps (exceptionReturn w n) := by
  simp (maxDischargeDepth := 99) [exceptionReturn, iretTask, iretProtected]

end back

end Sys2Proof.Machine
end

