-- ==== Sys2Proof/Laws/PerInstr.lean ====
section
/-! SUPPORT. A law of every instruction as syntax: its encoding has at least one and at most fifteen bytes. -/

namespace Sys2Proof.Laws

open Sys2Proof

@[simp] theorem bytesOf_length (n v : Nat) : (bytesOf n v).length = n := by
  induction n generalizing v with
  | zero => rfl
  | succ n ih => simp [bytesOf, ih]

@[simp] theorem pb_length (p : Prefixes) : (pb p).length = p.length := by simp [pb]

@[simp] theorem encodeMem_length (reg : BitVec 3) (m : MemOp) : (encodeMem reg m).length = m.size := by
  cases m with
  | direct16 d => simp [encodeMem, MemOp.size]
  | based16 b d => cases d <;> simp [encodeMem, MemOp.size, Disp16.size]
  | direct32 d => simp [encodeMem, MemOp.size]
  | based32 b d => cases d <;> simp [encodeMem, MemOp.size, Disp32.size]
  | sib s i b d => cases d <;> simp [encodeMem, MemOp.size, Disp32.size]
  | sibNoBase s i d => simp [encodeMem, MemOp.size]

@[simp] theorem encodeRm_length (reg : BitVec 3) (rm : Rm) : (encodeRm reg rm).length = rm.size := by
  cases rm <;> simp [encodeRm, Rm.size]

@[simp] theorem encodeRel_length (d : Rel) : (encodeRel d).length = d.size := by
  cases d <;> simp [encodeRel, Rel.size]

@[simp] theorem encodeFar_length (t : FarPtr) : (encodeFar t).length = t.size := by
  cases t <;> simp [encodeFar, FarPtr.size]

/-- A well-formed instruction has between one and fifteen bytes (30_encoding.md R338). -/
def Length.Statement (i : Instr) : Prop :=
  ∀ db, i.wf db = true → 1 ≤ (encode i).length ∧ (encode i).length ≤ 15

/-- The length check of well-formedness bounds a list of that many bytes. -/
theorem length_of_wfLen {p : Prefixes} {n : Nat} {l : List Byte} (h : wfLen p n = true) (hn : 1 ≤ n)
    (hl : l.length = p.length + n) : 1 ≤ l.length ∧ l.length ≤ 15 := by
  simp only [wfLen, decide_eq_true_eq] at h
  omega

/-- The length of an instruction with nothing after its opcode bytes, or with an immediate. -/
theorem length_plain {p : Prefixes} {n : Nat} {bs : List Byte} (h : wfPlain p n = true) (hn : 1 ≤ n)
    (hb : bs.length = n) : 1 ≤ (pb p ++ bs).length ∧ (pb p ++ bs).length ≤ 15 :=
  length_of_wfLen h hn (by simp [hb])

/-- The length of an instruction with an immediate word. -/
theorem length_imm {p : Prefixes} {b : Byte} {v : Nat} (h : wfPlain p 3 = true) :
    1 ≤ (pb p ++ [b] ++ bytesOf 2 v).length ∧ (pb p ++ [b] ++ bytesOf 2 v).length ≤ 15 :=
  length_of_wfLen h (by omega) (by simp)

/-- The length of an instruction with an r/m operand. -/
theorem length_rm {db : Bool} {p : Prefixes} {n : Nat} {bs : List Byte} {reg : BitVec 3} {rm : Rm}
    (h : wfRm db p n rm = true) (hn : 1 ≤ n) (hb : bs.length = n) :
    1 ≤ (pb p ++ bs ++ encodeRm reg rm).length ∧ (pb p ++ bs ++ encodeRm reg rm).length ≤ 15 := by
  simp only [wfRm, Bool.and_eq_true] at h
  exact length_of_wfLen h.2 (by omega) (by simp [hb])

/-- The length of an instruction with a memory operand. -/
theorem length_mem {db : Bool} {p : Prefixes} {n : Nat} {bs : List Byte} {reg : BitVec 3} {m : MemOp}
    (h : wfMem db p n m = true) (hn : 1 ≤ n) (hb : bs.length = n) :
    1 ≤ (pb p ++ bs ++ encodeMem reg m).length ∧ (pb p ++ bs ++ encodeMem reg m).length ≤ 15 := by
  simp only [wfMem, Bool.and_eq_true] at h
  exact length_of_wfLen h.2 (by omega) (by simp [hb])

/-- The length of an instruction with a displacement of operand size. -/
theorem length_rel {c : Bool} {p : Prefixes} {b : Byte} {d : Rel} (h : (c && wfLen p (1 + d.size)) = true) :
    1 ≤ (pb p ++ [b] ++ encodeRel d).length ∧ (pb p ++ [b] ++ encodeRel d).length ≤ 15 := by
  simp only [Bool.and_eq_true] at h
  exact length_of_wfLen h.2 (by omega) (by simp; omega)

/-- The length of an instruction with a far pointer. -/
theorem length_far {c : Bool} {p : Prefixes} {b : Byte} {t : FarPtr} (h : (c && wfLen p (1 + t.size)) = true) :
    1 ≤ (pb p ++ [b] ++ encodeFar t).length ∧ (pb p ++ [b] ++ encodeFar t).length ≤ 15 := by
  simp only [Bool.and_eq_true] at h
  exact length_of_wfLen h.2 (by omega) (by simp; omega)

/-- The length of a prefix row. -/
theorem length_of_tail {p : Prefixes} {t : PrefixTail} {b : Byte} (h : t.wf p = true) :
    1 ≤ (b :: pb p ++ t.bytes).length ∧ (b :: pb p ++ t.bytes).length ≤ 15 := by
  cases t with
  | overlong rest =>
    simp only [PrefixTail.wf, decide_eq_true_eq] at h
    simp [PrefixTail.bytes]
    omega
  | application op =>
    simp only [PrefixTail.wf, Bool.and_eq_true, decide_eq_true_eq] at h
    simp [PrefixTail.bytes]
    omega

theorem Length.sldt (p : Prefixes) (rm : Rm) : Length.Statement (.sldt p rm) :=
  fun _ h => length_rm h (by omega) rfl

theorem Length.str (p : Prefixes) (rm : Rm) : Length.Statement (.str p rm) :=
  fun _ h => length_rm h (by omega) rfl

theorem Length.lldt (p : Prefixes) (rm : Rm) : Length.Statement (.lldt p rm) :=
  fun _ h => length_rm h (by omega) rfl

theorem Length.ltr (p : Prefixes) (rm : Rm) : Length.Statement (.ltr p rm) :=
  fun _ h => length_rm h (by omega) rfl

theorem Length.verr (p : Prefixes) (rm : Rm) : Length.Statement (.verr p rm) :=
  fun _ h => length_rm h (by omega) rfl

theorem Length.verw (p : Prefixes) (rm : Rm) : Length.Statement (.verw p rm) :=
  fun _ h => length_rm h (by omega) rfl

theorem Length.undef0F00r6 (p : Prefixes) (rm : Rm) : Length.Statement (.undef0F00r6 p rm) :=
  fun _ h => length_rm h (by omega) rfl

theorem Length.undef0F00r7 (p : Prefixes) (rm : Rm) : Length.Statement (.undef0F00r7 p rm) :=
  fun _ h => length_rm h (by omega) rfl

theorem Length.sgdt (p : Prefixes) (rm : Rm) : Length.Statement (.sgdt p rm) :=
  fun _ h => length_rm h (by omega) rfl

theorem Length.sidt (p : Prefixes) (rm : Rm) : Length.Statement (.sidt p rm) :=
  fun _ h => length_rm h (by omega) rfl

theorem Length.lgdt (p : Prefixes) (rm : Rm) : Length.Statement (.lgdt p rm) :=
  fun _ h => length_rm h (by omega) rfl

theorem Length.lidt (p : Prefixes) (rm : Rm) : Length.Statement (.lidt p rm) :=
  fun _ h => length_rm h (by omega) rfl

theorem Length.smsw (p : Prefixes) (rm : Rm) : Length.Statement (.smsw p rm) :=
  fun _ h => length_rm h (by omega) rfl

theorem Length.undef0F01r5 (p : Prefixes) (rm : Rm) : Length.Statement (.undef0F01r5 p rm) :=
  fun _ h => length_rm h (by omega) rfl

theorem Length.lmsw (p : Prefixes) (rm : Rm) : Length.Statement (.lmsw p rm) :=
  fun _ h => length_rm h (by omega) rfl

theorem Length.invlpg (p : Prefixes) (rm : Rm) : Length.Statement (.invlpg p rm) :=
  fun _ h => length_rm h (by omega) rfl

theorem Length.lar (p : Prefixes) (r : Reg) (rm : Rm) : Length.Statement (.lar p r rm) :=
  fun _ h => length_rm h (by omega) rfl

theorem Length.lsl (p : Prefixes) (r : Reg) (rm : Rm) : Length.Statement (.lsl p r rm) :=
  fun _ h => length_rm h (by omega) rfl

theorem Length.clts (p : Prefixes) : Length.Statement (.clts p) :=
  fun _ h => length_plain h (by omega) rfl

theorem Length.invd (p : Prefixes) : Length.Statement (.invd p) :=
  fun _ h => length_plain h (by omega) rfl

theorem Length.wbinvd (p : Prefixes) : Length.Statement (.wbinvd p) :=
  fun _ h => length_plain h (by omega) rfl

theorem Length.movFromCr (p : Prefixes) (r : Reg) (cr : BitVec 3) : Length.Statement (.movFromCr p r cr) :=
  fun _ h => length_plain h (by omega) rfl

theorem Length.movFromDr (p : Prefixes) (r : Reg) (dr : BitVec 3) : Length.Statement (.movFromDr p r dr) :=
  fun _ h => length_plain h (by omega) rfl

theorem Length.movToCr (p : Prefixes) (cr : BitVec 3) (r : Reg) : Length.Statement (.movToCr p cr r) :=
  fun _ h => length_plain h (by omega) rfl

theorem Length.movToDr (p : Prefixes) (dr : BitVec 3) (r : Reg) : Length.Statement (.movToDr p dr r) :=
  fun _ h => length_plain h (by omega) rfl

theorem Length.movFromTr (p : Prefixes) (r : Reg) (tr : BitVec 3) : Length.Statement (.movFromTr p r tr) :=
  fun _ h => length_plain h (by omega) rfl

theorem Length.movToTr (p : Prefixes) (tr : BitVec 3) (r : Reg) : Length.Statement (.movToTr p tr r) :=
  fun _ h => length_plain h (by omega) rfl

theorem Length.wrmsr (p : Prefixes) : Length.Statement (.wrmsr p) :=
  fun _ h => length_plain h (by omega) rfl

theorem Length.rdtsc (p : Prefixes) : Length.Statement (.rdtsc p) :=
  fun _ h => length_plain h (by omega) rfl

theorem Length.rdmsr (p : Prefixes) : Length.Statement (.rdmsr p) :=
  fun _ h => length_plain h (by omega) rfl

theorem Length.rdpmc (p : Prefixes) : Length.Statement (.rdpmc p) :=
  fun _ h => length_plain h (by omega) rfl

theorem Length.rsm (p : Prefixes) : Length.Statement (.rsm p) :=
  fun _ h => length_plain h (by omega) rfl

theorem Length.hlt (p : Prefixes) : Length.Statement (.hlt p) :=
  fun _ h => length_plain h (by omega) rfl

theorem Length.arpl (p : Prefixes) (rm : Rm) (r : Reg) : Length.Statement (.arpl p rm r) :=
  fun _ h => length_rm h (by omega) rfl

theorem Length.movToSeg (p : Prefixes) (sreg : BitVec 3) (rm : Rm) : Length.Statement (.movToSeg p sreg rm) :=
  fun _ h => length_rm h (by omega) rfl

theorem Length.movFromSeg (p : Prefixes) (rm : Rm) (sreg : BitVec 3) : Length.Statement (.movFromSeg p rm sreg) :=
  fun _ h => length_rm h (by omega) rfl

theorem Length.popEs (p : Prefixes) : Length.Statement (.popEs p) :=
  fun _ h => length_plain h (by omega) rfl

theorem Length.popSs (p : Prefixes) : Length.Statement (.popSs p) :=
  fun _ h => length_plain h (by omega) rfl

theorem Length.popDs (p : Prefixes) : Length.Statement (.popDs p) :=
  fun _ h => length_plain h (by omega) rfl

theorem Length.popFs (p : Prefixes) : Length.Statement (.popFs p) :=
  fun _ h => length_plain h (by omega) rfl

theorem Length.popGs (p : Prefixes) : Length.Statement (.popGs p) :=
  fun _ h => length_plain h (by omega) rfl

theorem Length.pushEs (p : Prefixes) : Length.Statement (.pushEs p) :=
  fun _ h => length_plain h (by omega) rfl

theorem Length.pushCs (p : Prefixes) : Length.Statement (.pushCs p) :=
  fun _ h => length_plain h (by omega) rfl

theorem Length.pushSs (p : Prefixes) : Length.Statement (.pushSs p) :=
  fun _ h => length_plain h (by omega) rfl

theorem Length.pushDs (p : Prefixes) : Length.Statement (.pushDs p) :=
  fun _ h => length_plain h (by omega) rfl

theorem Length.pushFs (p : Prefixes) : Length.Statement (.pushFs p) :=
  fun _ h => length_plain h (by omega) rfl

theorem Length.pushGs (p : Prefixes) : Length.Statement (.pushGs p) :=
  fun _ h => length_plain h (by omega) rfl

theorem Length.les (p : Prefixes) (r : Reg) (rm : Rm) : Length.Statement (.les p r rm) :=
  fun _ h => length_rm h (by omega) rfl

theorem Length.lds (p : Prefixes) (r : Reg) (rm : Rm) : Length.Statement (.lds p r rm) :=
  fun _ h => length_rm h (by omega) rfl

theorem Length.lss (p : Prefixes) (r : Reg) (rm : Rm) : Length.Statement (.lss p r rm) :=
  fun _ h => length_rm h (by omega) rfl

theorem Length.lfs (p : Prefixes) (r : Reg) (rm : Rm) : Length.Statement (.lfs p r rm) :=
  fun _ h => length_rm h (by omega) rfl

theorem Length.lgs (p : Prefixes) (r : Reg) (rm : Rm) : Length.Statement (.lgs p r rm) :=
  fun _ h => length_rm h (by omega) rfl

theorem Length.jmpRel8 (p : Prefixes) (d : BitVec 8) : Length.Statement (.jmpRel8 p d) :=
  fun _ h => length_plain h (by omega) rfl

theorem Length.jmpRel (p : Prefixes) (d : Rel) : Length.Statement (.jmpRel p d) :=
  fun _ h => length_rel h

theorem Length.jmpRm (p : Prefixes) (rm : Rm) : Length.Statement (.jmpRm p rm) :=
  fun _ h => length_rm h (by omega) rfl

theorem Length.jmpFar (p : Prefixes) (t : FarPtr) : Length.Statement (.jmpFar p t) :=
  fun _ h => length_far h

theorem Length.jmpFarMem (p : Prefixes) (rm : Rm) : Length.Statement (.jmpFarMem p rm) :=
  fun _ h => length_rm h (by omega) rfl

theorem Length.callRel (p : Prefixes) (d : Rel) : Length.Statement (.callRel p d) :=
  fun _ h => length_rel h

theorem Length.callRm (p : Prefixes) (rm : Rm) : Length.Statement (.callRm p rm) :=
  fun _ h => length_rm h (by omega) rfl

theorem Length.callFar (p : Prefixes) (t : FarPtr) : Length.Statement (.callFar p t) :=
  fun _ h => length_far h

theorem Length.callFarMem (p : Prefixes) (rm : Rm) : Length.Statement (.callFarMem p rm) :=
  fun _ h => length_rm h (by omega) rfl

theorem Length.ret (p : Prefixes) : Length.Statement (.ret p) :=
  fun _ h => length_plain h (by omega) rfl

theorem Length.retImm (p : Prefixes) (n : BitVec 16) : Length.Statement (.retImm p n) :=
  fun _ h => length_imm h

theorem Length.retFar (p : Prefixes) : Length.Statement (.retFar p) :=
  fun _ h => length_plain h (by omega) rfl

theorem Length.retFarImm (p : Prefixes) (n : BitVec 16) : Length.Statement (.retFarImm p n) :=
  fun _ h => length_imm h

theorem Length.inAlImm (p : Prefixes) (port : BitVec 8) : Length.Statement (.inAlImm p port) :=
  fun _ h => length_plain h (by omega) rfl

theorem Length.inAxImm (p : Prefixes) (port : BitVec 8) : Length.Statement (.inAxImm p port) :=
  fun _ h => length_plain h (by omega) rfl

theorem Length.inAlDx (p : Prefixes) : Length.Statement (.inAlDx p) :=
  fun _ h => length_plain h (by omega) rfl

theorem Length.inAxDx (p : Prefixes) : Length.Statement (.inAxDx p) :=
  fun _ h => length_plain h (by omega) rfl

theorem Length.outImmAl (p : Prefixes) (port : BitVec 8) : Length.Statement (.outImmAl p port) :=
  fun _ h => length_plain h (by omega) rfl

theorem Length.outImmAx (p : Prefixes) (port : BitVec 8) : Length.Statement (.outImmAx p port) :=
  fun _ h => length_plain h (by omega) rfl

theorem Length.outDxAl (p : Prefixes) : Length.Statement (.outDxAl p) :=
  fun _ h => length_plain h (by omega) rfl

theorem Length.outDxAx (p : Prefixes) : Length.Statement (.outDxAx p) :=
  fun _ h => length_plain h (by omega) rfl

theorem Length.insb (p : Prefixes) : Length.Statement (.insb p) :=
  fun _ h => length_plain h (by omega) rfl

theorem Length.insv (p : Prefixes) : Length.Statement (.insv p) :=
  fun _ h => length_plain h (by omega) rfl

theorem Length.outsb (p : Prefixes) : Length.Statement (.outsb p) :=
  fun _ h => length_plain h (by omega) rfl

theorem Length.outsv (p : Prefixes) : Length.Statement (.outsv p) :=
  fun _ h => length_plain h (by omega) rfl

theorem Length.cli (p : Prefixes) : Length.Statement (.cli p) :=
  fun _ h => length_plain h (by omega) rfl

theorem Length.sti (p : Prefixes) : Length.Statement (.sti p) :=
  fun _ h => length_plain h (by omega) rfl

theorem Length.pushf (p : Prefixes) : Length.Statement (.pushf p) :=
  fun _ h => length_plain h (by omega) rfl

theorem Length.popf (p : Prefixes) : Length.Statement (.popf p) :=
  fun _ h => length_plain h (by omega) rfl

theorem Length.int3 (p : Prefixes) : Length.Statement (.int3 p) :=
  fun _ h => length_plain h (by omega) rfl

theorem Length.intImm (p : Prefixes) (vector : BitVec 8) : Length.Statement (.intImm p vector) :=
  fun _ h => length_plain h (by omega) rfl

theorem Length.into (p : Prefixes) : Length.Statement (.into p) :=
  fun _ h => length_plain h (by omega) rfl

theorem Length.bound (p : Prefixes) (r : Reg) (rm : Rm) : Length.Statement (.bound p r rm) :=
  fun _ h => length_rm h (by omega) rfl

theorem Length.iret (p : Prefixes) : Length.Statement (.iret p) :=
  fun _ h => length_plain h (by omega) rfl

theorem Length.wait (p : Prefixes) : Length.Statement (.wait p) :=
  fun _ h => length_plain h (by omega) rfl

theorem Length.esc (p : Prefixes) (op : BitVec 3) (reg : BitVec 3) (rm : Rm) : Length.Statement (.esc p op reg rm) :=
  fun _ h => length_rm (Bool.and_eq_true_iff.mp h).2 (by omega) rfl

theorem Length.fninit (p : Prefixes) : Length.Statement (.fninit p) :=
  fun _ h => length_plain h (by omega) rfl

theorem Length.fnclex (p : Prefixes) : Length.Statement (.fnclex p) :=
  fun _ h => length_plain h (by omega) rfl

theorem Length.fnstswAx (p : Prefixes) : Length.Statement (.fnstswAx p) :=
  fun _ h => length_plain h (by omega) rfl

theorem Length.fnstswMem (p : Prefixes) (m : MemOp) : Length.Statement (.fnstswMem p m) :=
  fun _ h => length_mem h (by omega) rfl

theorem Length.fnstcw (p : Prefixes) (m : MemOp) : Length.Statement (.fnstcw p m) :=
  fun _ h => length_mem h (by omega) rfl

theorem Length.fnstenv (p : Prefixes) (m : MemOp) : Length.Statement (.fnstenv p m) :=
  fun _ h => length_mem h (by omega) rfl

theorem Length.fnsave (p : Prefixes) (m : MemOp) : Length.Statement (.fnsave p m) :=
  fun _ h => length_mem h (by omega) rfl

theorem Length.prefixLock (p : Prefixes) (tail : PrefixTail) : Length.Statement (.prefixLock p tail) :=
  fun _ h => length_of_tail h

theorem Length.prefixRepne (p : Prefixes) (tail : PrefixTail) : Length.Statement (.prefixRepne p tail) :=
  fun _ h => length_of_tail h

theorem Length.prefixRep (p : Prefixes) (tail : PrefixTail) : Length.Statement (.prefixRep p tail) :=
  fun _ h => length_of_tail h

theorem Length.prefixEs (p : Prefixes) (tail : PrefixTail) : Length.Statement (.prefixEs p tail) :=
  fun _ h => length_of_tail h

theorem Length.prefixCs (p : Prefixes) (tail : PrefixTail) : Length.Statement (.prefixCs p tail) :=
  fun _ h => length_of_tail h

theorem Length.prefixSs (p : Prefixes) (tail : PrefixTail) : Length.Statement (.prefixSs p tail) :=
  fun _ h => length_of_tail h

theorem Length.prefixDs (p : Prefixes) (tail : PrefixTail) : Length.Statement (.prefixDs p tail) :=
  fun _ h => length_of_tail h

theorem Length.prefixFs (p : Prefixes) (tail : PrefixTail) : Length.Statement (.prefixFs p tail) :=
  fun _ h => length_of_tail h

theorem Length.prefixGs (p : Prefixes) (tail : PrefixTail) : Length.Statement (.prefixGs p tail) :=
  fun _ h => length_of_tail h

theorem Length.prefixOpSize (p : Prefixes) (tail : PrefixTail) : Length.Statement (.prefixOpSize p tail) :=
  fun _ h => length_of_tail h

theorem Length.prefixAddrSize (p : Prefixes) (tail : PrefixTail) : Length.Statement (.prefixAddrSize p tail) :=
  fun _ h => length_of_tail h

theorem Length.reserved82 (p : Prefixes) : Length.Statement (.reserved82 p) :=
  fun _ h => length_plain h (by omega) rfl

theorem Length.reservedD6 (p : Prefixes) : Length.Statement (.reservedD6 p) :=
  fun _ h => length_plain h (by omega) rfl

theorem Length.reservedF1 (p : Prefixes) : Length.Statement (.reservedF1 p) :=
  fun _ h => length_plain h (by omega) rfl

theorem Length.reserved0F07 (p : Prefixes) : Length.Statement (.reserved0F07 p) :=
  fun _ h => length_plain h (by omega) rfl

theorem Length.reserved0F10 (p : Prefixes) : Length.Statement (.reserved0F10 p) :=
  fun _ h => length_plain h (by omega) rfl

theorem Length.reserved0F11 (p : Prefixes) : Length.Statement (.reserved0F11 p) :=
  fun _ h => length_plain h (by omega) rfl

theorem Length.reserved0F12 (p : Prefixes) : Length.Statement (.reserved0F12 p) :=
  fun _ h => length_plain h (by omega) rfl

theorem Length.reserved0F13 (p : Prefixes) : Length.Statement (.reserved0F13 p) :=
  fun _ h => length_plain h (by omega) rfl

theorem Length.reservedF6r1 (p : Prefixes) (rm : Rm) : Length.Statement (.reservedF6r1 p rm) :=
  fun _ h => length_rm h (by omega) rfl

theorem Length.reservedF7r1 (p : Prefixes) (rm : Rm) : Length.Statement (.reservedF7r1 p rm) :=
  fun _ h => length_rm h (by omega) rfl

theorem Length.reservedC0r6 (p : Prefixes) (rm : Rm) : Length.Statement (.reservedC0r6 p rm) :=
  fun _ h => length_rm h (by omega) rfl

theorem Length.reservedC1r6 (p : Prefixes) (rm : Rm) : Length.Statement (.reservedC1r6 p rm) :=
  fun _ h => length_rm h (by omega) rfl

theorem Length.reservedD0r6 (p : Prefixes) (rm : Rm) : Length.Statement (.reservedD0r6 p rm) :=
  fun _ h => length_rm h (by omega) rfl

theorem Length.reservedD1r6 (p : Prefixes) (rm : Rm) : Length.Statement (.reservedD1r6 p rm) :=
  fun _ h => length_rm h (by omega) rfl

theorem Length.reservedD2r6 (p : Prefixes) (rm : Rm) : Length.Statement (.reservedD2r6 p rm) :=
  fun _ h => length_rm h (by omega) rfl

theorem Length.reservedD3r6 (p : Prefixes) (rm : Rm) : Length.Statement (.reservedD3r6 p rm) :=
  fun _ h => length_rm h (by omega) rfl

end Sys2Proof.Laws
end

