-- ==== Sys2Proof/Laws/Run.lean ====
section
/-! SUPPORT. How the operations of `M` run, step by step, and what the checks every instruction begins with answer. -/

namespace Sys2Proof.Machine

open Sys2Proof

section run
variable {α β : Type}

@[simp] theorem run_bind (m : M α) (f : α → M β) (s : State) :
    (m >>= f) s = match m s with
      | .ok a t => f a t
      | .error e t => .error e t := by
  show EStateM.bind m f s = _
  unfold EStateM.bind
  cases m s <;> rfl

@[simp] theorem run_pure (a : α) (s : State) : (pure a : M α) s = .ok a s := rfl
@[simp] theorem run_map (f : α → β) (m : M α) (s : State) :
    (f <$> m) s = match m s with
      | .ok a t => .ok (f a) t
      | .error e t => .error e t := by
  rw [← bind_pure_comp, run_bind]
  rfl
@[simp] theorem run_get (s : State) : (get : M State) s = .ok s s := rfl
@[simp] theorem run_set (t s : State) : (set t : M Unit) s = .ok () t := rfl
@[simp] theorem run_modify (f : State → State) (s : State) : (modify f : M Unit) s = .ok () (f s) := rfl
@[simp] theorem run_throw (e : Err) (s : State) : (throw e : M α) s = .error e s := rfl
@[simp] theorem run_ite (c : Prop) [Decidable c] (a b : M α) (s : State) :
    (if c then a else b) s = if c then a s else b s := by split <;> rfl

@[simp] theorem run_raiseCode (e : Exc) (c : Word32) (s : State) :
    (raiseCode e c : M α) s = .error (.exn ⟨e, some c, false⟩) s := rfl
@[simp] theorem run_raisePlain (e : Exc) (s : State) : (raisePlain e : M α) s = .error (.exn ⟨e, none, false⟩) s := rfl
@[simp] theorem run_raiseUd (s : State) : (raiseUd : M α) s = .error (.exn ⟨.ud, none, false⟩) s := rfl
@[simp] theorem run_raiseGp0 (s : State) : (raiseGp0 : M α) s = .error (.exn ⟨.gp, some 0, false⟩) s := rfl
@[simp] theorem run_refuse (r : Refusal) (s : State) : (refuse r : M α) s = .error (.refuse r) s := rfl
@[simp] theorem run_raiseSel (e : Exc) (sel : Word16) (x : Bool) (s : State) :
    (raiseSel e sel x : M α) s = .error (.exn ⟨e, some (selectorErrorCode sel x), false⟩) s := rfl
@[simp] theorem run_raiseZero (e : Exc) (x : Bool) (s : State) :
    (raiseZero e x : M α) s = .error (.exn ⟨e, some (selectorErrorCode 0 x), false⟩) s := rfl
@[simp] theorem run_freshWord (s : State) :
    freshWord s = .ok (Config.freeWord s.free) { s with free := s.free + 1 } := rfl
@[simp] theorem run_takeFree (n : Nat) (s : State) : takeFree n s = .ok s.free { s with free := s.free + n } := rfl

end run

section checks

/-- Neither LOCK nor a repeat prefix: the prefix checks pass. -/
theorem plainPrefixes_ok {p : Prefixes} (h : Prefixes.plain p = true) (s : State) : plainPrefixes p s = .ok () s := by
  simp only [Prefixes.plain, Bool.and_eq_true, Bool.not_eq_true'] at h
  simp [plainPrefixes, noLock, h.1, h.2]

/-- No LOCK prefix: the LOCK check passes. -/
theorem noLock_ok {p : Prefixes} (h : p.has .lock = false) (s : State) : noLock p s = .ok () s := by simp [noLock, h]

theorem requireCpl0_ok {s : State} (h : s.cpl = 0) : requireCpl0 s = .ok () s := by simp [requireCpl0, h]

theorem requireCpl0_no {s : State} (h : s.cpl ≠ 0) : requireCpl0 s = .error (.exn ⟨.gp, some 0, false⟩) s := by
  have h' : ¬s.cpl = 0 := h
  simp only [requireCpl0, run_bind, run_get, run_ite, if_neg h', run_raiseGp0]

/-- A write whose reserved bits are as they read, or where the parameter lets them differ. -/
theorem requireAsRead_ok {b : Bool} {s : State} (h : s.params.reservedWrites = .keep ∨ b = true) :
    requireAsRead b s = .ok () s := by
  rcases h with h | h <;> simp [requireAsRead, h]

/-- A write the parameter refuses. -/
theorem requireAsRead_no {b : Bool} {s : State} (h : s.params.reservedWrites ≠ .keep) (hb : b = false) :
    requireAsRead b s = .error (.refuse .reservedBits) s := by
  have h' : s.params.reservedWrites = .refuse := by cases hr : s.params.reservedWrites <;> simp_all
  simp [requireAsRead, h', hb]

theorem requireProtected_ok {s : State} (h : s.protectedMode = true) : requireProtected s = .ok () s := by
  simp [requireProtected, h]

theorem requireProtected_no {s : State} (h : s.protectedMode = false) :
    requireProtected s = .error (.exn ⟨.ud, none, false⟩) s := by
  simp [requireProtected, h]

/-- An operand of several parts whose extent passes the segment's checks. -/
theorem checkExtent_ok {p : Prefixes} {m : MemOp} {n : Nat} {w : Bool} {s : State}
    (h : segOk s.protectedMode (s.seg (operandSeg p m)) (s.ea m) n w = true) : checkExtent p m n w s = .ok () s := by
  simp [checkExtent, segCheck, h]

/-- An operand of several parts whose extent does not pass the segment's checks. -/
theorem checkExtent_no {p : Prefixes} {m : MemOp} {n : Nat} {w : Bool} {s : State}
    (h : segOk s.protectedMode (s.seg (operandSeg p m)) (s.ea m) n w = false) :
    checkExtent p m n w s = .error (.exn ⟨if operandSeg p m = .ss then .ss else .gp, some 0, false⟩) s := by
  simp [checkExtent, segCheck, h, segFault]

/-- The end of an instruction that goes on to the next. -/
theorem advance_ok (p : Prefixes) (n : Nat) (s : State) :
    advance p n s = .ok .normal { s with eip := s.nextPc p n } := rfl

/-- An instruction whose effect completes. -/
theorem runInstr_ok {m : M Done} {s t : State} {d : Done} (h : m s.begin = .ok d t) :
    runInstr m s = .next (t.finish d) := by
  simp [runInstr, h]

/-- An instruction whose effect stops. -/
theorem runInstr_error {m : M Done} {s t : State} {e : Err} (h : m s.begin = .error e t) :
    runInstr m s = failed s e t := by
  simp [runInstr, h]

/-- Nothing but writable memory stands behind the addresses. -/
def AllRam (p : Params) (as : List Nat) : Prop := ∀ a ∈ as, physKind p a = .ram

/-- A platform without a map of its own has memory everywhere. -/
theorem allRam_of_empty {p : Params} (h : p.physMap = []) (as : List Nat) : AllRam p as := by
  intro a _
  simp [physKind, h]

theorem Slot.allRam {t : State} {x : Slot} (h : x.isRam t = true) : AllRam t.params x.addrs := by
  simpa [AllRam, Slot.isRam] using h

theorem ofKind_allRam {p : Params} {as : List Nat} (h : AllRam p as) {k : PhysKind} (hk : k ≠ .ram) :
    ofKind p k as = [] := by
  simp only [ofKind, List.filter_eq_nil_iff, decide_eq_true_eq]
  intro a ha e
  exact hk (e ▸ (h a ha))

theorem cellsOf_allRam {p : Params} {as : List Nat} (h : AllRam p as) (bs : List Byte) {k : PhysKind} (hk : k ≠ .ram) :
    cellsOf p k (as.zip bs) = [] := by
  simp only [cellsOf, List.filter_eq_nil_iff, decide_eq_true_eq]
  intro c hc e
  exact hk (e ▸ (h c.1 (List.of_mem_zip (a := c.1) (b := c.2) hc).1))

theorem cellsOf_ram {p : Params} {as : List Nat} (h : AllRam p as) (bs : List Byte) :
    cellsOf p .ram (as.zip bs) = as.zip bs := by
  simp only [cellsOf, List.filter_eq_self, decide_eq_true_eq]
  intro c hc
  exact h c.1 (List.of_mem_zip (a := c.1) (b := c.2) hc).1

/-- A read of writable memory answers its bytes and changes nothing. -/
theorem physReadAt_ram {s : State} {as : List Nat} (h : AllRam s.params as) :
    physReadAt as s = .ok (ofBytes (as.map s.byteAt)) s := by
  have hb : as.map s.busByte = as.map s.byteAt := List.map_congr_left fun a ha => by simp [State.busByte, h a ha]
  simp [physReadAt, requireMemory, ofKind_allRam h, State.afterRead, hb]

/-- A write of writable memory stores its bytes and changes nothing else. -/
theorem physWriteAt_ram {s : State} {as : List Nat} (h : AllRam s.params as) (v : Nat) :
    physWriteAt as v s = .ok () { s with mem := setCells s.mem as (bytesOf as.length v) } := by
  have hl : (bytesOf as.length v).length = as.length := bytesOf_length _ _
  simp [physWriteAt, requireMemory, ofKind_allRam h, State.afterWrite, cellsOf_allRam h, cellsOf_ram h, recordWrite,
    List.map_fst_zip hl.ge, List.map_snd_zip hl.le]

/-- A store in memory that is there. -/
theorem slotWrite_ok {t : State} {x : Slot} (h : x.isRam t = true) (v : Nat) : slotWrite x v t = .ok () (t.stored x v) := by
  rw [slotWrite, run_bind, physWriteAt_ram (Slot.allRam h)]
  rfl

/-- What an exception's handler is entered with is what the instruction ends in. -/
theorem raised_enters {s0 t u : State} {e : Exc} {c : Option Word32} (h : enters s0 t e c u) :
    raised s0 t e c = .next u := by
  obtain ⟨b, h⟩ := h
  have he : (rollback s0 t false).eip = s0.eip := rfl
  simp [raised, failed, settle, he, h]

end checks

end Sys2Proof.Machine
end

