-- ==== Sys2Proof/Laws/Reads.lean ====
section
/-! SUPPORT. What an access to memory can change: the memory, the TLB, CR2, the debug conditions, the record of device
transactions and the counter of free values, and nothing else. One lemma for each operation. -/

namespace Sys2Proof.Machine

open Sys2Proof

/-- `t` differs from `s` at most in what an access to memory can change. -/
def Accessed (s t : State) : Prop :=
  t = { s with mem := t.mem, tlb := t.tlb, cr2 := t.cr2, dbPending := t.dbPending, io := t.io, free := t.free }

theorem Accessed.rfl' (s : State) : Accessed s s := rfl

theorem Accessed.trans {s t u : State} (h : Accessed s t) (k : Accessed t u) : Accessed s u := by
  unfold Accessed at h k ⊢
  rw [h] at k
  exact k

section fields

theorem Accessed.gpr {s t : State} (h : Accessed s t) : t.gpr = s.gpr := by rw [h]
theorem Accessed.eip {s t : State} (h : Accessed s t) : t.eip = s.eip := by rw [h]
theorem Accessed.eflags {s t : State} (h : Accessed s t) : t.eflags = s.eflags := by rw [h]
theorem Accessed.es {s t : State} (h : Accessed s t) : t.es = s.es := by rw [h]
theorem Accessed.cs {s t : State} (h : Accessed s t) : t.cs = s.cs := by rw [h]
theorem Accessed.ss {s t : State} (h : Accessed s t) : t.ss = s.ss := by rw [h]
theorem Accessed.ds {s t : State} (h : Accessed s t) : t.ds = s.ds := by rw [h]
theorem Accessed.fs {s t : State} (h : Accessed s t) : t.fs = s.fs := by rw [h]
theorem Accessed.gs {s t : State} (h : Accessed s t) : t.gs = s.gs := by rw [h]
theorem Accessed.gdtr {s t : State} (h : Accessed s t) : t.gdtr = s.gdtr := by rw [h]
theorem Accessed.idtr {s t : State} (h : Accessed s t) : t.idtr = s.idtr := by rw [h]
theorem Accessed.ldtr {s t : State} (h : Accessed s t) : t.ldtr = s.ldtr := by rw [h]
theorem Accessed.tr {s t : State} (h : Accessed s t) : t.tr = s.tr := by rw [h]
theorem Accessed.cr0 {s t : State} (h : Accessed s t) : t.cr0 = s.cr0 := by rw [h]
theorem Accessed.cr3 {s t : State} (h : Accessed s t) : t.cr3 = s.cr3 := by rw [h]
theorem Accessed.cr4 {s t : State} (h : Accessed s t) : t.cr4 = s.cr4 := by rw [h]
theorem Accessed.dr0 {s t : State} (h : Accessed s t) : t.dr0 = s.dr0 := by rw [h]
theorem Accessed.dr1 {s t : State} (h : Accessed s t) : t.dr1 = s.dr1 := by rw [h]
theorem Accessed.dr2 {s t : State} (h : Accessed s t) : t.dr2 = s.dr2 := by rw [h]
theorem Accessed.dr3 {s t : State} (h : Accessed s t) : t.dr3 = s.dr3 := by rw [h]
theorem Accessed.dr6 {s t : State} (h : Accessed s t) : t.dr6 = s.dr6 := by rw [h]
theorem Accessed.dr7 {s t : State} (h : Accessed s t) : t.dr7 = s.dr7 := by rw [h]
theorem Accessed.testRegs {s t : State} (h : Accessed s t) : t.testRegs = s.testRegs := by rw [h]
theorem Accessed.fpu {s t : State} (h : Accessed s t) : t.fpu = s.fpu := by rw [h]
theorem Accessed.tsc {s t : State} (h : Accessed s t) : t.tsc = s.tsc := by rw [h]
theorem Accessed.pmc0 {s t : State} (h : Accessed s t) : t.pmc0 = s.pmc0 := by rw [h]
theorem Accessed.pmc1 {s t : State} (h : Accessed s t) : t.pmc1 = s.pmc1 := by rw [h]
theorem Accessed.msrs {s t : State} (h : Accessed s t) : t.msrs = s.msrs := by rw [h]
theorem Accessed.mxcsr {s t : State} (h : Accessed s t) : t.mxcsr = s.mxcsr := by rw [h]
theorem Accessed.nmiBlocked {s t : State} (h : Accessed s t) : t.nmiBlocked = s.nmiBlocked := by rw [h]
theorem Accessed.nmiPending {s t : State} (h : Accessed s t) : t.nmiPending = s.nmiPending := by rw [h]
theorem Accessed.inhibitSs {s t : State} (h : Accessed s t) : t.inhibitSs = s.inhibitSs := by rw [h]
theorem Accessed.inhibitSti {s t : State} (h : Accessed s t) : t.inhibitSti = s.inhibitSti := by rw [h]
theorem Accessed.run {s t : State} (h : Accessed s t) : t.run = s.run := by rw [h]
theorem Accessed.intr {s t : State} (h : Accessed s t) : t.intr = s.intr := by rw [h]
theorem Accessed.nmiEdge {s t : State} (h : Accessed s t) : t.nmiEdge = s.nmiEdge := by rw [h]
theorem Accessed.resetLine {s t : State} (h : Accessed s t) : t.resetLine = s.resetLine := by rw [h]
theorem Accessed.ignne {s t : State} (h : Accessed s t) : t.ignne = s.ignne := by rw [h]
theorem Accessed.params {s t : State} (h : Accessed s t) : t.params = s.params := by rw [h]

end fields

/-- The operation changes at most what an access to memory can change, however it ends. -/
def Touches {α : Type} (m : M α) : Prop :=
  ∀ s, match m s with
    | .ok _ t => Accessed s t
    | .error _ t => Accessed s t

section rules
variable {α β : Type}

@[simp] theorem touches_pure (a : α) : Touches (pure a : M α) := fun s => Accessed.rfl' s
@[simp] theorem touches_get : Touches (get : M State) := fun s => Accessed.rfl' s
@[simp] theorem touches_throw (e : Err) : Touches (throw e : M α) := fun s => Accessed.rfl' s

@[simp] theorem touches_bind {m : M α} {f : α → M β} (hm : Touches m) (hf : ∀ a, Touches (f a)) : Touches (m >>= f) := by
  intro s
  have h1 := hm s
  rw [run_bind]
  cases h : m s with
  | ok a t =>
    rw [h] at h1
    have h2 := hf a t
    simp only
    cases h' : f a t with
    | ok b u => rw [h'] at h2; exact h1.trans h2
    | error e u => rw [h'] at h2; exact h1.trans h2
  | error e t => rw [h] at h1; exact h1

@[simp] theorem touches_map {m : M α} {f : α → β} (hm : Touches m) : Touches (f <$> m) := by
  rw [← bind_pure_comp]
  exact touches_bind hm fun a => touches_pure (f a)

@[simp] theorem touches_modify {f : State → State} (h : ∀ s, Accessed s (f s)) : Touches (modify f : M Unit) :=
  fun s => h s

@[simp] theorem touches_ite {c : Prop} [Decidable c] {a b : M α} (ha : Touches a) (hb : Touches b) :
    Touches (if c then a else b) := by
  split <;> assumption

@[simp] theorem touches_raiseCode (e : Exc) (c : Word32) : Touches (raiseCode e c : M α) := touches_throw _
@[simp] theorem touches_raiseSel (e : Exc) (sel : Word16) (x : Bool) : Touches (raiseSel e sel x : M α) := touches_throw _
@[simp] theorem touches_raiseZero (e : Exc) (x : Bool) : Touches (raiseZero e x : M α) := touches_throw _
@[simp] theorem touches_raiseGp0 : Touches (raiseGp0 : M α) := touches_throw _
@[simp] theorem touches_segFault (b : Bool) : Touches (segFault b : M α) := touches_throw _
@[simp] theorem touches_freshWord : Touches freshWord := fun _ => rfl
@[simp] theorem touches_pageFault (la : Word32) (acc : Acc) (p r : Bool) : Touches (pageFault la acc p r : M α) :=
  fun _ => rfl

end rules

section memory

@[simp] theorem touches_requireMemory (as : List Nat) : Touches (requireMemory as) := by
  unfold requireMemory
  refine touches_bind touches_get fun s => ?_
  split <;> simp

theorem accessed_afterRead (s : State) (as : List Nat) : Accessed s (s.afterRead as) := by
  unfold State.afterRead
  split <;> rfl

@[simp] theorem touches_physReadAt (as : List Nat) : Touches (physReadAt as) := by
  simp (maxDischargeDepth := 99) [physReadAt, accessed_afterRead]

@[simp] theorem touches_physWriteAt (as : List Nat) (v : Nat) : Touches (physWriteAt as v) := by
  unfold physWriteAt
  refine touches_bind (by simp) fun _ => touches_bind touches_get fun s => ?_
  split
  · simp
  · exact touches_modify fun s => rfl

@[simp] theorem touches_physRead (a n : Nat) : Touches (physRead a n) := touches_physReadAt _
@[simp] theorem touches_physWrite (a n v : Nat) : Touches (physWrite a n v) := touches_physWriteAt _ _

@[simp] theorem touches_checkRights (us rw : Bool) (acc : Acc) (la : Word32) : Touches (checkRights us rw acc la) := by
  simp [checkRights]

@[simp] theorem touches_walk32 (la : Word32) (acc : Acc) : Touches (walk32 la acc) := by
  simp (maxDischargeDepth := 99) [walk32]

@[simp] theorem touches_walkPae (la : Word32) (acc : Acc) : Touches (walkPae la acc) := by
  simp (maxDischargeDepth := 99) [walkPae]

@[simp] theorem touches_chooseTlb (cs : List TlbEntry) : Touches (chooseTlb cs) := by
  intro s
  unfold chooseTlb
  rw [run_bind, run_get]
  simp only
  cases s.params.tlbPolicy with
  | none => rfl
  | ideal => rfl
  | arbitrary =>
    cases cs with
    | nil => rfl
    | cons c cs =>
      dsimp only
      rw [run_bind, run_set]
      dsimp only
      cases Config.tlbChoice s.free <;> rfl

@[simp] theorem touches_tlbLookup (la : Word32) (acc : Acc) : Touches (tlbLookup la acc) := by
  unfold tlbLookup
  refine touches_bind touches_get fun s => touches_bind (by simp) fun e => ?_
  cases e with
  | none => exact touches_pure _
  | some e => exact touches_ite (touches_bind (touches_modify fun s => rfl) fun _ => touches_pure _) (touches_pure _)

@[simp] theorem touches_translate (la : Word32) (acc : Acc) : Touches (translate la acc) := by
  unfold translate
  refine touches_bind touches_get fun s => touches_ite (by simp) (touches_bind (by simp) fun e => ?_)
  split <;> simp

@[simp] theorem touches_applyMarks (ms : List (Nat × Nat)) : Touches (applyMarks ms) := by
  induction ms with
  | nil => exact touches_pure _
  | cons m ms ih => obtain ⟨a, b⟩ := m; simp [applyMarks, ih]

@[simp] theorem touches_recordXlat (e : Option TlbEntry) : Touches (recordXlat e) := by
  cases e with
  | none => exact touches_pure _
  | some e => exact touches_modify fun s => by unfold State.recordTlb; split <;> rfl

@[simp] theorem touches_commitXlat (x : Xlat) : Touches (commitXlat x) := by simp [commitXlat]

@[simp] theorem touches_linAddrs (la : Word32) (n : Nat) (acc : Acc) : Touches (linAddrs la n acc) := by
  simp (maxDischargeDepth := 99) [linAddrs]

@[simp] theorem touches_linRead (la : Word32) (n : Nat) (acc : Acc) : Touches (linRead la n acc) := by simp [linRead]

@[simp] theorem touches_pdptOk (c : Word32) : Touches (pdptOk c) := by simp (maxDischargeDepth := 99) [pdptOk]

@[simp] theorem touches_segCheck (g : SegState) (b : Bool) (o : Word32) (n : Nat) (w : Bool) :
    Touches (segCheck g b o n w) := by simp [segCheck]
@[simp] theorem touches_alignCheck (la : Word32) (n : Nat) (u : Bool) : Touches (alignCheck la n u) := by
  simp [alignCheck]
@[simp] theorem touches_probe (g : SegState) (b : Bool) (o : Word32) (n a : Nat) (acc : Acc) :
    Touches (probe g b o n a acc) := by simp (maxDischargeDepth := 99) [probe]
@[simp] theorem touches_slotRead (x : Slot) : Touches (slotRead x) := by
  unfold slotRead
  exact touches_bind (by simp) fun _ => touches_bind (touches_modify fun s => rfl) fun _ => by simp
@[simp] theorem touches_slotWrite (x : Slot) (v : Nat) : Touches (slotWrite x v) := by
  unfold slotWrite
  exact touches_bind (by simp) fun _ => touches_modify fun s => rfl
@[simp] theorem touches_memProbe (r : SegReg) (o : Word32) (n a : Nat) (w : Bool) : Touches (memProbe r o n a w) := by
  simp [memProbe]
@[simp] theorem touches_memRead (r : SegReg) (o : Word32) (n a : Nat) : Touches (memRead r o n a) := by simp [memRead]
@[simp] theorem touches_memWrite (r : SegReg) (o : Word32) (n a v : Nat) : Touches (memWrite r o n a v) := by
  simp [memWrite]
@[simp] theorem touches_readMem (p : Prefixes) (m : MemOp) (i n a : Nat) : Touches (readMem p m i n a) := by
  simp [readMem]
@[simp] theorem touches_probeMem (p : Prefixes) (m : MemOp) (i n a : Nat) : Touches (probeMem p m i n a) := by
  simp [probeMem]
@[simp] theorem touches_readRm16 (p : Prefixes) (rm : Rm) : Touches (readRm16 p rm) := by
  cases rm <;> simp [readRm16]
@[simp] theorem touches_readRmV (p : Prefixes) (rm : Rm) : Touches (readRmV p rm) := by
  cases rm <;> simp (maxDischargeDepth := 99) [readRmV]
@[simp] theorem touches_checkExtent (p : Prefixes) (m : MemOp) (n : Nat) (w : Bool) : Touches (checkExtent p m n w) := by
  simp [checkExtent]
@[simp] theorem touches_readFar (p : Prefixes) (m : MemOp) (b : Nat) : Touches (readFar p m b) := by
  simp (maxDischargeDepth := 99) [readFar]
@[simp] theorem touches_readStack (o : Word32) (n : Nat) : Touches (readStack o n) := touches_memRead _ _ _ _

@[simp] theorem touches_tableRead (b : Word32) (l : Nat) (ok : Bool) (i : Nat) : Touches (tableRead b l ok i) := by
  simp [tableRead]
@[simp] theorem touches_readDescriptor (sel : Word16) : Touches (readDescriptor sel) := by simp [readDescriptor]
@[simp] theorem touches_needDescriptor (sel : Word16) (e : Exc) (x : Bool) : Touches (needDescriptor sel e x) := by
  unfold needDescriptor
  refine touches_bind (by simp) fun d => ?_
  split <;> simp

@[simp] theorem touches_probeAccessed (sel : Word16) (d : Desc) : Touches (probeAccessed sel d) := by simp [probeAccessed]
@[simp] theorem touches_commitAccessed (as : List Nat) : Touches (commitAccessed as) := by
  cases as <;> simp [commitAccessed]
@[simp] theorem touches_updateByte (as : List Nat) (c b : Nat) : Touches (updateByte as c b) := by simp [updateByte]
@[simp] theorem touches_checkTarget (l t : Word32) (x : Bool) : Touches (checkTarget l t x) := by simp [checkTarget]
@[simp] theorem touches_requireStack (o : Word32) (n : Nat) : Touches (requireStack o n) := by simp [requireStack]
@[simp] theorem touches_requireRoom (b k : Nat) : Touches (requireRoom b k) := by simp [requireRoom]
@[simp] theorem touches_fetchCode (sel : Word16) (x : Bool) : Touches (fetchCode sel x) := by
  simp (maxDischargeDepth := 99) [fetchCode]
@[simp] theorem touches_checkSs (sel : Word16) (l : BitVec 2) (e : Exc) (x : Bool) : Touches (checkSs sel l e x) := by
  simp (maxDischargeDepth := 99) [checkSs]
@[simp] theorem touches_checkData (sel : Word16) : Touches (checkData sel) := by
  simp (maxDischargeDepth := 99) [checkData]
@[simp] theorem touches_returnCode (sel : Word16) : Touches (returnCode sel) := by
  simp (maxDischargeDepth := 99) [returnCode]
@[simp] theorem touches_tssStack (l : BitVec 2) (x : Bool) : Touches (tssStack l x) := by
  simp (maxDischargeDepth := 99) [tssStack]
@[simp] theorem touches_probePushes (g : SegState) (b : Nat) (u : Bool) (os : List Word32) :
    Touches (probePushes g b u os) := by
  induction os with
  | nil => exact touches_pure _
  | cons o os ih => simp [probePushes, ih]
@[simp] theorem touches_quietSlots (a : Word32) (b : Nat) (u : Bool) (os : List Word32) :
    Touches (quietSlots a b u os) := by
  induction os with
  | nil => exact touches_pure _
  | cons o os ih => simp [quietSlots, ih]
@[simp] theorem touches_writeSlots (xs : List Slot) (vs : List Nat) : Touches (writeSlots xs vs) := by
  induction xs generalizing vs with
  | nil => exact touches_pure _
  | cons x xs ih => cases vs <;> simp [writeSlots, ih]
@[simp] theorem touches_writeSlotsQuiet (xs : List Slot) (vs : List Nat) : Touches (writeSlotsQuiet xs vs) := by
  induction xs generalizing vs with
  | nil => exact touches_pure _
  | cons x xs ih => cases vs <;> simp [writeSlotsQuiet, ih]
@[simp] theorem touches_readParams (b : Nat) (sp : Word32) (k : Nat) : Touches (readParams b sp k) := by
  induction k generalizing sp with
  | zero => exact touches_pure _
  | succ k ih =>
    exact touches_bind (by simp) fun _ => touches_bind touches_get fun _ => touches_bind (ih _) fun _ => touches_pure _
@[simp] theorem touches_resolveFields (a : Word32) (acc : Acc) (fs : List Field) : Touches (resolveFields a acc fs) := by
  induction fs with
  | nil => exact touches_pure _
  | cons f fs ih => obtain ⟨o, n⟩ := f; simp [resolveFields, ih]
@[simp] theorem touches_readFields (as : List (List Nat)) : Touches (readFields as) := by
  induction as with
  | nil => exact touches_pure _
  | cons a as ih => simp [readFields, ih]
@[simp] theorem touches_writeFields (as : List (List Nat)) (vs : List Nat) : Touches (writeFields as vs) := by
  induction as generalizing vs with
  | nil => exact touches_pure _
  | cons a as ih => cases vs <;> simp [writeFields, ih]

end memory

end Sys2Proof.Machine
end

