-- ==== Sys2Proof/Laws/ReservedBits.lean ====
section
/-! SUPPORT. Which loads of EFLAGS and CR3 go on and which are refused for their reserved bits (00_scope.md R8, U1; log entry
22), in the terms of the statements. -/

namespace Sys2Proof.Machine

open Sys2Proof

/-- The bits of EFLAGS that are not in the mask are the reserved ones. -/
theorem bit_eflagsMask (p : Params) {k : Nat} (hk : k < 32) : bit (eflagsMask p) k = false ↔ flagReserved p k := by
  unfold flagReserved eflagsMask bit
  rcases p.hasAC.eq_false_or_eq_true with h1 | h1 <;> rcases p.hasVME.eq_false_or_eq_true with h2 | h2 <;>
    rcases p.hasID.eq_false_or_eq_true with h3 | h3 <;> simp only [h1, h2, h3] <;> interval_cases k <;> decide

/-- A doubleword is 0 when all of its bits are. -/
theorem eq_zero_iff_bits (v : Word32) : v = 0 ↔ ∀ k, k < 32 → bit v k = false := by
  rw [BitVec.eq_of_getLsbD_eq_iff]
  exact forall₂_congr fun k _ => by rw [show (0 : Word32).getLsbD k = false from BitVec.getLsbD_zero]; rfl

/-- A load of EFLAGS that `loadEflags` lets through is one the image is admitted for. -/
theorem eflagsAsRead_iff (p : Params) (w : Bool) (v : Word32) :
    p.reservedWrites = .keep ∨ eflagsAsRead p w v = true ↔ admitsImage p w v := by
  refine or_congr_right ?_
  have h2 : ∀ k, k < 32 → bit 2 k = decide (k = 1) := by decide
  have hm : ∀ k, k < 32 → bit (if w then 0xFFFFFFFF else 0x0000FFFF) k = decide (k < if w then 32 else 16) := by
    cases w <;> decide
  simp only [eflagsAsRead]
  rw [decide_eq_true_iff, eq_zero_iff_bits]
  have hb : ∀ k, k < 32 → (bit ((v ^^^ 2) &&& ~~~(eflagsMask p) &&& (if w then 0xFFFFFFFF else 0x0000FFFF)) k = false ↔
      (k < (if w then 32 else 16) → flagReserved p k → bit v k = decide (k = 1))) := by
    intro k hk
    rw [← bit_eflagsMask p hk, ← h2 k hk]
    have e : bit ((v ^^^ 2) &&& ~~~(eflagsMask p) &&& (if w then 0xFFFFFFFF else 0x0000FFFF)) k =
        ((bit v k ^^ bit 2 k) && !bit (eflagsMask p) k && bit (if w then 0xFFFFFFFF else 0x0000FFFF) k) := by
      simp [bit, hk]
    rw [e, hm k hk]
    cases bit v k <;> cases bit 2 k <;> cases bit (eflagsMask p) k <;> simp
  constructor
  · intro h k hk
    have hk' : k < 32 := by split at hk <;> omega
    exact (hb k hk').1 (h k hk') hk
  · exact fun h k hk => (hb k hk).2 (h k)

/-- A load of CR3 that `writeCr3` lets through is one the value is admitted for. -/
theorem cr3AsRead_iff (s : State) (v : Word32) :
    s.params.reservedWrites = .keep ∨ cr3AsRead s.cr4Pae v = true ↔ admitsCr3 s v := by
  refine or_congr_right ?_
  simp only [cr3AsRead]
  rw [decide_eq_true_iff, BitVec.eq_of_getLsbD_eq_iff]
  have hm : ∀ k, k < 32 → bit (if s.cr4Pae then 0xFFFFFFF8 else 0xFFFFF018) k =
      !decide (k < 3 ∨ s.cr4Pae = false ∧ 5 ≤ k ∧ k < 12) := by cases s.cr4Pae <;> decide
  have hb : ∀ k, k < 32 → ((cr3Value s.cr4Pae v).getLsbD k = v.getLsbD k ↔
      (k < 3 ∨ s.cr4Pae = false ∧ 5 ≤ k ∧ k < 12 → bit v k = false)) := by
    intro k hk
    have e : (cr3Value s.cr4Pae v).getLsbD k = (bit v k && bit (if s.cr4Pae then 0xFFFFFFF8 else 0xFFFFF018) k) := by
      simp only [cr3Value, bit, BitVec.getLsbD_and]
    rw [e, hm k hk, show v.getLsbD k = bit v k from rfl]
    by_cases hc : k < 3 ∨ s.cr4Pae = false ∧ 5 ≤ k ∧ k < 12 <;> cases bit v k <;> simp [hc]
  constructor
  · exact fun h k hk => (hb k (by omega)).1 (h k (by omega)) hk
  · exact fun h k hk => (hb k hk).2 (h k)

/-- A load of EFLAGS from an image that is admitted merges it in. -/
theorem loadEflags_admitted {w : Bool} {m v : Word32} {s : State} (h : admitsImage s.params w v) :
    loadEflags w m v s = .ok () (s.mergeEflags m v) := by
  simp [loadEflags, requireAsRead_ok ((eflagsAsRead_iff ..).2 h)]

/-- A load of EFLAGS from another image is refused. -/
theorem loadEflags_refused {w : Bool} {m v : Word32} {s : State} (h : ¬admitsImage s.params w v) :
    loadEflags w m v s = .error (.refuse .reservedBits) s := by
  rw [← eflagsAsRead_iff, not_or, Bool.not_eq_true] at h
  simp [loadEflags, requireAsRead_no h.1 h.2]

end Sys2Proof.Machine
end

