-- ==== Sys2Proof/Laws/Unwatched.lean ====
section
/-! SUPPORT. The accesses the processor makes on its own account, which meet no data breakpoint (46_debug.md R676): they leave the
pending debug conditions alone. One lemma for each operation. -/

namespace Sys2Proof.Machine

open Sys2Proof

/-- The operation leaves the pending debug conditions as they are, however it ends. -/
def Unwatched {α : Type} (m : M α) : Prop :=
  ∀ s, match m s with
    | .ok _ t => t.dbPending = s.dbPending
    | .error _ t => t.dbPending = s.dbPending

section rules
variable {α β : Type}

@[simp] theorem unwatched_pure (a : α) : Unwatched (pure a : M α) := fun _ => rfl
@[simp] theorem unwatched_get : Unwatched (get : M State) := fun _ => rfl
@[simp] theorem unwatched_throw (e : Err) : Unwatched (throw e : M α) := fun _ => rfl

@[simp] theorem unwatched_bind {m : M α} {f : α → M β} (hm : Unwatched m) (hf : ∀ a, Unwatched (f a)) :
    Unwatched (m >>= f) := by
  intro s
  have h1 := hm s
  rw [run_bind]
  cases h : m s with
  | ok a t =>
    rw [h] at h1
    have h2 := hf a t
    simp only
    cases h' : f a t with
    | ok b u => rw [h'] at h2; exact h2.trans h1
    | error e u => rw [h'] at h2; exact h2.trans h1
  | error e t => rw [h] at h1; exact h1

@[simp] theorem unwatched_map {m : M α} {f : α → β} (hm : Unwatched m) : Unwatched (f <$> m) := by
  rw [← bind_pure_comp]
  exact unwatched_bind hm fun a => unwatched_pure (f a)

@[simp] theorem unwatched_modify {f : State → State} (h : ∀ s, (f s).dbPending = s.dbPending) :
    Unwatched (modify f : M Unit) := fun s => h s

@[simp] theorem unwatched_ite {c : Prop} [Decidable c] {a b : M α} (ha : Unwatched a) (hb : Unwatched b) :
    Unwatched (if c then a else b) := by
  split <;> assumption

@[simp] theorem unwatched_raiseSel (e : Exc) (sel : Word16) (x : Bool) : Unwatched (raiseSel e sel x : M α) := unwatched_throw _
@[simp] theorem unwatched_raiseZero (e : Exc) (x : Bool) : Unwatched (raiseZero e x : M α) := unwatched_throw _
@[simp] theorem unwatched_pageFault (la : Word32) (acc : Acc) (p r : Bool) : Unwatched (pageFault la acc p r : M α) :=
  fun _ => rfl

end rules

section accesses

@[simp] theorem unwatched_requireMemory (as : List Nat) : Unwatched (requireMemory as) := by
  unfold requireMemory
  refine unwatched_bind unwatched_get fun s => ?_
  split <;> simp

@[simp] theorem unwatched_physReadAt (as : List Nat) : Unwatched (physReadAt as) := by
  unfold physReadAt
  refine unwatched_bind (by simp) fun _ => unwatched_bind unwatched_get fun s =>
    unwatched_bind (unwatched_modify fun s => ?_) fun _ => by simp
  unfold State.afterRead
  split <;> rfl

@[simp] theorem unwatched_physWriteAt (as : List Nat) (v : Nat) : Unwatched (physWriteAt as v) := by
  unfold physWriteAt
  refine unwatched_bind (by simp) fun _ => unwatched_bind unwatched_get fun s => ?_
  split
  · simp
  · exact unwatched_modify fun s => rfl

@[simp] theorem unwatched_physRead (a n : Nat) : Unwatched (physRead a n) := unwatched_physReadAt _
@[simp] theorem unwatched_physWrite (a n v : Nat) : Unwatched (physWrite a n v) := unwatched_physWriteAt _ _

@[simp] theorem unwatched_checkRights (us rw : Bool) (acc : Acc) (la : Word32) : Unwatched (checkRights us rw acc la) := by
  simp [checkRights]

@[simp] theorem unwatched_chooseTlb (cs : List TlbEntry) : Unwatched (chooseTlb cs) := by
  intro s
  unfold chooseTlb
  rw [run_bind, run_get]
  simp only
  cases s.params.tlbPolicy with
  | none => rfl
  | ideal => rfl
  | arbitrary =>
    cases cs with
    | nil => rfl
    | cons c cs =>
      dsimp only
      rw [run_bind, run_set]
      dsimp only
      cases Config.tlbChoice s.free <;> rfl

@[simp] theorem unwatched_tlbLookup (la : Word32) (acc : Acc) : Unwatched (tlbLookup la acc) := by
  unfold tlbLookup
  refine unwatched_bind unwatched_get fun s => unwatched_bind (by simp) fun e => ?_
  cases e with
  | none => exact unwatched_pure _
  | some e => exact unwatched_ite (unwatched_bind (unwatched_modify fun s => rfl) fun _ => unwatched_pure _) (unwatched_pure _)

@[simp] theorem unwatched_translate (la : Word32) (acc : Acc) : Unwatched (translate la acc) := by
  unfold translate
  refine unwatched_bind unwatched_get fun s => unwatched_ite (by simp) (unwatched_bind (by simp) fun e => ?_)
  split <;> simp (maxDischargeDepth := 99) [walk32, walkPae]

@[simp] theorem unwatched_commitXlat (x : Xlat) : Unwatched (commitXlat x) := by
  obtain ⟨phys, marks, entry⟩ := x
  unfold commitXlat
  refine unwatched_bind ?_ fun _ => ?_
  · induction marks with
    | nil => exact unwatched_pure _
    | cons m ms ih => obtain ⟨a, b⟩ := m; simp [applyMarks] at ih ⊢; simp [ih]
  · cases entry with
    | none => exact unwatched_pure _
    | some e => exact unwatched_modify fun s => by unfold State.recordTlb; split <;> rfl

@[simp] theorem unwatched_linAddrs (la : Word32) (n : Nat) (acc : Acc) : Unwatched (linAddrs la n acc) := by
  simp (maxDischargeDepth := 99) [linAddrs]

@[simp] theorem unwatched_linRead (la : Word32) (n : Nat) (acc : Acc) : Unwatched (linRead la n acc) := by simp [linRead]

@[simp] theorem unwatched_needDescriptor (sel : Word16) (e : Exc) (x : Bool) : Unwatched (needDescriptor sel e x) := by
  unfold needDescriptor
  refine unwatched_bind (by simp (maxDischargeDepth := 99) [readDescriptor, tableRead]) fun d => ?_
  split <;> simp

@[simp] theorem unwatched_probeAccessed (sel : Word16) (d : Desc) : Unwatched (probeAccessed sel d) := by
  simp [probeAccessed]

@[simp] theorem unwatched_commitAccessed (as : List Nat) : Unwatched (commitAccessed as) := by
  cases as <;> simp [commitAccessed]

@[simp] theorem unwatched_checkTarget (l t : Word32) (x : Bool) : Unwatched (checkTarget l t x) := by simp [checkTarget]

@[simp] theorem unwatched_fetchCode (sel : Word16) (x : Bool) : Unwatched (fetchCode sel x) := by
  simp (maxDischargeDepth := 99) [fetchCode]

@[simp] theorem unwatched_checkSs (sel : Word16) (l : BitVec 2) (e : Exc) (x : Bool) : Unwatched (checkSs sel l e x) := by
  simp (maxDischargeDepth := 99) [checkSs]

@[simp] theorem unwatched_tssStack (l : BitVec 2) (x : Bool) : Unwatched (tssStack l x) := by
  simp (maxDischargeDepth := 99) [tssStack]

@[simp] theorem unwatched_quietSlots (a : Word32) (b : Nat) (u : Bool) (os : List Word32) :
    Unwatched (quietSlots a b u os) := by
  induction os with
  | nil => exact unwatched_pure _
  | cons o os ih => simp [quietSlots, ih]

@[simp] theorem unwatched_writeSlotsQuiet (xs : List Slot) (vs : List Nat) : Unwatched (writeSlotsQuiet xs vs) := by
  induction xs generalizing vs with
  | nil => exact unwatched_pure _
  | cons x xs ih => cases vs <;> simp [writeSlotsQuiet, ih]

end accesses

end Sys2Proof.Machine
end

