-- ==== Sys2Proof/Tests/Slice0.lean ====
section
/-! SUPPORT. The modeller's own tests: ill-formed terms refused, words written out from the opcode table of 30_encoding.md R360
decoded, a few one-step results of the spec's examples (95_test_vectors.md), and for every statement with hypotheses concrete
values that meet them. -/

namespace Sys2Proof.Tests

open Sys2Proof Sys2Proof.Machine

/-! ## Well-formedness: one ill-formed term for each check -/

/-- [BP] alone has no 16-bit encoding (R347). -/
theorem test_wf_bp_needs_displacement : Instr.wf false (.sldt [] (.mem (.based16 .bp .none))) = false := by decide
/-- rm = 100 is the SIB escape (R346). -/
theorem test_wf_esp_needs_sib : Instr.wf true (.sldt [] (.mem (.based32 .esp .none))) = false := by decide
/-- [EBP] alone has no encoding (R346). -/
theorem test_wf_ebp_needs_displacement : Instr.wf true (.sldt [] (.mem (.based32 .ebp .none))) = false := by decide
/-- A SIB base EBP with mod = 00 means no base (R346). -/
theorem test_wf_sib_ebp_needs_displacement : Instr.wf true (.sldt [] (.mem (.sib 1 .ecx .ebp .none))) = false := by decide
/-- 16-bit operand forms need the 16-bit address size (R335, R347). -/
theorem test_wf_address_size_16 : Instr.wf true (.lgdt [] (.mem (.direct16 0x1234))) = false ∧
    Instr.wf true (.lgdt [] (.mem (.based16 .bx .none))) = false := by decide
/-- 32-bit operand forms need the 32-bit address size (R335, R346). -/
theorem test_wf_address_size_32 : Instr.wf false (.lgdt [] (.mem (.direct32 0x1234))) = false ∧
    Instr.wf false (.lgdt [] (.mem (.based32 .eax .none))) = false ∧
    Instr.wf false (.lgdt [] (.mem (.sib 0 .eax .eax .none))) = false ∧
    Instr.wf false (.lgdt [] (.mem (.sibNoBase 0 .eax 0))) = false := by decide
/-- A displacement has the operand's size (R351). -/
theorem test_wf_rel_size : Instr.wf true (.jmpRel [] (.w16 0)) = false ∧ Instr.wf false (.callRel [] (.w32 0)) = false := by
  decide
/-- A far pointer's offset has the operand's size (R351). -/
theorem test_wf_far_size : Instr.wf true (.jmpFar [] (.p16 0 0)) = false ∧
    Instr.wf false (.callFar [] (.p32 0 0)) = false := by decide
/-- No instruction has more than fifteen bytes (R338). -/
theorem test_wf_length : Instr.wf true (.clts (List.replicate 14 .opSize)) = false ∧
    Instr.wf true (.sldt (List.replicate 12 .es) (.mem (.direct32 0))) = false ∧
    Instr.wf true (.fnsave (List.replicate 14 .es) (.based32 .eax .none)) = false := by decide
/-- An encoding with a row of its own is no ESC term (R360). -/
theorem test_wf_esc_own_row : Instr.wf true (.esc [] 3 4 (.reg .ebx)) = false ∧
    Instr.wf true (.esc [] 1 7 (.mem (.based32 .eax .none))) = false := by decide
/-- The string of an overlong prefix row has fifteen bytes (R338). -/
theorem test_wf_overlong_length : Instr.wf true (.prefixLock [] (.overlong [0x66])) = false := by decide
/-- What follows an application tail is an opcode that no row names (R360). -/
theorem test_wf_application_has_no_row : Instr.wf true (.prefixLock [] (.application [0xF4])) = false ∧
    Instr.wf true (.prefixEs [] (.application [0x0F, 0x06])) = false ∧
    Instr.wf true (.prefixEs [] (.application [])) = false := by decide

/-! ## Decoding: every row, words written out from 30_encoding.md R360 -/

theorem test_decode_group0F00 :
    decode true [0x0F, 0x00, 0x03] = .instr (.sldt [] (.mem (.based32 .ebx .none))) [] ∧
    decode true [0x0F, 0x00, 0xCA] = .instr (.str [] (.reg .edx)) [] ∧
    decode true [0x0F, 0x00, 0xD1] = .instr (.lldt [] (.reg .ecx)) [] ∧
    decode true [0x0F, 0x00, 0x5E, 0x04] = .instr (.ltr [] (.mem (.based32 .esi (.d8 4)))) [] ∧
    decode true [0x0F, 0x00, 0xE6] = .instr (.verr [] (.reg .esi)) [] ∧
    decode true [0x0F, 0x00, 0x2B] = .instr (.verw [] (.mem (.based32 .ebx .none))) [] ∧
    decode true [0x0F, 0x00, 0xF0] = .instr (.undef0F00r6 [] (.reg .eax)) [] ∧
    decode true [0x0F, 0x00, 0x3B] = .instr (.undef0F00r7 [] (.mem (.based32 .ebx .none))) [] := by decide

theorem test_decode_group0F01 :
    decode true [0x0F, 0x01, 0x03] = .instr (.sgdt [] (.mem (.based32 .ebx .none))) [] ∧
    decode true [0x0F, 0x01, 0x4E, 0x04] = .instr (.sidt [] (.mem (.based32 .esi (.d8 4)))) [] ∧
    decode true [0x0F, 0x01, 0x13] = .instr (.lgdt [] (.mem (.based32 .ebx .none))) [] ∧
    decode true [0x0F, 0x01, 0x5E, 0x04] = .instr (.lidt [] (.mem (.based32 .esi (.d8 4)))) [] ∧
    decode true [0x0F, 0x01, 0xE1] = .instr (.smsw [] (.reg .ecx)) [] ∧
    decode true [0x0F, 0x01, 0xE8] = .instr (.undef0F01r5 [] (.reg .eax)) [] ∧
    decode true [0x0F, 0x01, 0xF2] = .instr (.lmsw [] (.reg .edx)) [] ∧
    decode true [0x0F, 0x01, 0x3B] = .instr (.invlpg [] (.mem (.based32 .ebx .none))) [] := by decide

theorem test_decode_selectors_and_caches :
    decode true [0x0F, 0x02, 0xD1] = .instr (.lar [] .edx (.reg .ecx)) [] ∧
    decode true [0x0F, 0x03, 0x0B] = .instr (.lsl [] .ecx (.mem (.based32 .ebx .none))) [] ∧
    decode true [0x63, 0xD1] = .instr (.arpl [] (.reg .ecx) .edx) [] ∧
    decode true [0x0F, 0x06] = .instr (.clts []) [] ∧
    decode true [0x0F, 0x08] = .instr (.invd []) [] ∧
    decode true [0x0F, 0x09] = .instr (.wbinvd []) [] ∧
    decode true [0xF4] = .instr (.hlt []) [] ∧
    decode true [0x0F, 0xAA] = .instr (.rsm []) [] := by decide

theorem test_decode_special_registers :
    decode true [0x0F, 0x20, 0xD1] = .instr (.movFromCr [] .ecx 2) [] ∧
    decode true [0x0F, 0x21, 0xFB] = .instr (.movFromDr [] .ebx 7) [] ∧
    decode true [0x0F, 0x22, 0xD8] = .instr (.movToCr [] 3 .eax) [] ∧
    decode true [0x0F, 0x23, 0xF1] = .instr (.movToDr [] 6 .ecx) [] ∧
    decode true [0x0F, 0x24, 0xF0] = .instr (.movFromTr [] .eax 6) [] ∧
    decode true [0x0F, 0x26, 0xFA] = .instr (.movToTr [] 7 .edx) [] ∧
    decode true [0x0F, 0x30] = .instr (.wrmsr []) [] ∧
    decode true [0x0F, 0x31] = .instr (.rdtsc []) [] ∧
    decode true [0x0F, 0x32] = .instr (.rdmsr []) [] ∧
    decode true [0x0F, 0x33] = .instr (.rdpmc []) [] := by decide

theorem test_decode_segment_registers :
    decode true [0x8E, 0xD8] = .instr (.movToSeg [] 3 (.reg .eax)) [] ∧
    decode true [0x8C, 0xD1] = .instr (.movFromSeg [] (.reg .ecx) 2) [] ∧
    decode true [0x07] = .instr (.popEs []) [] ∧
    decode true [0x17] = .instr (.popSs []) [] ∧
    decode true [0x1F] = .instr (.popDs []) [] ∧
    decode true [0x0F, 0xA1] = .instr (.popFs []) [] ∧
    decode true [0x0F, 0xA9] = .instr (.popGs []) [] ∧
    decode true [0x06] = .instr (.pushEs []) [] ∧
    decode true [0x0E] = .instr (.pushCs []) [] ∧
    decode true [0x16] = .instr (.pushSs []) [] ∧
    decode true [0x1E] = .instr (.pushDs []) [] ∧
    decode true [0x0F, 0xA0] = .instr (.pushFs []) [] ∧
    decode true [0x0F, 0xA8] = .instr (.pushGs []) [] := by decide

theorem test_decode_far_pointers :
    decode true [0xC4, 0x0B] = .instr (.les [] .ecx (.mem (.based32 .ebx .none))) [] ∧
    decode true [0xC5, 0x13] = .instr (.lds [] .edx (.mem (.based32 .ebx .none))) [] ∧
    decode true [0x0F, 0xB2, 0x66, 0x04] = .instr (.lss [] .esp (.mem (.based32 .esi (.d8 4)))) [] ∧
    decode true [0x0F, 0xB4, 0x1B] = .instr (.lfs [] .ebx (.mem (.based32 .ebx .none))) [] ∧
    decode true [0x0F, 0xB5, 0x3B] = .instr (.lgs [] .edi (.mem (.based32 .ebx .none))) [] := by decide

theorem test_decode_near_transfers :
    decode true [0xEB, 0xFE] = .instr (.jmpRel8 [] 0xFE) [] ∧
    decode true [0xE9, 0x78, 0x56, 0x34, 0x12] = .instr (.jmpRel [] (.w32 0x12345678)) [] ∧
    decode true [0x66, 0xE9, 0x34, 0x12] = .instr (.jmpRel [.opSize] (.w16 0x1234)) [] ∧
    decode true [0xFF, 0xE2] = .instr (.jmpRm [] (.reg .edx)) [] ∧
    decode true [0xE8, 0x10, 0x00, 0x00, 0x00] = .instr (.callRel [] (.w32 0x10)) [] ∧
    decode true [0xFF, 0x13] = .instr (.callRm [] (.mem (.based32 .ebx .none))) [] ∧
    decode true [0xC3] = .instr (.ret []) [] ∧
    decode true [0xC2, 0x08, 0x01] = .instr (.retImm [] 0x108) [] := by decide

theorem test_decode_far_transfers :
    decode true [0xEA, 0x78, 0x56, 0x34, 0x12, 0x08, 0x00] = .instr (.jmpFar [] (.p32 0x12345678 8)) [] ∧
    decode true [0x66, 0x9A, 0x34, 0x12, 0x10, 0x00] = .instr (.callFar [.opSize] (.p16 0x1234 0x10)) [] ∧
    decode true [0xFF, 0x2B] = .instr (.jmpFarMem [] (.mem (.based32 .ebx .none))) [] ∧
    decode true [0xFF, 0x5E, 0x04] = .instr (.callFarMem [] (.mem (.based32 .esi (.d8 4)))) [] ∧
    decode true [0xCB] = .instr (.retFar []) [] ∧
    decode true [0xCA, 0x04, 0x00] = .instr (.retFarImm [] 4) [] := by decide

theorem test_decode_input_output :
    decode true [0xE4, 0x60] = .instr (.inAlImm [] 0x60) [] ∧
    decode true [0xE5, 0x61] = .instr (.inAxImm [] 0x61) [] ∧
    decode true [0xEC] = .instr (.inAlDx []) [] ∧
    decode true [0xED] = .instr (.inAxDx []) [] ∧
    decode true [0xE6, 0x20] = .instr (.outImmAl [] 0x20) [] ∧
    decode true [0xE7, 0x21] = .instr (.outImmAx [] 0x21) [] ∧
    decode true [0xEE] = .instr (.outDxAl []) [] ∧
    decode true [0xEF] = .instr (.outDxAx []) [] ∧
    decode true [0x6C] = .instr (.insb []) [] ∧
    decode true [0x6D] = .instr (.insv []) [] ∧
    decode true [0xF3, 0x6E] = .instr (.outsb [.rep]) [] ∧
    decode true [0xF2, 0x6F] = .instr (.outsv [.repne]) [] := by decide

theorem test_decode_flags_and_interrupts :
    decode true [0xFA] = .instr (.cli []) [] ∧
    decode true [0xFB] = .instr (.sti []) [] ∧
    decode true [0x9C] = .instr (.pushf []) [] ∧
    decode true [0x9D] = .instr (.popf []) [] ∧
    decode true [0xCC] = .instr (.int3 []) [] ∧
    decode true [0xCD, 0x80] = .instr (.intImm [] 0x80) [] ∧
    decode true [0xCE] = .instr (.into []) [] ∧
    decode true [0x62, 0x03] = .instr (.bound [] .eax (.mem (.based32 .ebx .none))) [] ∧
    decode true [0xCF] = .instr (.iret []) [] := by decide

theorem test_decode_floating_point :
    decode true [0x9B] = .instr (.wait []) [] ∧
    decode true [0xDB, 0xE3] = .instr (.fninit []) [] ∧
    decode true [0xDB, 0xE2] = .instr (.fnclex []) [] ∧
    decode true [0xDF, 0xE0] = .instr (.fnstswAx []) [] ∧
    decode true [0xDD, 0x3B] = .instr (.fnstswMem [] (.based32 .ebx .none)) [] ∧
    decode true [0xD9, 0x3B] = .instr (.fnstcw [] (.based32 .ebx .none)) [] ∧
    decode true [0xD9, 0x76, 0x04] = .instr (.fnstenv [] (.based32 .esi (.d8 4))) [] ∧
    decode true [0xDD, 0x33] = .instr (.fnsave [] (.based32 .ebx .none)) [] ∧
    decode true [0xDC, 0x0B] = .instr (.esc [] 4 1 (.mem (.based32 .ebx .none))) [] ∧
    decode true [0xD9, 0xE1] = .instr (.esc [] 1 4 (.reg .ecx)) [] := by decide

theorem test_decode_reserved_one_byte :
    decode true [0x82] = .instr (.reserved82 []) [] ∧
    decode true [0xD6] = .instr (.reservedD6 []) [] ∧
    decode true [0xF1] = .instr (.reservedF1 []) [] ∧
    decode true [0x0F, 0x07] = .instr (.reserved0F07 []) [] ∧
    decode true [0x0F, 0x10] = .instr (.reserved0F10 []) [] ∧
    decode true [0x0F, 0x11] = .instr (.reserved0F11 []) [] ∧
    decode true [0x0F, 0x12] = .instr (.reserved0F12 []) [] ∧
    decode true [0x0F, 0x13] = .instr (.reserved0F13 []) [] := by decide

theorem test_decode_reserved_groups :
    decode true [0xF6, 0xC8] = .instr (.reservedF6r1 [] (.reg .eax)) [] ∧
    decode true [0xF7, 0x0B] = .instr (.reservedF7r1 [] (.mem (.based32 .ebx .none))) [] ∧
    decode true [0xC0, 0xF1] = .instr (.reservedC0r6 [] (.reg .ecx)) [] ∧
    decode true [0xC1, 0xF2] = .instr (.reservedC1r6 [] (.reg .edx)) [] ∧
    decode true [0xD0, 0x33] = .instr (.reservedD0r6 [] (.mem (.based32 .ebx .none))) [] ∧
    decode true [0xD1, 0xF0] = .instr (.reservedD1r6 [] (.reg .eax)) [] ∧
    decode true [0xD2, 0xF3] = .instr (.reservedD2r6 [] (.reg .ebx)) [] ∧
    decode true [0xD3, 0x76, 0x04] = .instr (.reservedD3r6 [] (.mem (.based32 .esi (.d8 4)))) [] := by decide

theorem test_decode_prefixes_before_application_opcodes :
    decode true [0xF0, 0x01] = .instr (.prefixLock [] (.application [0x01])) [] ∧
    decode true [0xF2, 0xA4] = .instr (.prefixRepne [] (.application [0xA4])) [] ∧
    decode true [0xF3, 0x0F, 0xA2] = .instr (.prefixRep [] (.application [0x0F, 0xA2])) [] ∧
    decode true [0x26, 0x8A] = .instr (.prefixEs [] (.application [0x8A])) [] ∧
    decode true [0x2E, 0x8B] = .instr (.prefixCs [] (.application [0x8B])) [] ∧
    decode true [0x36, 0xFF, 0xC0] = .instr (.prefixSs [] (.application [0xFF, 0xC0])) [] ∧
    decode true [0x3E, 0x89] = .instr (.prefixDs [] (.application [0x89])) [] ∧
    decode true [0x64, 0xA1] = .instr (.prefixFs [] (.application [0xA1])) [] ∧
    decode true [0x65, 0xC7] = .instr (.prefixGs [] (.application [0xC7])) [] ∧
    decode true [0x66, 0x40] = .instr (.prefixOpSize [] (.application [0x40])) [] ∧
    decode true [0x67, 0x66, 0x90] = .instr (.prefixAddrSize [.opSize] (.application [0x90])) [] := by decide

theorem test_decode_addressing_forms :
    decode true [0x8E, 0x5C, 0xC7, 0x02] = .instr (.movToSeg [] 3 (.mem (.sib 3 .eax .edi (.d8 2)))) [] ∧
    decode true [0x8E, 0x1C, 0x24] = .instr (.movToSeg [] 3 (.mem (.sib 0 .esp .esp .none))) [] ∧
    decode true [0x26, 0x8E, 0x1C, 0xD5, 0x78, 0x56, 0x34, 0x12] = .instr (.movToSeg [.es] 3 (.mem (.sibNoBase 3 .edx 0x12345678))) [] ∧
    decode true [0x8E, 0x1D, 0x34, 0x12, 0x00, 0x00] = .instr (.movToSeg [] 3 (.mem (.direct32 0x1234))) [] ∧
    decode true [0x8E, 0x9D, 0x04, 0x03, 0x02, 0x01] = .instr (.movToSeg [] 3 (.mem (.based32 .ebp (.d32 0x01020304)))) [] ∧
    decode true [0x67, 0x8E, 0x1E, 0x34, 0x12] = .instr (.movToSeg [.addrSize] 3 (.mem (.direct16 0x1234))) [] ∧
    decode true [0x67, 0x8E, 0x5E, 0x06] = .instr (.movToSeg [.addrSize] 3 (.mem (.based16 .bp (.d8 6)))) [] ∧
    decode true [0x67, 0x8E, 0x98, 0x34, 0x12] = .instr (.movToSeg [.addrSize] 3 (.mem (.based16 .bxsi (.d16 0x1234)))) [] ∧
    decode true [0x67, 0x8E, 0x1D] = .instr (.movToSeg [.addrSize] 3 (.mem (.based16 .di .none))) [] := by decide

/-- Fifteen bytes that hold no whole instruction (R338). -/
theorem test_decode_overlong :
    decode true (List.replicate 15 0x66) = .instr (.prefixOpSize (List.replicate 14 .opSize) (.overlong [])) [] ∧
    decode true (List.replicate 14 0x26 ++ [0x0F]) = .instr (.prefixEs (List.replicate 13 .es) (.overlong [0x0F])) [] := by
  decide

/-- The beginning of an instruction, and an opcode of the application instruction set (R360, D51). -/
theorem test_decode_incomplete :
    decode true [0x0F, 0x22] = .more ∧ decode true [0x66] = .more ∧ decode true [0x89, 0xD8] = .application [0x89] := by decide

/-- The encoder writes the bytes of the table (R360). -/
theorem test_encode :
    encode (.movToCr [] 3 .eax) = [0x0F, 0x22, 0xD8] ∧
    encode (.movToSeg [.es] 3 (.mem (.sibNoBase 3 .edx 0x12345678))) = [0x26, 0x8E, 0x1C, 0xD5, 0x78, 0x56, 0x34, 0x12] ∧
    encode (.callFar [.opSize] (.p16 0x1234 0x10)) = [0x66, 0x9A, 0x34, 0x12, 0x10, 0x00] ∧
    encode (.esc [] 4 1 (.mem (.based32 .ebx .none))) = [0xDC, 0x0B] := by decide

/-! ## Small states -/

/-- A flat segment. -/
def flatSeg (sel : Word16) (type : BitVec 4) (dpl : BitVec 2) : SegState :=
  ⟨sel, 0, 0xFFFFFFFF, ⟨type, true, dpl, true, false, true, true⟩, true⟩

/-- A doubleword, little endian, in memory. -/
def dword (m : List Host.Cell) (a v : Nat) : List Host.Cell := placeBytes m a (bytesOf 4 v)

/-- A descriptor in memory. -/
def entry (m : List Host.Cell) (a hi lo : Nat) : List Host.Cell := placeBytes m a (bytesOf 8 (hi * 2 ^ 32 + lo))

/-- Real-address mode with a stack at 7000H. -/
def rm : State := State.setReg { State.reset with cs := { SegState.resetCode with sel := 0, base := 0 }, eip := 0x7C00 } .esp 0x7000

/-- Protected mode, flat, level 0: a GDT at 800H, an IDT at 2000H, a stack at 8000H. -/
def pm : State :=
  State.setReg
    { State.reset with
      cr0 := 0x60000011
      cs := flatSeg 0x08 11 0
      ss := flatSeg 0x10 3 0
      ds := flatSeg 0x10 3 0
      es := flatSeg 0x10 3 0
      fs := flatSeg 0x10 3 0
      gs := flatSeg 0x10 3 0
      gdtr := ⟨0x800, 0x7F⟩
      idtr := ⟨0x2000, 0x7F⟩
      eip := 0x3000
      mem := entry (entry [] 0x808 0x00CF9B00 0xFFFF) 0x810 0x00CF9300 0xFFFF } .esp 0x8000

/-- The same at level 3. -/
def user : State :=
  { pm with
    cs := flatSeg 0x1B 11 3
    ss := flatSeg 0x23 3 3
    ds := flatSeg 0x23 3 3
    es := flatSeg 0x23 3 3
    fs := flatSeg 0x23 3 3
    gs := flatSeg 0x23 3 3
    mem := entry (entry pm.mem 0x818 0x00CFFB00 0xFFFF) 0x820 0x00CFF300 0xFFFF }

/-- Virtual-8086 mode with IOPL 3. -/
def v86 : State := { user with eflags := 0x00023002 }

/-- A 32-bit task at 6000H whose level-0 stack is 10H:9000H. -/
def withTss (s : State) : State :=
  { s with
    tr := ⟨0x28, 0x6000, 0x69, ⟨11, false, 0, true, false, false, false⟩, true⟩
    mem := dword (dword (entry s.mem 0x828 0x00008B00 0x60000069) 0x6004 0x9000) 0x6008 0x10 }

/-- Four present page-directory-pointer entries at 9000H. -/
def fourEntries : List Host.Cell := [⟨0x9000, 1⟩, ⟨0x9008, 1⟩, ⟨0x9010, 1⟩, ⟨0x9018, 1⟩]

/-- Protected mode with PAE paging, page-directory-pointer table at 9000H. -/
def pae : State :=
  State.setReg { pm with params := { Params.baseline with hasPAE := true, hasCR4 := true }, cr0 := 0x80000011, cr4 := 0x20, mem := fourEntries } .eax
    0x9000

/-- A machine that a write of CR0 or CR4 brings to PAE paging: CR0, CR4, the value to write, and the first of its four
page-directory-pointer entries. -/
def pdptCase (cr0 cr4 value : Word32) (first : Nat) : State :=
  State.setReg { pae with cr0 := cr0, cr4 := cr4, cr3 := 0x9000, mem := dword fourEntries 0x9000 first } .eax value

/-- 32-bit paging with the tables at 10000H and 11000H: the first directory entry and the first two table entries. -/
def paged (pde pte0 pte1 : Nat) : State :=
  { pm with
    params := { Params.baseline with hasPSE := true, hasCR4 := true }
    cr0 := 0x80010011
    cr3 := 0x10000
    cr4 := 0x10
    mem := dword (dword (dword [] 0x10000 pde) 0x11000 pte0) 0x11004 pte1 }

/-- One 4-Kbyte page is recorded where TLB_POLICY is ideal, open to level 3 or not. -/
def recorded (us : Bool) : State :=
  { paged 0 0 0 with
    params := { Params.baseline with hasPSE := true, hasCR4 := true, tlbPolicy := .ideal }
    tlb := [⟨.k4, 0, 0x5000, us, true, true, false⟩] }

/-- PAE paging with the tables at 9000H, 10000H and 11000H: the first entry of each. -/
def pagedPae (pdpte pde pte : Nat) : State :=
  { pm with
    params := { Params.baseline with hasPAE := true, hasCR4 := true }
    cr0 := 0x80010011
    cr3 := 0x9000
    cr4 := 0x20
    mem := placeBytes (placeBytes (placeBytes [] 0x9000 (bytesOf 8 pdpte)) 0x10000 (bytesOf 8 pde)) 0x11000 (bytesOf 8 pte) }

/-- A machine with a time-stamp counter and one model-specific register. -/
def withMsr : State :=
  { pm with
    params := { Params.baseline with hasMSR := true, hasTSC := true, hasPMC := true, tscMsr := some 0x10 }
    msrs := [⟨0x1B, 5⟩] }

/-- A device of eight bytes at A0000H, then read-only memory, then nothing that ends a cycle with all ones. -/
def withDevice : State :=
  { pm with params := { Params.baseline with physMap := [⟨0xA0000, 8, .device⟩, ⟨0xA0008, 8, .romIgnore⟩, ⟨0xA0010, 8, .openBus⟩] } }

/-- Level 3 with a task whose I/O map starts at its offset 68H. -/
def ioUser : State := withTss { user with mem := dword user.mem 0x6066 0x68 }

/-- An unmasked floating-point error is pending. -/
def fpuError : State := { pm with fpu := { FpuState.initial with status := 1, control := 0 } }

/-- The machine after reset with CLTS at FFFFFFF0H. -/
def ready : State := State.reset.withFetchWord 16 0x060F

/-- A second task at 7000H, its descriptor's second doubleword given: EIP 4000H, CS 08H, SS 10H. -/
def tasks (hi : Nat) : State :=
  { withTss pm with
    mem := dword (dword (dword (dword (entry (withTss pm).mem 0x830 hi 0x70000067) 0x7020 0x4000) 0x7024 2) 0x704C 8) 0x7050 0x10 }

/-- A second task with a 16-bit TSS. -/
def tasks16 : State :=
  { withTss pm with
    mem := dword (dword (entry (withTss pm).mem 0x830 0x00008100 0x7000002B) 0x700E 0x00024000) 0x7024 0x00100008 }

/-- Level 3 with a call gate at 30H and a code segment at 8: the two doublewords of the gate and the second of the segment. -/
def gated (hi lo chi : Nat) : State :=
  { withTss user with mem := entry (entry (withTss user).mem 0x830 hi lo) 0x808 chi 0xFFFF }

/-- The breakpoints of 46_debug.md R674, all of them for reads and writes; the last one is enabled. -/
def watched : State := { pm with dr0 := 0xA0001, dr1 := 0xA0002, dr2 := 0xB0002, dr3 := 0xC0000, dr7 := 0xF7330040 }

/-- The debug handler's own task, with T = 1, at its task-switch trap. -/
def ownTrap : State :=
  { withTss pm with
    dbPending := { DbPending.none with bt := true }
    mem := dword (entry (withTss pm).mem 0x2008 0x00008500 0x00280000) 0x6064 0x00680001 }

/-- 32-bit paging without a translation buffer: the first table at 11000H and its first entry. -/
def walked (pte0 : Nat) : State :=
  { paged 0x11007 pte0 0 with params := { Params.baseline with hasPSE := true, hasCR4 := true, tlbPolicy := .none } }

/-- The same machine where the implementation refuses writes of reserved bits. -/
def strict (s : State) : State := { s with params := { s.params with reservedWrites := .refuse } }

/-- Level 3 with a task, where TLB_POLICY is ideal and the named 4-Kbyte pages are recorded, each at its own address; the first page,
which holds the GDT, can be written or not. -/
def mapped (pages : List Nat) (rw : Bool) : State :=
  { withTss user with
    params := { Params.baseline with tlbPolicy := .ideal }
    cr0 := 0x80010011
    cr3 := 0x10000
    tlb := pages.map (fun n => ⟨.k4, n, n * 4096, true, rw || decide (n ≠ 0), true, false⟩) }

/-- An image whose reserved bits are as they read is admitted, and any image where the implementation keeps them. -/
theorem admitted {p : Params} {w : Bool} {v : Word32} (h : p.reservedWrites = .keep ∨ eflagsAsRead p w v = true) :
    admitsImage p w v :=
  (eflagsAsRead_iff p w v).1 h

/-- Another one is not, where the implementation refuses it. -/
theorem notAdmitted {p : Params} {w : Bool} {v : Word32} (h : (decide (p.reservedWrites = .refuse) && !eflagsAsRead p w v) = true) :
    ¬admitsImage p w v := by
  rw [← eflagsAsRead_iff]
  cases hr : p.reservedWrites <;> simp_all

/-- Does the operation complete, in a value and a state of which `f` holds? -/
def runs {α : Type} (m : M α) (s : State) (f : α → State → Bool) : Bool :=
  match m s with
  | .ok a t => f a t
  | .error _ _ => false

/-- Does the operation stop? -/
def stops {α : Type} (m : M α) (s : State) : Bool :=
  match m s with
  | .ok _ _ => false
  | .error _ _ => true

/-- What `runs` says: hypotheses of the form `m s = .ok a t` are met. -/
theorem runs_ok {α : Type} {m : M α} {s : State} {f : α → State → Bool} (h : runs m s f = true) :
    ∃ a t, m s = .ok a t ∧ f a t = true := by
  unfold runs at h
  split at h
  · exact ⟨_, _, ‹_›, h⟩
  · cases h

/-- What `stops` says: hypotheses of the form `m s = .error e t` are met. -/
theorem stops_error {α : Type} {m : M α} {s : State} (h : stops m s = true) : ∃ e t, m s = .error e t := by
  unfold stops at h
  split at h
  · cases h
  · exact ⟨_, _, ‹_›⟩

/-- It completes, whatever the value. -/
def done {α : Type} : α → State → Bool := fun _ _ => true

/-- Does the outcome give a next state of which `f` holds? -/
def next (o : Out) (f : State → Bool) : Bool :=
  match o with
  | .next t => f t
  | .fault _ => false
  | .refused _ => false

/-- The two bytes at an address. -/
def word16 (s : State) (a : Nat) : Nat := ofBytes [s.byteAt a, s.byteAt (a + 1)]

/-- The four bytes at an address. -/
def word32 (s : State) (a : Nat) : Nat := ofBytes [s.byteAt a, s.byteAt (a + 1), s.byteAt (a + 2), s.byteAt (a + 3)]

/-! ## One step: the spec's examples -/

/-- R384 example: CR0 = 60000010H, AX = 000BH. -/
theorem test_lmsw :
    (next (exec (.lmsw [] (.reg .eax)) (State.setReg { pm with cr0 := 0x60000010, cs := flatSeg 8 11 0 } .eax 0xB)) (fun t => decide (t.cr0 = 0x6000001B))) = true := by decide

/-- R386 example. -/
theorem test_clts :
    (next (exec (.clts []) { pm with cr0 := 0x8005003B }) (fun t => decide (t.cr0 = 0x80050033 ∧ t.eip = 0x3002))) = true := by decide

/-- R385 example. -/
theorem test_smsw :
    (next (exec (.smsw [.opSize] (.reg .eax)) (State.setReg { user with cr0 := 0x0005003B } .eax 0xABCD0000)) (fun t => decide (t.reg .eax = 0xABCD003B))) = true := by decide

/-- R372 example. -/
theorem test_lgdt :
    (next (exec (.lgdt [] (.mem (.direct32 0x1000))) { pm with mem := placeBytes pm.mem 0x1000 [0x17, 0, 0, 0x20, 0, 0] }) (fun t => decide (t.gdtr = ⟨0x2000, 0x17⟩))) = true := by decide

/-- V40: a 16-bit operand size keeps 24 bits of the base. -/
theorem test_lgdt_16 :
    (next (exec (.lgdt [] (.mem (.direct16 0x500))) { rm with mem := placeBytes [] 0x500 [0xFF, 0, 0, 0, 0x10, 0x12] }) (fun t => decide (t.gdtr = ⟨0x100000, 0xFF⟩))) = true := by decide

/-- R375 example. -/
theorem test_sidt :
    (next (exec (.sidt [.opSize] (.mem (.direct16 0x500))) { rm with idtr := ⟨0x00012345, 0xFFFF⟩ }) (fun t => decide (word16 t 0x500 = 0xFFFF ∧ word32 t 0x502 = 0x00012345))) = true := by decide

/-- R376 example. -/
theorem test_lldt :
    (next (exec (.lldt [] (.reg .eax)) (State.setReg { pm with mem := entry pm.mem 0x828 0x00008203 0x0000003F } .eax 0x28)) (fun t => decide (t.ldtr.sel = 0x28 ∧ t.ldtr.base = 0x30000 ∧ t.ldtr.limit = 0x3F ∧ t.ldtr.valid = true))) = true := by decide

/-- R378 example. -/
theorem test_ltr :
    (next (exec (.ltr [] (.reg .eax)) (State.setReg { pm with mem := entry pm.mem 0x830 0x00008904 0x00000067 } .eax 0x30)) (fun t => decide (t.tr.base = 0x40000 ∧ t.tr.limit = 0x67 ∧ t.byteAt 0x835 = 0x8B))) = true := by decide

/-- R382. -/
theorem test_mov_cr3 :
    (next (exec (.movToCr [] 3 .eax) (pm.setReg .eax 0x12345FFF)) (fun t => decide (t.cr3 = 0x12345018))) = true := by decide

/-- R390 mask. -/
theorem test_mov_dr7 :
    (next (exec (.movToDr [] 7 .eax) (pm.setReg .eax 0xFFFFFFFF)) (fun t => decide (t.dr7 = 0xFFFF03FF))) = true := by decide

/-- R390: DR4 names DR6. -/
theorem test_mov_dr4 :
    (next (exec (.movFromDr [] .ebx 4) { pm with dr6 := 0x4001 }) (fun t => decide (t.reg .ebx = 0x4001))) = true := by decide

/-- R431. -/
theorem test_lar :
    (next (exec (.lar [] .eax (.reg .ebx)) (pm.setReg .ebx 0x10)) (fun t => t.zf)) = true := by decide

/-- R432. -/
theorem test_lsl :
    (next (exec (.lsl [] .ecx (.reg .ebx)) (user.setReg .ebx 0x23)) (fun t => decide (t.reg .ecx = 0xFFFFFFFF ∧ t.zf = true))) = true := by decide

/-- R433 example. -/
theorem test_verr :
    (next (exec (.verr [] (.reg .eax)) (user.setReg .eax 0x23)) (fun t => t.zf) && next (exec (.verr [] (.reg .eax)) (user.setReg .eax 0x10)) (fun t => !t.zf)) = true := by decide

/-- R434. -/
theorem test_verw :
    (next (exec (.verw [] (.reg .eax)) (pm.setReg .eax 0x10)) (fun t => t.zf) && next (exec (.verw [] (.reg .eax)) (pm.setReg .eax 0x08)) (fun t => !t.zf)) = true := by decide

/-- R435 example. -/
theorem test_arpl :
    (next (exec (.arpl [] (.mem (.based32 .ebp (.d8 12))) .ecx) (State.setReg (State.setReg { pm with mem := placeBytes pm.mem 0x500C [8, 0] } .ecx 0x1B) .ebp 0x5000)) (fun t => decide (word16 t 0x500C = 0xB ∧ t.zf = true))) = true := by decide

/-- R463 example. -/
theorem test_mov_to_ds :
    (next (exec (.movToSeg [] 3 (.reg .eax)) (pm.setReg .eax 0x10)) (fun t => decide (t.ds.sel = 0x10 ∧ t.ds.limit = 0xFFFFFFFF ∧ t.inhibitSs = false))) = true := by decide

/-- R650. -/
theorem test_mov_to_ss_holds :
    (next (exec (.movToSeg [] 2 (.reg .eax)) (rm.setReg .eax 0x1234)) (fun t => decide (t.ss.base = 0x12340 ∧ t.inhibitSs = true))) = true := by decide

/-- R465 example. -/
theorem test_pop_es :
    (next (exec (.popEs []) (State.setReg { user with mem := dword user.mem 0x1000 0xABCD0023 } .esp 0x1000)) (fun t => decide (t.es.sel = 0x23 ∧ t.reg .esp = 0x1004))) = true := by decide

/-- R466 example. -/
theorem test_push_cs :
    (next (exec (.pushCs []) (user.setReg .esp 0x2000)) (fun t => decide (word32 t 0x1FFC = 0x1B ∧ t.reg .esp = 0x1FFC))) = true := by decide

/-- R467 example. -/
theorem test_lss :
    (next (exec (.lss [] .esp (.mem (.direct32 0x100))) { pm with mem := placeBytes pm.mem 0x100 [0, 0x10, 0, 0, 0x10, 0] }) (fun t => decide (t.reg .esp = 0x1000 ∧ t.ss.sel = 0x10 ∧ t.inhibitSs = false))) = true := by decide

/-- R468 example. -/
theorem test_jmp_self :
    (next (exec (.jmpRel8 [] 0xFE) { pm with eip := 0x100 }) (fun t => decide (t.eip = 0x100))) = true := by decide

/-- R469 example. -/
theorem test_call_rel :
    (next (exec (.callRel [] (.w32 0x10)) (State.setReg { pm with eip := 0x2000 } .esp 0x1000)) (fun t => decide (word32 t 0xFFC = 0x2005 ∧ t.reg .esp = 0xFFC ∧ t.eip = 0x2015))) = true := by decide

/-- R490 example. -/
theorem test_ret_imm :
    (next (exec (.retImm [] 8) (State.setReg { pm with mem := dword pm.mem 0xFFC 0x2005 } .esp 0xFFC)) (fun t => decide (t.eip = 0x2005 ∧ t.reg .esp = 0x1008))) = true := by decide

/-- R486 example. -/
theorem test_jmp_far_real :
    (next (exec (.jmpFar [] (.p16 0x1234 0x40)) rm) (fun t => decide (t.cs.base = 0x400 ∧ t.eip = 0x1234))) = true := by decide

/-- R590: one transaction of one byte on port 60H. -/
theorem test_in_al :
    (next (exec (.inAlImm [] 0x60) (rm.setReg .eax 0x12345678)) (fun t => decide (t.io.length = 1 ∧ t.eip = 0x7C02))) = true := by decide

/-- R593. -/
theorem test_out_dx :
    (next (exec (.outDxAx []) (State.setReg (pm.setReg .edx 2) .eax 0x44332211)) (fun t => decide (t.io = [IoEvent.write 2 4 0x44332211]))) = true := by decide

/-- R596 example, first iteration. -/
theorem test_rep_outsb :
    (next (exec (.outsb [.rep]) (State.setReg (State.setReg (State.setReg { pm with mem := placeBytes pm.mem 0x3000 [0x41, 0x42, 0x43] } .ecx 3) .esi 0x3000) .edx 0x378)) (fun t => decide (t.io = [IoEvent.write 0x378 1 0x41] ∧ t.reg .ecx = 2 ∧ t.reg .esi = 0x3001 ∧ t.eip = 0x3000))) = true := by decide

/-- R600 example. -/
theorem test_cli :
    (next (exec (.cli []) { pm with eflags := 0x202 }) (fun t => decide (t.eflags = 2))) = true := by decide

/-- R603. -/
theorem test_pushfd :
    (next (exec (.pushf []) pm) (fun t => decide (word32 t 0x7FFC = 2 ∧ t.reg .esp = 0x7FFC))) = true := by decide

/-- R604. -/
theorem test_popf_user_keeps_iopl_and_if :
    (next (exec (.popf []) { user with mem := dword user.mem 0x8000 0x3202 }) (fun t => decide (t.eflags = 2))) = true := by decide

/-- R631 example. -/
theorem test_int3 :
    (next (exec (.int3 []) (State.setReg { pm with eip := 0x00401000, eflags := 0x246, mem := entry pm.mem 0x2018 0x00008F00 0x00085000 } .esp 0x0009FFF0)) (fun t => decide (word32 t 0x9FFEC = 0x246 ∧ word32 t 0x9FFE8 = 8 ∧ word32 t 0x9FFE4 = 0x00401001 ∧ t.reg .esp = 0x0009FFE4 ∧ t.eip = 0x5000 ∧ t.eflags = 0x246))) = true := by decide

/-- R632 example. -/
theorem test_into :
    (next (exec (.into []) { pm with eip := 0x2000 }) (fun t => decide (t.eip = 0x2001))) = true := by decide

/-- R634 example. -/
theorem test_bound :
    (next (exec (.bound [] .eax (.mem (.based32 .ebx .none))) (State.setReg (State.setReg { pm with mem := dword pm.mem 0x5004 9 } .ebx 0x5000) .eax 9)) (fun t => decide (t.eip = 0x3002))) = true := by decide

/-- R641. -/
theorem test_iret :
    (next (exec (.iret []) { pm with mem := dword (dword (dword pm.mem 0x8000 0x4000) 0x8004 0x8) 0x8008 0x202 }) (fun t => decide (t.eip = 0x4000 ∧ t.reg .esp = 0x800C ∧ t.eflags = 0x202))) = true := by decide

/-- R405. -/
theorem test_hlt :
    (next (exec (.hlt []) pm) (fun t => decide (t.run = .halted ∧ t.eip = 0x3001))) = true := by decide

/-- R734 example. -/
theorem test_fnclex :
    (next (exec (.fnclex []) { pm with fpu := { FpuState.initial with status := 0xB8C1 } }) (fun t => decide (t.fpu.status = 0x3800))) = true := by decide

/-- R735 example. -/
theorem test_fnstsw :
    (next (exec (.fnstswAx []) { pm with fpu := { FpuState.initial with status := 0x3800 } }) (fun t => decide (t.reg .eax = 0x3800))) = true := by decide

/-- V40.4: the frame of a general-protection exception at level 3, delivered to level 0. -/
theorem test_general_protection_frame :
    (runs (deliverNewStack ⟨0x0008D000, 0x00008E00⟩ ⟨0xFFFF, 0x00CF9B00⟩ 0 true [0x23, 0x8000, 0x10002, 0x1B, 0x3000, 0]) (withTss user) (fun _ t => decide (t.eip = 0xD000 ∧ t.reg .esp = 0x8FE8 ∧ word32 t 0x8FEC = 0x3000 ∧ word32 t 0x8FF4 = 0x10002))) = true := by decide

/-- R144: a read of a device is one transaction, before the port is written. -/
theorem test_device_read_is_recorded :
    (next (exec (.outsb []) (State.setReg withDevice .esi 0xA0002)) (fun t => match t.io with | [.write _ 1 _, .memRead c] => decide (c.map Prod.fst = [0xA0002]) | _ => false)) = true := by decide

/-- R144: a write of a device reaches it and no memory. -/
theorem test_device_write_is_recorded :
    (next (exec (.smsw [] (.mem (.direct32 0xA0002))) { withDevice with cr0 := 0x60000011 }) (fun t => decide (t.io = [IoEvent.memWrite [(0xA0002, 0x11), (0xA0003, 0)]] ∧ t.byteAt 0xA0002 = 0))) = true := by decide

/-- R123, ROM that ignores writes. -/
theorem test_rom_write_is_dropped :
    (next (exec (.smsw [] (.mem (.direct32 0xA0008))) withDevice) (fun t => decide (t.io = [] ∧ t.byteAt 0xA0008 = 0))) = true := by decide

/-- U12: all ones. -/
theorem test_open_bus_reads_ones :
    (runs (physReadAt [0xA0010, 0xA0011]) withDevice (fun v t => decide (v = 0xFFFF ∧ t = withDevice))) = true := by decide

/-- R790 item 2: #UD before the length. -/
theorem test_overlong_lock_is_ud :
    (next (exec (.prefixLock [] (.overlong [0x0F, 0x01, 0x15])) { rm with mem := placeBytes [] 0x18 [0x34, 0x12] }) (fun t => decide (t.eip = 0x1234))) = true := by decide

/-- R600 with HAS_VME. -/
theorem test_cli_clears_vif :
    (next (exec (.cli []) { v86 with params := { Params.baseline with hasVME := true }, cr4 := 1, eflags := 0x000A0202 }) (fun t => decide (t.eflags = 0x00020202))) = true := by decide

/-- U15. -/
theorem test_tr_keeps_no_bit_22 :
    (next (exec (.ltr [] (.reg .eax)) (State.setReg { pm with mem := entry pm.mem 0x830 0x00608904 0x00000067 } .eax 0x30)) (fun t => decide (t.tr.attr = ⟨11, false, 0, true, false, false, false⟩))) = true := by decide

/-- R405: the counter counts while halted. -/
theorem test_time_passes_in_halt :
    (next (step { withMsr with run := .halted }) (fun t => decide (t.run = .halted ∧ t.free = withMsr.free + 1))) = true := by decide

/-- R720: bit 7 says that an unmasked error is pending. -/
theorem test_fnstsw_summary :
    (next (exec (.fnstswAx []) { pm with cr0 := 0x60000011, fpu := { FpuState.initial with status := 1, control := 0x37E } }) (fun t => decide (t.reg .eax = 0x81))) = true := by decide

/-- U3: no test registers on a Pentium. -/
theorem test_mov_tr_pentium :
    (next (exec (.movFromTr [] .eax 6) { rm with params := { Params.baseline with family := .pentium }, mem := placeBytes [] 0x18 [0x34, 0x12] }) (fun t => decide (t.eip = 0x1234))) = true := by decide

/-- withFetchWord places an instruction where the step fetches it. -/
theorem test_first_step_after_reset :
    (next (step (State.reset.withFetchWord 16 0x060F)) (fun t => decide (t.eip = 0xFFF2))) = true := by decide

/-- V44.12: the image 7000H, whose bit 1 is 0, gives 7002H. -/
theorem test_popf_makes_bit_1 :
    (next (exec (.popf []) { rm with mem := placeBytes [] 0x7000 [0, 0x70] }) (fun t => decide (t.eflags = 0x7002))) = true := by decide

/-- U1: the same image is refused where the implementation refuses writes of reserved bits. -/
theorem test_popf_refuses_bit_1 :
    exec (.popf []) (strict { rm with mem := placeBytes [] 0x7000 [0, 0x70] }) = .refused .reservedBits := by rfl

/-- R721: FNSTENV clears the exception flags. -/
theorem test_fnstenv_clears_flags :
    (next (exec (.fnstenv [] (.direct32 0x1000)) { pm with fpu := { FpuState.initial with status := 0xB8C1 } }) (fun t => decide (t.fpu.status = 0x3800))) = true := by decide

/-- R688: the trap of the debug handler's own task enters that task, whose T bit makes it again. -/
theorem test_debug_task_loops :
    (next (step ownTrap) (fun t => decide (t.dbPending.bt = true ∧ bit t.dr6 15 = true ∧ t.eip = 0x3000 ∧ t.tr.sel = 0x28))) = true := by decide

/-- D48: a write of CR0 that leaves PG and PAE set checks the entries, also where both were set. -/
theorem test_cr0_checks_pdpt_again :
    (stops (writeCr0 0x80000011) (pdptCase 0x80000011 0x20 0 7) && runs (writeCr0 0x80000011) (pdptCase 0x80000011 0x20 0 1) done) = true := by decide

/-! ## Witnesses: values that meet the hypotheses of each statement -/

/-- The hypotheses of `Obligations.PrivilegedPlainResults` are met. -/
theorem witness_PrivilegedPlainResults :
    Prefixes.plain [] = true ∧
    rm.cpl = 0 ∧
    rm.params.family ≠ .i386 ∧
    user.cpl ≠ 0 ∧
    ({ pm with params := { Params.baseline with family := .i386 } } : State).params.family = .i386 :=
  by and_intros <;> decide

/-- The hypotheses of `Obligations.StoreWord` are met. -/
theorem witness_StoreWord :
    Prefixes.plain [] = true ∧
    pm.protectedMode = true ∧
    SegReg.ofCode? 0 = some .es ∧
    SegReg.ofCode? 5 = some .gs ∧
    runs (memProbe (operandSeg [] (.direct32 0x1000)) (pm.ea (.direct32 0x1000)) 2 2 true) pm.begin (fun x u => x.isRam u) = true :=
  by and_intros <;> decide

/-- The hypotheses of `Obligations.LldtLtrResults` are met. The null selectors 0 and 3, an LDT, and available TSSs of both formats; an operand that cannot be read; a selector of an LDT, the first one beyond the GDT, a GDT where no memory is; data, type 0 and a busy TSS; an LDT and TSSs that are not present; a GDT in a page that cannot be written. -/
theorem witness_LldtLtrResults :
    Prefixes.plain [] = true ∧
    pm.protectedMode = true ∧
    pm.cpl = 0 ∧
    runs (readRm16 [] (.reg .eax)) (State.begin (pm.setReg .eax 3)) (fun sel _ => isNull sel) = true ∧
    runs (readRm16 [] (.reg .eax)) (State.begin pm) (fun sel _ => isNull sel) = true ∧
    runs (readRm16 [] (.reg .eax)) (State.begin (State.setReg { pm with mem := entry pm.mem 0x828 0x00008203 0x0000003F } .eax 0x28)) (fun sel v => !isNull sel && runs (gdtDescriptor sel) v (fun d _ => !descS d && descP d && decide (descType d = 2))) = true ∧
    runs (readRm16 [] (.reg .eax)) (State.begin (State.setReg { pm with mem := entry pm.mem 0x830 0x00008904 0x00000067 } .eax 0x30)) (fun sel v => !isNull sel && runs (gdtDescriptor sel) v (fun d w => !descS d && descP d && (decide (descType d = 1) || decide (descType d = 9)) && runs (linAddrs (w.descAddr sel 5) 1 Acc.supWrite) w (fun a u => Slot.isRam u ⟨0, a⟩))) = true ∧
    runs (readRm16 [] (.reg .eax)) (State.begin (State.setReg { pm with mem := entry pm.mem 0x830 0x00008104 0x00000067 } .eax 0x30)) (fun sel v => !isNull sel && runs (gdtDescriptor sel) v (fun d w => !descS d && descP d && (decide (descType d = 1) || decide (descType d = 9)) && runs (linAddrs (w.descAddr sel 5) 1 Acc.supWrite) w (fun a u => Slot.isRam u ⟨0, a⟩))) = true ∧
    stops (readRm16 [] (.mem (.direct32 0x100))) (State.begin { pm with ds := { pm.ds with limit := 0x100 } }) = true ∧
    (runs (readRm16 [] (.reg .eax)) (State.begin (State.setReg pm .eax 0x2C)) (fun sel _ => !isNull sel && selTi sel) = true) ∧
    (runs (readRm16 [] (.reg .eax)) (State.begin (State.setReg pm .eax 0x80)) (fun sel v => !isNull sel && !selTi sel && decide (v.gdtr.limit.toNat < selIndex sel * 8 + 7)) = true) ∧
    (runs (readRm16 [] (.reg .eax)) (State.begin (State.setReg { pm with params := { Params.baseline with physMap := [⟨0x800, 0x80, .nothing⟩] } } .eax 0x10)) (fun sel v => !isNull sel && stops (gdtDescriptor sel) v) = true) ∧
    (∀ hi ∈ [0x00CF9300, 0x00000000, 0x00008B00], runs (readRm16 [] (.reg .eax)) (State.begin (State.setReg { pm with mem := entry pm.mem 0x878 hi 0 } .eax 0x78)) (fun sel v => !isNull sel && runs (gdtDescriptor sel) v (fun d _ => (descS d || decide (descType d ≠ 2)) && (descS d || decide (descType d ≠ 1 ∧ descType d ≠ 9)))) = true) ∧
    (∀ hi ∈ [0x00000200, 0x00000100, 0x00000900], runs (readRm16 [] (.reg .eax)) (State.begin (State.setReg { pm with mem := entry pm.mem 0x830 hi 0x67 } .eax 0x30)) (fun sel v => !isNull sel && runs (gdtDescriptor sel) v (fun d _ => !descS d && !descP d && decide (descType d = 2 ∨ descType d = 1 ∨ descType d = 9))) = true) ∧
    (runs (readRm16 [] (.reg .eax)) (State.begin (State.setReg { walked 0x5005 with mem := entry (walked 0x5005).mem 0x5830 0x00008904 0x67 } .eax 0x30)) (fun sel v => !isNull sel && runs (gdtDescriptor sel) v (fun d w => !descS d && descP d && decide (descType d = 9) && stops (linAddrs (w.descAddr sel 5) 1 Acc.supWrite) w)) = true) :=
  by and_intros <;> decide

/-- The hypotheses of `Obligations.VerifySetsZf` are met. A descriptor, none, a machine outside protected mode, an operand beyond its segment, a table where no memory is. -/
theorem witness_VerifySetsZf :
    Prefixes.plain [] = true ∧
    pm.protectedMode = true ∧
    runs (readRm16 [] (.reg .eax)) (State.begin (pm.setReg .eax 0)) (fun sel v => runs (fetchForCheck sel) v done) = true ∧
    runs (readRm16 [] (.reg .eax)) (State.begin (pm.setReg .eax 0x10)) (fun sel v => runs (fetchForCheck sel) v done) = true ∧
    runs (readRm16 [] (.reg .eax)) (State.begin (pm.setReg .eax 0x78)) (fun sel v => runs (fetchForCheck sel) v done) = true ∧
    runs (readRm16 [] (.reg .eax)) (State.begin (pm.setReg .eax 0x80)) (fun sel v => runs (fetchForCheck sel) v done) = true ∧
    rm.protectedMode = false ∧
    stops (readRm16 [] (.mem (.direct32 0x100))) (State.begin { pm with ds := { pm.ds with limit := 0x100 } }) = true ∧
    runs (readRm16 [] (.reg .eax)) (State.begin (State.setReg { pm with params := { Params.baseline with physMap := [⟨0x800, 0x80, .nothing⟩] } } .eax 0x10)) (fun sel v => stops (fetchForCheck sel) v) = true :=
  by and_intros <;> decide

/-- The hypotheses of `Obligations.LarLslResults` are met. A visible data segment, an available TSS, a call gate, a null selector. -/
theorem witness_LarLslResults :
    Prefixes.plain [] = true ∧
    pm.protectedMode = true ∧
    (∀ hi ∈ [0x00CF9300, 0x00008904], runs (readRm16 [] (.reg .eax)) (State.begin (State.setReg { pm with mem := entry pm.mem 0x830 hi 0x00000067 } .eax 0x30)) (fun sel v => runs (fetchForCheck sel) v (fun o _ => match o with | some d => (descS d || decide ((descType d).toNat ∈ [1, 2, 3, 9, 11])) && decide (max pm.cpl.toNat (rpl sel).toNat ≤ (descDpl d).toNat) | none => false)) = true) ∧
    runs (readRm16 [] (.reg .eax)) (State.begin (State.setReg { pm with mem := entry pm.mem 0x830 0x0000EC00 0x00085000 } .eax 0x30)) (fun sel v => runs (fetchForCheck sel) v (fun o _ => match o with | some d => !descS d && decide ((descType d).toNat ∉ [1, 2, 3, 9, 11]) | none => false)) = true ∧
    runs (readRm16 [] (.reg .eax)) (State.begin pm) (fun sel v => runs (fetchForCheck sel) v (fun o _ => o.isNone)) = true :=
  by and_intros <;> decide

/-- The hypotheses of `Obligations.DescriptorTableRegisters` are met. -/
theorem witness_DescriptorTableRegisters :
    Prefixes.plain [] = true ∧
    rm.cpl = 0 ∧
    runs (probeMem [] (.direct16 0x500) 0 2 2) rm.begin (fun x u => runs (probeMem [] (.direct16 0x500) 2 4 4) u (fun y w => x.isRam w && y.isRam w)) = true ∧
    runs (readMem [] (.direct16 0xFFFA) 0 2 2) rm.begin (fun _ u => runs (readMem [] (.direct16 0xFFFA) 2 4 4) u done) = true ∧
    segOk rm.protectedMode (rm.seg (operandSeg [] (.direct16 0xFFFA))) (rm.ea (.direct16 0xFFFA)) 6 true = true ∧
    segOk rm.protectedMode (rm.seg (operandSeg [] (.direct16 0xFFFB))) (rm.ea (.direct16 0xFFFB)) 6 true = false ∧
    segOk rm.protectedMode (rm.seg (operandSeg [] (.direct16 0xFFFA))) (rm.ea (.direct16 0xFFFA)) 6 false = true ∧
    segOk rm.protectedMode (rm.seg (operandSeg [] (.direct16 0xFFFB))) (rm.ea (.direct16 0xFFFB)) 6 false = false ∧
    segOk pm.protectedMode (pm.seg .ds) 0xFFFFFFFE 6 false = false :=
  by and_intros <;> decide

/-- The hypotheses of `Obligations.LmswWritesLowBits` are met. Setting PE with an even and with an odd CS, a level above 0, an operand that cannot be read. -/
theorem witness_LmswWritesLowBits :
    Prefixes.plain [] = true ∧
    user.cpl ≠ 0 ∧
    rm.cpl = 0 ∧
    stops (readRm16 [] (.mem (.direct16 0xFFFF))) rm.begin = true ∧
    runs (readRm16 [] (.reg .eax)) (State.begin (rm.setReg .eax 1)) (fun w _ => w.getLsbD 0) = true ∧
    rpl rm.cs.sel = 0 ∧
    rm.pe = false ∧
    rpl ({ rm.cs with sel := 1 } : SegState).sel ≠ 0 :=
  by and_intros <;> decide

/-- The hypotheses of `Obligations.InvlpgDropsOnePage` are met. -/
theorem witness_InvlpgDropsOnePage :
    Prefixes.plain [] = true ∧
    rm.cpl = 0 ∧
    rm.params.family ≠ .i386 :=
  by and_intros <;> decide

/-- The hypotheses of `Obligations.MovFromControlRegister` are met. -/
theorem witness_MovFromControlRegister :
    Prefixes.plain [] = true ∧
    pm.cpl = 0 ∧
    ({ Params.baseline with hasCR4 := true } : Params).hasCR4 = true ∧
    Params.baseline.hasCR4 = false :=
  by and_intros <;> decide

/-- The hypotheses of `Obligations.MovToControlRegister` are met. PG without PE; a write of CR0, on an i386 too, whose new value has PG 0; CR3 with a good and a bad page-directory-pointer table, and with reserved bits that are 0 and that are not; CR4 with an absent and a present feature. -/
theorem witness_MovToControlRegister :
    Prefixes.plain [] = true ∧
    pm.cpl = 0 ∧
    Params.baseline.hasCR4 = false ∧
    (bit 0x1 0 = true ∧ rm.pe = false ∧ rpl ({ rm.cs with sel := 1 } : SegState).sel ≠ 0) ∧
    rpl rm.cs.sel = 0 ∧
    (bit 0x80000000 31 = true ∧ bit 0x80000000 0 = false) ∧
    runs (checkPdpt (Params.baseline.hasPAE && bit (cr0Value pm.params.family 0x80000001) 31 && pm.cr4Pae) pm.cr3) pm.begin done = true ∧
    (runs (checkPdpt true 0x9000) pae.begin done = true ∧ pae.cpl = 0 ∧ (pae.params.hasPAE && pae.cr4Pae && pae.pg) = true) ∧
    stops (checkPdpt true 0x9000) (State.begin { pae with mem := dword [] 0x9000 7 }) = true ∧
    (runs (checkPdpt ((pdptCase 0x11 0x20 0x80000011 1).params.hasPAE && bit (cr0Value .i486 ((pdptCase 0x11 0x20 0x80000011 1).reg .eax)) 31 && (pdptCase 0x11 0x20 0x80000011 1).cr4Pae) (pdptCase 0x11 0x20 0x80000011 1).cr3) (pdptCase 0x11 0x20 0x80000011 1).begin done = true ∧ stops (checkPdpt ((pdptCase 0x80000011 0x20 0x80000011 7).params.hasPAE && bit (cr0Value .i486 ((pdptCase 0x80000011 0x20 0x80000011 7).reg .eax)) 31 && (pdptCase 0x80000011 0x20 0x80000011 7).cr4Pae) (pdptCase 0x80000011 0x20 0x80000011 7).cr3) (pdptCase 0x80000011 0x20 0x80000011 7).begin = true) ∧
    (runs (checkPdpt ((pdptCase 0x80000011 0 0x20 1).params.hasPAE && bit ((pdptCase 0x80000011 0 0x20 1).reg .eax) 5 && (pdptCase 0x80000011 0 0x20 1).pg) (pdptCase 0x80000011 0 0x20 1).cr3) (pdptCase 0x80000011 0 0x20 1).begin done = true ∧ stops (checkPdpt ((pdptCase 0x80000011 0x20 0x20 7).params.hasPAE && bit ((pdptCase 0x80000011 0x20 0x20 7).reg .eax) 5 && (pdptCase 0x80000011 0x20 0x20 7).pg) (pdptCase 0x80000011 0x20 0x20 7).cr3) (pdptCase 0x80000011 0x20 0x20 7).begin = true) ∧
    pae.params.hasCR4 = true ∧
    0x20#32 &&& ~~~(cr4Present Params.baseline) ≠ 0 ∧
    0x20#32 &&& ~~~(cr4Present { Params.baseline with hasPAE := true }) = 0 ∧
    (pdptCase 0x11 0x20 0x80000011 1).params.family = .i486 ∧
    (bit (cr0Value .i386 0x80000011) 31 = false ∧ runs (checkPdpt (pae.params.hasPAE && bit (cr0Value .i386 0x80000011) 31 && pae.cr4Pae) pae.cr3) (State.begin { pae with params := { pae.params with family := .i386 } }) done = true) ∧
    (admitsCr3 pm 0x12345FFF ∧ admitsCr3 (strict pm) 0x12345018 ∧ admitsCr3 (strict pae) 0x12345FF8) ∧
    (¬admitsCr3 (strict pm) 0x12345FFF ∧ ¬admitsCr3 (strict pm) 0x12345818 ∧ ¬admitsCr3 (strict pae) 0x12345FFC) :=
  by and_intros <;> first | decide | exact (cr3AsRead_iff _ _).1 (by decide) | exact fun h => absurd ((cr3AsRead_iff _ _).2 h) (by decide)

/-- The hypotheses of `Obligations.MovDebugAndTestRegisters` are met. -/
theorem witness_MovDebugAndTestRegisters :
    Prefixes.plain [] = true ∧
    pm.cpl = 0 ∧
    user.cpl ≠ 0 ∧
    ({ pm with params := { Params.baseline with hasDE := true }, cr4 := 8 } : State).cr4De = true ∧
    pm.params.hasTestRegs = true ∧
    (∀ f ∈ [Family.i386, .i486], ({ Params.baseline with family := f } : Params).family = .i386 ∨ ({ Params.baseline with family := f } : Params).family = .i486) ∧
    ({ Params.baseline with hasTestRegs := false } : Params).hasTestRegs = false ∧
    (∀ f ∈ [Family.pentium, .p6], ({ Params.baseline with family := f } : Params).family = .pentium ∨ ({ Params.baseline with family := f } : Params).family = .p6) :=
  by and_intros <;> decide

/-- The hypotheses of `Obligations.CountersAndModelRegisters` are met. -/
theorem witness_CountersAndModelRegisters :
    Prefixes.plain [] = true ∧
    withMsr.params.hasMSR = true ∧
    withMsr.cpl = 0 ∧
    (State.begin (withMsr.setReg .ecx 0x1B)).msr (State.reg (withMsr.setReg .ecx 0x1B) .ecx) = some 5 ∧
    (State.begin (withMsr.setReg .ecx 0x10)).isTscMsr 0x10 = true ∧
    (State.begin (withMsr.setReg .ecx 0x1C)).msr (State.reg (withMsr.setReg .ecx 0x1C) .ecx) = none ∧
    withMsr.params.hasTSC = true ∧
    ({ user with cr4 := 4 } : State).cr4Tsd = true ∧
    user.cr4Tsd = false ∧
    user.cpl ≠ 0 ∧
    pm.params.hasTSC = false ∧
    withMsr.params.hasPMC = true ∧
    ({ user with cr4 := 0x100 } : State).cr4Pce = true ∧
    (withMsr.setReg .ecx 0).reg .ecx = 0 ∧
    (withMsr.setReg .ecx 1).reg .ecx = 1 ∧
    1 < ((withMsr.setReg .ecx 2).reg .ecx).toNat ∧
    user.cr4Pce = false ∧
    (pm.params.hasPMC = false ∧ pm.params.hasMSR = false) ∧
    ((withMsr.setReg .ecx 0x10).params.hasTSC = true ∧ (withMsr.setReg .ecx 0x10).params.tscMsr = some ((withMsr.setReg .ecx 0x10).reg .ecx)) ∧
    (withMsr.setReg .ecx 0x1B).params.tscMsr ≠ some ((withMsr.setReg .ecx 0x1B).reg .ecx) :=
  by and_intros <;> decide

/-- The hypotheses of `Obligations.ArplAdjustsRpl` are met. -/
theorem witness_ArplAdjustsRpl :
    Prefixes.plain [] = true ∧
    pm.protectedMode = true ∧
    runs (probeMem [] (.direct32 0x1000) 0 2 2) pm.begin (fun x u => runs (slotRead x) u (fun _ v => x.isRam v)) = true :=
  by and_intros <;> decide

/-- The hypotheses of `Obligations.LoadSegmentRegister` are met. A table where no page is, the first selector beyond it; SS: two types that suit it, absent, no writable data, a DPL that is not CPL, an RPL that is not CPL; the others: types that suit, absent, code that cannot be read, a system segment, a DPL below CPL. -/
theorem witness_LoadSegmentRegister :
    rm.protectedMode = false ∧
    v86.protectedMode = false ∧
    (pm.protectedMode = true ∧ user.protectedMode = true ∧ (paged 0 0 0).protectedMode = true) ∧
    isNull 3 = true ∧
    (isNull 4 = false ∧ isNull 0x10 = false ∧ isNull 0x80 = false) ∧
    stops (readDescriptor 0x10) (paged 0 0 0) = true ∧
    (runs (readDescriptor 0x80) pm (fun d _ => d.isNone) = true ∧ runs (readDescriptor 0x7B) pm (fun d _ => d.isSome) = true ∧ runs (readDescriptor 4) { pm with ldtr := { pm.ldtr with valid := false } } (fun d _ => d.isNone) = true) ∧
    (∀ hi ∈ [0x00CF9200, 0x00CF9700], runs (readDescriptor 0x10) { pm with mem := entry pm.mem 0x810 hi 0xFFFF } (fun d u => decide (d = some ⟨0xFFFF, hi⟩) && runs (probeAccessed 0x10 ⟨0xFFFF, hi⟩) u (fun a v => runs (commitAccessed a) v done)) = true ∧ descS (⟨0xFFFF, hi⟩ : Desc) = true ∧ (descType (⟨0xFFFF, hi⟩ : Desc)).toNat ∈ [2, 3, 6, 7] ∧ rpl 0x10 = pm.cpl ∧ descDpl (⟨0xFFFF, hi⟩ : Desc) = pm.cpl ∧ descP (⟨0xFFFF, hi⟩ : Desc) = true) ∧
    (∀ hi ∈ [0x00CF9000, 0x00CF9700, 0x00CF9A00, 0x00CF9F00], runs (readDescriptor 0x10) { pm with mem := entry pm.mem 0x810 hi 0xFFFF } (fun d u => decide (d = some ⟨0xFFFF, hi⟩) && runs (probeAccessed 0x10 ⟨0xFFFF, hi⟩) u (fun a v => runs (commitAccessed a) v done)) = true ∧ descS (⟨0xFFFF, hi⟩ : Desc) = true ∧ ((descType (⟨0xFFFF, hi⟩ : Desc)).toNat ∈ [14, 15] ∨ (descType (⟨0xFFFF, hi⟩ : Desc)).toNat ∈ [0, 1, 2, 3, 4, 5, 6, 7, 10, 11] ∧ pm.cpl.toNat ≤ (descDpl (⟨0xFFFF, hi⟩ : Desc)).toNat ∧ (rpl 0x10).toNat ≤ (descDpl (⟨0xFFFF, hi⟩ : Desc)).toNat) ∧ descP (⟨0xFFFF, hi⟩ : Desc) = true) ∧
    (∀ hi ∈ [0x00CF1300], runs (readDescriptor 0x10) { pm with mem := entry pm.mem 0x810 hi 0xFFFF } (fun d _ => decide (d = some ⟨0xFFFF, hi⟩) && true) = true ∧ descP (⟨0xFFFF, hi⟩ : Desc) = false) ∧
    (∀ hi ∈ [0x00CF9100, 0x00CF9B00], runs (readDescriptor 0x10) { pm with mem := entry pm.mem 0x810 hi 0xFFFF } (fun d _ => decide (d = some ⟨0xFFFF, hi⟩) && true) = true ∧ (descType (⟨0xFFFF, hi⟩ : Desc)).toNat ∉ [2, 3, 6, 7]) ∧
    (∀ hi ∈ [0x00CFB300], runs (readDescriptor 0x10) { pm with mem := entry pm.mem 0x810 hi 0xFFFF } (fun d _ => decide (d = some ⟨0xFFFF, hi⟩) && true) = true ∧ descDpl (⟨0xFFFF, hi⟩ : Desc) ≠ pm.cpl) ∧
    rpl 0x11 ≠ pm.cpl ∧
    (∀ hi ∈ [0x00CF9900, 0x00CF9D00], runs (readDescriptor 0x10) { pm with mem := entry pm.mem 0x810 hi 0xFFFF } (fun d _ => decide (d = some ⟨0xFFFF, hi⟩) && true) = true ∧ (descType (⟨0xFFFF, hi⟩ : Desc)).toNat ∉ [14, 15] ∧ (descType (⟨0xFFFF, hi⟩ : Desc)).toNat ∉ [0, 1, 2, 3, 4, 5, 6, 7, 10, 11]) ∧
    (∀ hi ∈ [0x00008200], runs (readDescriptor 0x10) { pm with mem := entry pm.mem 0x810 hi 0xFFFF } (fun d _ => decide (d = some ⟨0xFFFF, hi⟩) && true) = true ∧ descS (⟨0xFFFF, hi⟩ : Desc) = false) ∧
    runs (readDescriptor 0x10) user (fun d _ => decide (d = some ⟨0xFFFF, 0x00CF9300⟩) && decide ((descDpl (⟨0xFFFF, 0x00CF9300⟩ : Desc)).toNat < user.cpl.toNat)) = true :=
  by and_intros <;> decide

/-- The two chains of `Obligations.LoadSegmentRegister` about the accessed mark: data whose bit is clear; data whose bit is set, on an i386 and on an i486; a system descriptor. Both kinds of limit. -/
theorem witness_LoadSegmentRegister_mark :
    (descS ⟨0xFFFF, 0x00CF9200⟩ = true ∧ bit (0x00CF9200 : Word32) 8 = false) ∧
    (descS ⟨0xFFFF, 0x00CF9300⟩ = true ∧ bit (0x00CF9300 : Word32) 8 = true ∧ pm.params.family = .i486 ∧ ({ Params.baseline with family := .i386 } : Params).family = .i386) ∧
    descS ⟨0xFFFF, 0x00008200⟩ = false ∧
    pm.pg = false ∧
    (physKind pm.params 0x815 = .ram ∧ Memory.wf pm.mem = true) ∧
    runs (commitAccessed [0x815]) { pm with mem := entry pm.mem 0x810 0x00CF9200 0xFFFF } (fun _ t => decide (t.byteAt 0x815 = 0x93 ∧ t.byteAt 0x814 = 0 ∧ t.byteAt 0x816 = 0xCF)) = true ∧
    (descLimit ⟨0xFFFF, 0x00CF9300⟩ = 0xFFFFFFFF ∧ descLimit ⟨0xFFFF, 0x004F9300⟩ = 0xFFFFF ∧ descLimit ⟨0, 0x00C09300⟩ = 0xFFF) :=
  by and_intros <;> decide

/-- The hypotheses of `Obligations.DescriptorTableReads` are met. The last entry of the GDT and the one beyond it; no LDT; a table where no page is; a selector of either table; an entry of the IDT that is a gate and one that is none. The flat descriptors are the worked examples of R192. -/
theorem witness_DescriptorTableReads :
    (15 * 8 + 7 ≤ pm.gdtr.limit.toNat ∧ pm.gdtr.limit.toNat < 16 * 8 + 7 ∧ pm.ldtr.valid = false) ∧
    (stops (linRead (0x800 + BitVec.ofNat 32 (2 * 8)) 8 ⟨false, false⟩) (paged 0 0 0) = true ∧ runs (linRead (0x800 + BitVec.ofNat 32 (2 * 8)) 8 ⟨false, false⟩) pm done = true) ∧
    (pm.pg = false ∧ pm.params.physMap = []) ∧
    ((0x13 : Word16).toNat / 4 % 2 = 0 ∧ (0x14 : Word16).toNat / 4 % 2 = 1) ∧
    stops (tableRead pm.idtr.base pm.idtr.limit.toNat true (2 : Byte).toNat) (paged 0 0 0) = true ∧
    (∀ hi ∈ [0x00008E00, 0x00008C00], runs (tableRead pm.idtr.base pm.idtr.limit.toNat true (2 : Byte).toNat) { pm with mem := entry pm.mem 0x2010 hi 0x00085000 } (fun d _ => decide (d = some ⟨0x00085000, hi⟩)) = true) ∧
    (descBase ⟨0x0000FFFF, 0x00CF9A00⟩ = 0 ∧ descLimit20 ⟨0x0000FFFF, 0x00CF9A00⟩ = 0xFFFFF ∧ descAttr ⟨0x0000FFFF, 0x00CF9A00⟩ = ⟨10, true, 0, true, false, true, true⟩ ∧ descAttr ⟨0x0000FFFF, 0x00CF9200⟩ = ⟨2, true, 0, true, false, true, true⟩) ∧
    (descBase ⟨0x56781234, 0x12709334⟩ = 0x12345678 ∧ (descAttr ⟨0x56781234, 0x12709334⟩).avl = true) :=
  by and_intros <;> decide

/-- The hypotheses of `Obligations.MovPopPushSegmentRegister` are met: loads. -/
theorem witness_MovPopPushSegmentRegister :
    Prefixes.plain [] = true ∧
    SegReg.ofCode? 2 = some .ss ∧
    SegReg.ofCode? 1 = some .cs ∧
    SegReg.ofCode? 6 = none ∧
    (∀ r ∈ [SegReg.ss, .ds], r ≠ .cs ∧ runs (readRm16 [] (.reg .eax)) (State.begin (pm.setReg .eax 0x10)) (fun sel v => runs (loadSeg r sel) v done) = true) ∧
    (∀ r ∈ [SegReg.es, .ds, .fs, .gs, .ss], runs (readStack pm.sp (pm.opBytes [])) (State.begin { pm with mem := dword pm.mem 0x8000 0x10 }) (fun x v => runs (loadSeg r (BitVec.ofNat 16 x)) v done) = true) :=
  by and_intros <;> decide

/-- Pushes, in protected and in real-address mode. -/
theorem witness_MovPopPushSegmentRegister_push :
    Prefixes.plain [] = true ∧
    runs (memProbe .ss (spAfter pm.ss.attr.db (pm.reg .esp) (pm.opBytes []) 1) (pm.opBytes []) (pm.opBytes []) true) pm.begin (fun x u => x.isRam u) = true ∧
    runs (memProbe .ss (spAfter rm.ss.attr.db (rm.reg .esp) (rm.opBytes []) 1) (rm.opBytes []) (rm.opBytes []) true) rm.begin (fun x u => x.isRam u) = true :=
  by and_intros <;> decide

/-- The error paths of `Obligations.MovPopPushSegmentRegister` are met. An operand and a stack item that cannot be read, selectors that cannot be loaded, a push without room. -/
theorem witness_MovPopPushSegmentRegister_stops :
    stops (readRm16 [] (.mem (.direct32 0x100))) (State.begin { pm with ds := { pm.ds with limit := 0x100 } }) = true ∧
    (∀ r ∈ [SegReg.es, .ss, .ds, .fs, .gs], runs (readRm16 [] (.reg .eax)) (State.begin (pm.setReg .eax 0x80)) (fun sel v => stops (loadSeg r sel) v) = true) ∧
    stops (readStack pm.sp (pm.opBytes [])) (State.begin { pm with ss := { pm.ss with limit := 0x8002 } }) = true ∧
    (∀ r ∈ [SegReg.es, .ss, .ds, .fs, .gs], runs (readStack pm.sp (pm.opBytes [])) (State.begin { pm with mem := dword pm.mem 0x8000 0x80 }) (fun x v => stops (loadSeg r (BitVec.ofNat 16 x)) v) = true) ∧
    stops (memProbe .ss (spAfter pm.ss.attr.db (pm.reg .esp) (pm.opBytes []) 1) (pm.opBytes []) (pm.opBytes []) true) (State.begin { pm with ss := { pm.ss with limit := 0x7FFE } }) = true :=
  by and_intros <;> decide

/-- The hypotheses of `Obligations.LoadFarPointer` are met. A pointer whose last byte lies beyond its segment, a selector beyond the table. -/
theorem witness_LoadFarPointer :
    Prefixes.plain [] = true ∧
    (∀ r ∈ [SegReg.es, .ds, .ss, .fs, .gs], runs (readFar [] (.direct32 0x100) (pm.opBytes [])) (State.begin { pm with mem := placeBytes pm.mem 0x100 [0, 0x10, 0, 0, 0x10, 0] }) (fun x v => runs (loadSeg r x.2) v done) = true) ∧
    stops (readFar [] (.direct32 0x100) (pm.opBytes [])) (State.begin { pm with ds := { pm.ds with limit := 0x104 } }) = true ∧
    (∀ r ∈ [SegReg.es, .ds, .ss, .fs, .gs], runs (readFar [] (.direct32 0x100) (pm.opBytes [])) (State.begin { pm with mem := placeBytes pm.mem 0x100 [0, 0x10, 0, 0, 0x80, 0] }) (fun x v => stops (loadSeg r x.2) v) = true) :=
  by and_intros <;> decide

/-- The hypotheses of `Obligations.NearTransfers` are met. Targets at the limit and one beyond it; a call; an operand that cannot be read; a push to the first byte within the limit and one byte short of it. -/
theorem witness_NearTransfers :
    Prefixes.plain [] = true ∧
    (truncTarget (rm.op32 []) 0xFFFF).toNat ≤ rm.cs.limit.toNat ∧
    ({ rm.cs with limit := 0xFFFE } : SegState).limit.toNat < (truncTarget (rm.op32 []) 0xFFFF).toNat ∧
    runs (readRmV [] (.reg .eax)) (State.begin (rm.setReg .eax 0xFFFF)) (fun x v => decide (x.toNat ≤ v.cs.limit.toNat)) = true ∧
    runs (requireRoom (pm.opBytes []) 1) pm.begin (fun _ t => decide (t = pm.begin)) = true ∧
    runs (memProbe .ss (spAfter pm.ss.attr.db (pm.reg .esp) (pm.opBytes []) 1) (pm.opBytes []) (pm.opBytes []) true) pm.begin (fun x u => x.isRam u) = true ∧
    (runs (readRmV [] (.reg .eax)) (State.begin (pm.setReg .eax 0x4000)) (fun x v => decide (x.toNat ≤ v.cs.limit.toNat ∧ v = State.begin (pm.setReg .eax 0x4000))) = true) ∧
    stops (readRmV [] (.mem (.direct32 0x100))) (State.begin { pm with ds := { pm.ds with limit := 0x102 } }) = true ∧
    (segOk pm.protectedMode { pm.ss with limit := 0x7FFF } (spAfter pm.ss.attr.db (pm.reg .esp) (pm.opBytes []) 1) (pm.opBytes []) true = true ∧ segOk pm.protectedMode { pm.ss with limit := 0x7FFE } (spAfter pm.ss.attr.db (pm.reg .esp) (pm.opBytes []) 1) (pm.opBytes []) true = false) ∧
    (segOk rm.protectedMode rm.ss (spAfter rm.ss.attr.db (rm.reg .esp) (rm.opBytes []) 1) (rm.opBytes []) true = true ∧ segOk rm.protectedMode rm.ss (spAfter rm.ss.attr.db 1 (rm.opBytes []) 1) (rm.opBytes []) true = false) ∧
    ({ pm.cs with limit := 0x3FFF } : SegState).limit.toNat < (truncTarget (pm.op32 []) (pm.nextPc [] 5 + Rel.value (.w32 0xFFB))).toNat ∧
    runs (readRmV [] (.reg .eax)) (State.begin (State.setReg { pm with cs := { pm.cs with limit := 0x3FFF } } .eax 0x4000)) (fun x _ => decide (0x3FFF < x.toNat)) = true :=
  by and_intros <;> decide

/-- Returns: a target within the limit, one beyond it, a stack that cannot be read. -/
theorem witness_NearTransfers_returns :
    Prefixes.plain [] = true ∧
    stops (readStack rm.sp (rm.opBytes [])) (State.begin { rm with ss := { rm.ss with limit := 0x7000 } }) = true ∧
    runs (readStack rm.sp (rm.opBytes [])) rm.begin (fun x _ => decide ((BitVec.ofNat 32 x).toNat ≤ rm.cs.limit.toNat)) = true ∧
    runs (readStack rm.sp (rm.opBytes [])) (State.begin { rm with cs := { rm.cs with limit := 0xFF }, mem := placeBytes [] 0x7000 [0, 1] }) (fun x _ => decide (0xFF < (BitVec.ofNat 32 x).toNat)) = true :=
  by and_intros <;> decide

/-- The hypotheses of `Obligations.FarForms` are met. Jumps and calls to a code segment and a return to it; a null selector, an operand whose last byte lies beyond its segment, a selector beyond the table, a frame whose last byte lies beyond the stack. -/
theorem witness_FarForms :
    Prefixes.plain [] = true ∧
    runs (farTransfer false [] (FarPtr.sel (.p32 0x4000 8)) (FarPtr.off (.p32 0x4000 8)) (pm.nextPc [] 7)) pm.begin done = true ∧
    runs (farTransfer true [] (FarPtr.sel (.p32 0x4000 8)) (FarPtr.off (.p32 0x4000 8)) (pm.nextPc [] 7)) pm.begin done = true ∧
    runs (readFar [] (.direct32 0x100) (pm.opBytes [])) (State.begin { pm with mem := placeBytes pm.mem 0x100 [0, 0x10, 0, 0, 8, 0] }) (fun x v => runs (farTransfer false [] x.2 x.1 (pm.nextPc [] 6)) v done) = true ∧
    runs (readFar [] (.direct32 0x100) (pm.opBytes [])) (State.begin { pm with mem := placeBytes pm.mem 0x100 [0, 0x10, 0, 0, 8, 0] }) (fun x v => runs (farTransfer true [] x.2 x.1 (pm.nextPc [] 6)) v done) = true ∧
    runs (returnFar [] 0) (State.begin { pm with mem := dword (dword pm.mem 0x8000 0x4000) 0x8004 8 }) done = true ∧
    runs (returnFar [] 0xFFFF) (State.begin { pm with mem := dword (dword pm.mem 0x8000 0x4000) 0x8004 8 }) done = true ∧
    (∀ call ∈ [false, true], stops (farTransfer call [] (FarPtr.sel (.p32 0x4000 0)) (FarPtr.off (.p32 0x4000 0)) (pm.nextPc [] 7)) pm.begin = true) ∧
    stops (readFar [] (.direct32 0x100) (pm.opBytes [])) (State.begin { pm with ds := { pm.ds with limit := 0x104 } }) = true ∧
    (∀ call ∈ [false, true], runs (readFar [] (.direct32 0x100) (pm.opBytes [])) (State.begin { pm with mem := placeBytes pm.mem 0x100 [0, 0x10, 0, 0, 0x80, 0] }) (fun x v => stops (farTransfer call [] x.2 x.1 (pm.nextPc [] 6)) v) = true) ∧
    (∀ n ∈ [0, 0xFFFF], stops (returnFar [] n) (State.begin { pm with ss := { pm.ss with limit := 0x8006 } }) = true) :=
  by and_intros <;> decide

/-- The hypotheses of `Obligations.FarTransferRealMode` are met. -/
theorem witness_FarTransferRealMode :
    rm.protectedMode = false ∧
    v86.protectedMode = false ∧
    (0xFFFF : Word32).toNat ≤ rm.cs.limit.toNat ∧
    runs (probeFrame (rm.opBytes []) 2) rm (fun xs u => runs (writeSlots xs [rm.cs.sel.toNat, 0x7C05]) u done) = true ∧
    runs (readStack rm.sp (rm.opBytes [])) rm (fun x u => decide ((BitVec.ofNat 32 x).toNat ≤ rm.cs.limit.toNat) && runs (readStack (rm.sp + BitVec.ofNat 32 (rm.opBytes [])) 2) u done) = true ∧
    ({ rm.cs with limit := 0xFFFE } : SegState).limit.toNat < (0xFFFF : Word32).toNat ∧
    runs (readStack rm.sp (rm.opBytes [])) { rm with cs := { rm.cs with limit := 0xFFFE }, mem := placeBytes [] 0x7000 [0xFF, 0xFF] } (fun x u => decide (0xFFFE < (BitVec.ofNat 32 x).toNat) && runs (readStack (rm.sp + BitVec.ofNat 32 (rm.opBytes [])) 2) u done) = true :=
  by and_intros <;> decide

/-- The hypotheses of `Obligations.FarTransferDirect` are met. A null selector, a table where no page is, the first selector beyond it and one of no LDT, data, system segments that are no gate to follow; nonconforming and conforming segments at the level in force, with their jump and call; absent; a last offset and one beyond it; no room; both kinds refused. -/
theorem witness_FarTransferDirect :
    pm.protectedMode = true ∧
    isNull 8 = false ∧
    (∀ hi ∈ [0x00CF9B00, 0x00CF9F00], runs (needDescriptor 8 .gp false) { pm with mem := entry pm.mem 0x808 hi 0xFFFF } (fun d u => isCode (descAttr d) && descP d && decide (descDpl d = pm.cpl ∧ (rpl 8).toNat ≤ pm.cpl.toNat) && decide (0xFFFFFFFF ≤ (descLimit d).toNat) && runs (probeAccessed 8 d) u (fun a v => runs (commitAccessed a) v done)) = true) ∧
    (∀ hi ∈ [0x00CF9B00, 0x00CF9A00], runs (needDescriptor 8 .gp false) { pm with mem := entry pm.mem 0x808 hi 0xFFFF } (fun d u => runs (requireRoom (pm.opBytes []) 2) u (fun _ u2 => decide (u2 = u)) && runs (probeFrame (pm.opBytes []) 2) u (fun xs v => runs (probeAccessed 8 d) v (fun a w => runs (writeSlots xs [8, 0x3007]) w (fun _ y => runs (commitAccessed a) (y.setSp (spAfter pm.ss.attr.db (pm.reg .esp) (pm.opBytes []) 2)) done)))) = true) ∧
    (∀ hi ∈ [0x00CF1B00, 0x00CF1F00], runs (needDescriptor 8 .gp false) { pm with mem := entry pm.mem 0x808 hi 0xFFFF } (fun d _ => isCode (descAttr d) && !descP d && decide (descDpl d = pm.cpl)) = true) ∧
    (∀ hi ∈ [0x00409B00], runs (needDescriptor 8 .gp false) { pm with mem := entry pm.mem 0x808 hi 0xFFFF } (fun d u => isCode (descAttr d) && descP d && decide (descLimit d = 0xFFFF) && runs (requireRoom (pm.opBytes []) 2) u (fun _ u2 => decide (u2 = u))) = true) ∧
    runs (needDescriptor 8 .gp false) { pm with ss := { pm.ss with limit := 0x7FFE } } (fun d u => descP d && stops (requireRoom (pm.opBytes []) 2) u) = true ∧
    (∀ hi ∈ [0x00CFFB00, 0x00CFFF00], runs (needDescriptor 8 .gp false) { pm with mem := entry pm.mem 0x808 hi 0xFFFF } (fun d _ => isCode (descAttr d) && decide (pm.cpl.toNat < (descDpl d).toNat ∧ descDpl d ≠ pm.cpl)) = true) ∧
    isNull 3 = true ∧
    ((paged 0 0 0).protectedMode = true ∧ stops (readDescriptor 0x10) (paged 0 0 0) = true) ∧
    (isNull 4 = false ∧ isNull 0x80 = false ∧ runs (readDescriptor 0x80) pm (fun d _ => d.isNone) = true ∧ runs (readDescriptor 4) { pm with ldtr := { pm.ldtr with valid := false } } (fun d _ => d.isNone) = true) ∧
    (∀ hi ∈ [0x00CF9300, 0x00CF9700], runs (readDescriptor 0x10) { pm with mem := entry pm.mem 0x810 hi 0xFFFF } (fun d _ => decide (d = some ⟨0xFFFF, hi⟩)) = true ∧ descS (⟨0xFFFF, hi⟩ : Desc) = true ∧ isCode (descAttr (⟨0xFFFF, hi⟩ : Desc)) = false) ∧
    (∀ hi ∈ [0x00008000, 0x00008200, 0x00008600, 0x00008F00], runs (readDescriptor 0x10) { pm with mem := entry pm.mem 0x810 hi 0xFFFF } (fun d _ => decide (d = some ⟨0xFFFF, hi⟩)) = true ∧ descS (⟨0xFFFF, hi⟩ : Desc) = false ∧ (descType (⟨0xFFFF, hi⟩ : Desc)).toNat ∉ [1, 3, 4, 5, 9, 11, 12]) :=
  by and_intros <;> decide

/-- The hypotheses of `Obligations.CallGates` are met. From level 3: a gate of DPL 2, of DPL 3 absent; in it a null selector, one beyond the table, one in a table where no memory is, data, a segment of another level for a JMP, an absent one; a call to level 0; a conforming segment and one of level 3 by a gate of either size; a last offset and one beyond it; no room. From level 0: a gate of DPL 0 by an RPL of 3, a segment of level 3. -/
theorem witness_CallGates :
    ((gated 0 0 0).protectedMode = true ∧ pm.protectedMode = true) ∧
    isNull 0x33 = false ∧
    (runs (needDescriptor 0x33 .gp false) (gated 0x0000CC00 0x00085000 0x00CF9B00) (fun g _ => decide (descS g = false ∧ (descType g).toNat ∈ [4, 12]) && decide ((descDpl g).toNat < (gated 0 0 0).cpl.toNat)) = true) ∧
    (runs (needDescriptor 0x33 .gp false) { pm with mem := entry pm.mem 0x830 0x00008C00 0x00085000 } (fun g _ => decide (descS g = false ∧ (descType g).toNat ∈ [4, 12]) && decide ((descDpl g).toNat < (rpl 0x33).toNat ∧ pm.cpl.toNat ≤ (descDpl g).toNat)) = true) ∧
    (runs (needDescriptor 0x33 .gp false) (gated 0x00006C00 0x00085000 0x00CF9B00) (fun g _ => decide (descS g = false ∧ (descType g).toNat ∈ [4, 12]) && decide ((gated 0 0 0).cpl.toNat ≤ (descDpl g).toNat ∧ (rpl 0x33).toNat ≤ (descDpl g).toNat ∧ descP g = false)) = true) ∧
    (runs (needDescriptor 0x33 .gp false) (gated 0x0000EC00 0x00035000 0x00CF9B00) (fun g _ => decide (descS g = false ∧ (descType g).toNat ∈ [4, 12]) && descP g && isNull (gateSelector g)) = true) ∧
    (runs (needDescriptor 0x33 .gp false) (gated 0x0000EC00 0x00805000 0x00CF9B00) (fun g u => decide (descS g = false ∧ (descType g).toNat ∈ [4, 12]) && descP g && !isNull (gateSelector g) && runs (readDescriptor (gateSelector g)) u (fun o _ => o.isNone)) = true) ∧
    (runs (needDescriptor 0x33 .gp false) { gated 0x0000EC00 0x000C5000 0x00CF9B00 with params := { Params.baseline with physMap := [⟨0xA0000, 0x10, .nothing⟩] }, ldtr := { pm.ldtr with base := 0xA0000, limit := 0xF, valid := true } } (fun g u => decide (descS g = false ∧ (descType g).toNat ∈ [4, 12]) && descP g && !isNull (gateSelector g) && stops (readDescriptor (gateSelector g)) u) = true) ∧
    (runs (needDescriptor 0x33 .gp false) (gated 0x0000EC00 0x00085000 0x00CF9300) (fun g u => decide (descS g = false ∧ (descType g).toNat ∈ [4, 12]) && descP g && runs (readDescriptor (gateSelector g)) u (fun o _ => decide (o = some ⟨0xFFFF, 0x00CF9300⟩ ∧ isCode (descAttr ⟨0xFFFF, 0x00CF9300⟩) = false))) = true) ∧
    (runs (needDescriptor 0x33 .gp false) { pm with mem := entry (entry pm.mem 0x830 0x0000EC00 0x00085000) 0x808 0x00CFFB00 0xFFFF } (fun g u => decide (descS g = false ∧ (descType g).toNat ∈ [4, 12]) && decide ((descDpl g).toNat = 3) && descP g && runs (readDescriptor (gateSelector g)) u (fun o _ => match o with | none => false | some cd => isCode (descAttr cd) && decide (pm.cpl.toNat < (descDpl cd).toNat))) = true) ∧
    (runs (needDescriptor 0x33 .gp false) (gated 0x0000EC00 0x00085000 0x00CF9B00) (fun g u => decide (descS g = false ∧ (descType g).toNat ∈ [4, 12]) && decide ((descDpl g).toNat = 3) && descP g && runs (readDescriptor (gateSelector g)) u (fun o _ => match o with | none => false | some cd => isCode (descAttr cd) && decide (conforming (descAttr cd) = false ∧ descDpl cd ≠ (gated 0 0 0).cpl ∧ (descDpl cd).toNat < (gated 0 0 0).cpl.toNat ∧ descP cd = true))) = true) ∧
    (∀ hi ∈ [0x00CF1B00, 0x00CF1F00], runs (needDescriptor 0x33 .gp false) (gated 0x0000EC00 0x00085000 hi) (fun g u => decide (descS g = false ∧ (descType g).toNat ∈ [4, 12]) && decide ((descDpl g).toNat = 3) && descP g && runs (readDescriptor (gateSelector g)) u (fun o _ => match o with | none => false | some cd => isCode (descAttr cd) && decide ((descDpl cd).toNat ≤ (gated 0 0 0).cpl.toNat ∧ descP cd = false))) = true) ∧
    (∀ hi ∈ [0x00CF9E00, 0x00CFFB00], runs (needDescriptor 0x33 .gp false) (gated 0x0000EC00 0x00085000 hi) (fun g u => decide (descS g = false ∧ (descType g).toNat ∈ [4, 12]) && decide ((descDpl g).toNat = 3) && descP g && runs (readDescriptor (gateSelector g)) u (fun o v => match o with | none => false | some cd => isCode (descAttr cd) && decide (conforming (descAttr cd) = true ∨ descDpl cd = (gated 0 0 0).cpl) && decide (descP cd = true ∧ (gateOffset g).toNat ≤ (descLimit cd).toNat) && runs (probeAccessed 8 cd) v (fun a w => runs (commitAccessed a) w done) && runs (requireRoom (gateItem g) 2) v (fun _ v2 => decide (v2 = v)) && runs (probeFrame (gateItem g) 2) v (fun xs w => runs (probeAccessed 8 cd) w (fun a y => runs (writeSlots xs [0x1B, 0x3007]) y (fun _ z => runs (commitAccessed a) (z.setSp (spAfter user.ss.attr.db (user.reg .esp) (gateItem g) 2)) done))))) = true) ∧
    (runs (needDescriptor 0x33 .gp false) (gated 0x0000E400 0x0008FFFF 0x0040FB00) (fun g u => decide (descS g = false ∧ (descType g).toNat ∈ [4, 12]) && decide ((descDpl g).toNat = 3) && descP g && runs (readDescriptor (gateSelector g)) u (fun o v => match o with | none => false | some cd => isCode (descAttr cd) && decide (descDpl cd = (gated 0 0 0).cpl ∧ gateOffset g = descLimit cd) && decide (descP cd = true ∧ (gateOffset g).toNat ≤ (descLimit cd).toNat) && runs (probeAccessed 8 cd) v (fun a w => runs (commitAccessed a) w done) && runs (requireRoom (gateItem g) 2) v (fun _ v2 => decide (v2 = v)) && runs (probeFrame (gateItem g) 2) v (fun xs w => runs (probeAccessed 8 cd) w (fun a y => runs (writeSlots xs [0x1B, 0x3007]) y (fun _ z => runs (commitAccessed a) (z.setSp (spAfter user.ss.attr.db (user.reg .esp) (gateItem g) 2)) done))))) = true) ∧
    (runs (needDescriptor 0x33 .gp false) (gated 0x0001EC00 0x00080000 0x0040FB00) (fun g u => decide (descS g = false ∧ (descType g).toNat ∈ [4, 12]) && decide ((descDpl g).toNat = 3) && descP g && runs (readDescriptor (gateSelector g)) u (fun o v => match o with | none => false | some cd => isCode (descAttr cd) && decide (descP cd = true ∧ descDpl cd = (gated 0 0 0).cpl ∧ (descLimit cd).toNat < (gateOffset g).toNat) && runs (requireRoom (gateItem g) 2) v (fun _ v2 => decide (v2 = v)))) = true) ∧
    (runs (needDescriptor 0x33 .gp false) { gated 0x0000EC00 0x00085000 0x00CFFB00 with ss := { user.ss with limit := 0x7FFE } } (fun g u => decide (descS g = false ∧ (descType g).toNat ∈ [4, 12]) && decide ((descDpl g).toNat = 3) && descP g && runs (readDescriptor (gateSelector g)) u (fun o v => match o with | none => false | some cd => isCode (descAttr cd) && decide (descP cd = true ∧ descDpl cd = (gated 0 0 0).cpl) && stops (requireRoom (gateItem g) 2) v)) = true) ∧
    runs (interLevelCall ⟨0x00085000, 0x0000EC00⟩ 8 ⟨0xFFFF, 0x00CF9B00⟩ 0x3007) (withTss user) done = true :=
  by and_intros <;> decide

/-- The inter-level call of `Obligations.CallGates`: no task, a null stack segment, a stack that ends one byte short and at the last byte, an entry point at the limit and one beyond it, parameters that end at the last byte of the caller's stack and one beyond it. -/
theorem witness_CallGates_interLevel :
    stops (tssStack 0 false) user = true ∧
    runs (tssStack 0 false) { withTss user with mem := dword (withTss user).mem 0x6008 0 } (fun x u => stops (checkSs x.1 0 .ts false) u) = true ∧
    (∀ x ∈ [(0x8FFE, false), (0x8FFF, true)], runs (tssStack 0 false) { withTss user with mem := entry (withTss user).mem 0x810 0x00409300 x.1 } (fun y u => runs (checkSs y.1 0 .ts false) u (fun sd _ => (pushOffsets (descAttr sd).db (spOf (descAttr sd).db y.2) 4 4).all (fun off => inLimit ⟨y.1, descBase sd, descLimit sd, withAccessed (descAttr sd), true⟩ off 4) == x.2)) = true) ∧
    ((descLimit ⟨0x4FFF, 0x00409B00⟩).toNat < (gateOffset ⟨0x00085000, 0x0000EC00⟩).toNat ∧ (gateOffset ⟨0x00085000, 0x0000EC00⟩).toNat ≤ (descLimit ⟨0x5000, 0x00409B00⟩).toNat) ∧
    (gateCount ⟨0x00085000, 0x0000EC02⟩ = 2 ∧ stops (readParams 4 user.sp 2) { withTss user with ss := { user.ss with limit := 0x8006 } } = true ∧ runs (readParams 4 user.sp 2) { withTss user with ss := { user.ss with limit := 0x8007 } } done = true) :=
  by and_intros <;> decide

/-- Its writes: a new stack where no page is; descriptors that cannot be marked accessed, of the stack and of the code segment. -/
theorem witness_CallGates_interLevel_writes :
    runs (tssStack 0 false) (mapped [0, 6] true) (fun y u => runs (checkSs y.1 0 .ts false) u (fun sd v => stops (probePushes (segFrom y.1 sd) 4 false (pushOffsets (descAttr sd).db (spOf (descAttr sd).db y.2) 4 4)) v)) = true ∧
    runs (tssStack 0 false) { mapped [0, 6, 8] false with mem := entry (mapped [] true).mem 0x810 0x00CF9200 0xFFFF } (fun y u => runs (checkSs y.1 0 .ts false) u (fun sd v => runs (probePushes (segFrom y.1 sd) 4 false (pushOffsets (descAttr sd).db (spOf (descAttr sd).db y.2) 4 4)) v (fun _ w => stops (probeAccessed y.1 sd) w))) = true ∧
    runs (tssStack 0 false) (mapped [0, 6, 8] false) (fun y u => runs (checkSs y.1 0 .ts false) u (fun sd v => runs (probePushes (segFrom y.1 sd) 4 false (pushOffsets (descAttr sd).db (spOf (descAttr sd).db y.2) 4 4)) v (fun _ w => runs (probeAccessed y.1 sd) w (fun _ z => stops (probeAccessed 8 ⟨0xFFFF, 0x00CF9A00⟩) z)))) = true :=
  by and_intros <;> decide

/-- And it completes: with neither descriptor marked yet. -/
theorem witness_CallGates_interLevel_completes :
    runs (tssStack 0 false) { withTss user with mem := entry (withTss user).mem 0x810 0x00CF9200 0xFFFF } (fun y u => runs (checkSs y.1 0 .ts false) u (fun sd v => runs (probePushes (segFrom y.1 sd) 4 false (pushOffsets (descAttr sd).db (spOf (descAttr sd).db y.2) 4 4)) v (fun xs w => runs (probeAccessed y.1 sd) w (fun a z => runs (probeAccessed 8 ⟨0xFFFF, 0x00CF9A00⟩) z (fun a' t => runs (commitAccessed a) t (fun _ t1 => runs (writeSlots xs [0x23, 0x8000, 0x1B, 0x3007]) t1 (fun _ t2 => runs (commitAccessed a') (State.setSp { t2 with ss := segFrom y.1 sd } (spAfter (descAttr sd).db y.2 4 4)) (fun _ t3 => decide (t3.byteAt 0x815 = 0x93 ∧ t3.byteAt 0x80D = 0x9B))))))))) = true :=
  by decide

/-- The hypotheses of `Obligations.FarReturnProtected` are met. A return within level 0 and one from level 0 to level 3, and what each pops. The code segment: an RPL below CPL, null, a table where no page is, the first selector beyond it, code of either kind that suits, present and not, data, and code that does not suit. The stack segment: data that suits, present and not, and types and a DPL that do not. Its frames are those of the next two theorems. -/
theorem witness_FarReturnProtected :
    pm.protectedMode = true ∧
    runs (returnFar [] 0) { pm with mem := dword (dword pm.mem 0x8000 0x4000) 0x8004 8 } (fun _ t => decide (t.cpl = 0)) = true ∧
    runs (returnFar [] 0) { pm with mem := dword (dword (dword (dword user.mem 0x8000 0x4000) 0x8004 0x1B) 0x8008 0x7000) 0x800C 0x23 } (fun _ t => decide (t.cpl = 3)) = true ∧
    runs (readStack pm.sp (pm.opBytes [])) { pm with mem := dword (dword pm.mem 0x8000 0x4000) 0x8004 8 } (fun _ u => runs (readStack (pm.sp + BitVec.ofNat 32 (pm.opBytes [])) 2) u (fun c v => runs (returnCode (BitVec.ofNat 16 c)) v done)) = true ∧
    runs (readStack pm.sp (pm.opBytes [])) { pm with mem := dword (dword (dword (dword user.mem 0x8000 0x4000) 0x8004 0x1B) 0x8008 0x7000) 0x800C 0x23 } (fun _ u => runs (readStack (pm.sp + BitVec.ofNat 32 (pm.opBytes [])) 2) u (fun c v => runs (returnCode (BitVec.ofNat 16 c)) v (fun _ w => runs (readStack (spOf pm.ss.attr.db (pm.sp + BitVec.ofNat 32 (2 * pm.opBytes [] + 0))) (pm.opBytes [])) w (fun _ y => runs (readStack (spOf pm.ss.attr.db (pm.sp + BitVec.ofNat 32 (2 * pm.opBytes [] + 0)) + BitVec.ofNat 32 (pm.opBytes [])) 2) y done)))) = true ∧
    pm.op32 [] = true ∧
    ((rpl 0x18).toNat < user.cpl.toNat ∧ pm.cpl.toNat ≤ (rpl 0x1B).toNat) ∧
    (isNull 3 = true ∧ isNull 0x10 = false) ∧
    stops (readDescriptor 0x10) (paged 0 0 0) = true ∧
    runs (readDescriptor 0x83) pm (fun d _ => d.isNone) = true ∧
    (∀ hi ∈ [0x00CFFB00, 0x00CF9F00, 0x00CF7B00, 0x00CF1F00], runs (readDescriptor 0x13) { pm with mem := entry pm.mem 0x810 hi 0xFFFF } (fun d _ => decide (d = some ⟨0xFFFF, hi⟩)) = true ∧ isCode (descAttr (⟨0xFFFF, hi⟩ : Desc)) = true ∧ (if conforming (descAttr (⟨0xFFFF, hi⟩ : Desc)) then (descDpl (⟨0xFFFF, hi⟩ : Desc)).toNat ≤ (rpl 0x13).toNat else descDpl (⟨0xFFFF, hi⟩ : Desc) = rpl 0x13)) ∧
    (∀ hi ∈ [0x00CFF300, 0x00CF9B00, 0x00CFFF00], runs (readDescriptor 0x11) { pm with mem := entry pm.mem 0x810 hi 0xFFFF } (fun d _ => decide (d = some ⟨0xFFFF, hi⟩)) = true ∧ ¬(isCode (descAttr (⟨0xFFFF, hi⟩ : Desc)) = true ∧ (if conforming (descAttr (⟨0xFFFF, hi⟩ : Desc)) then (descDpl (⟨0xFFFF, hi⟩ : Desc)).toNat ≤ (rpl 0x11).toNat else descDpl (⟨0xFFFF, hi⟩ : Desc) = rpl 0x11))) ∧
    (descP (⟨0xFFFF, 0x00CFFB00⟩ : Desc) = true ∧ descP (⟨0xFFFF, 0x00CF7B00⟩ : Desc) = false) ∧
    (∀ hi ∈ [0x00CFF300, 0x00CF7200], runs (readDescriptor 0x13) { pm with mem := entry pm.mem 0x810 hi 0xFFFF } (fun d _ => decide (d = some ⟨0xFFFF, hi⟩)) = true ∧ rpl 0x13 = 3 ∧ writable (descAttr (⟨0xFFFF, hi⟩ : Desc)) = true ∧ descDpl (⟨0xFFFF, hi⟩ : Desc) = 3) ∧
    (∀ hi ∈ [0x00CFF100, 0x00CF9300, 0x00CFFB00], runs (readDescriptor 0x13) { pm with mem := entry pm.mem 0x810 hi 0xFFFF } (fun d _ => decide (d = some ⟨0xFFFF, hi⟩)) = true ∧ ¬(rpl 0x13 = 3 ∧ writable (descAttr (⟨0xFFFF, hi⟩ : Desc)) = true ∧ descDpl (⟨0xFFFF, hi⟩ : Desc) = 3)) :=
  by and_intros <;> decide

/-- The frame of `Obligations.FarReturnProtected`: at the last byte of the stack and one byte more; no memory at each item; a code segment that is refused; a target beyond the limit; an accessed byte that cannot be written. -/
theorem witness_FarReturnProtected_frame :
    (inLimit { pm.ss with limit := 0x8007 } pm.sp (2 * pm.opBytes []) = true ∧ inLimit { pm.ss with limit := 0x8006 } pm.sp (2 * pm.opBytes []) = false) ∧
    (stops (readStack pm.sp (pm.opBytes [])) { pm with params := { Params.baseline with physMap := [⟨0x8000, 4, .nothing⟩] } } = true) ∧
    (runs (readStack pm.sp (pm.opBytes [])) { pm with params := { Params.baseline with physMap := [⟨0x8004, 4, .nothing⟩] } } (fun _ u => stops (readStack (pm.sp + BitVec.ofNat 32 (pm.opBytes [])) 2) u) = true) ∧
    runs (readStack pm.sp (pm.opBytes [])) { pm with mem := dword (dword user.mem 0x8000 0x4000) 0x8004 0 } (fun _ u => runs (readStack (pm.sp + BitVec.ofNat 32 (pm.opBytes [])) 2) u (fun c v => stops (returnCode (BitVec.ofNat 16 c)) v)) = true ∧
    runs (readStack pm.sp (pm.opBytes [])) { pm with mem := dword (dword (entry pm.mem 0x808 0x00409B00 0xFFFF) 0x8000 0x10000) 0x8004 8 } (fun x u => runs (readStack (pm.sp + BitVec.ofNat 32 (pm.opBytes [])) 2) u (fun c v => runs (returnCode (BitVec.ofNat 16 c)) v (fun d _ => decide (rpl (BitVec.ofNat 16 c) = pm.cpl ∧ (descLimit d).toNat < (BitVec.ofNat 32 x).toNat)))) = true ∧
    runs (readStack 0x20 4) { recorded true with tlb := [⟨.k4, 0, 0x5000, true, false, true, false⟩], mem := dword (dword (entry [] 0x5808 0x00CF9A00 0xFFFF) 0x5020 0x4000) 0x5024 8 } (fun x u => runs (readStack (0x20 + BitVec.ofNat 32 4) 2) u (fun c v => runs (returnCode (BitVec.ofNat 16 c)) v (fun d w => decide (rpl (BitVec.ofNat 16 c) = pm.cpl ∧ (BitVec.ofNat 32 x).toNat ≤ (descLimit d).toNat) && stops (probeAccessed (BitVec.ofNat 16 c) d) w))) = true :=
  by and_intros <;> decide

/-- The frame of `Obligations.FarReturnProtected` for an outer level: at the last byte of the stack and one byte more; a null stack segment; a target beyond the limit; no memory at each of its items. -/
theorem witness_FarReturnProtected_outer :
    (inLimit { pm.ss with limit := 0x800F } (spOf pm.ss.attr.db (pm.sp + BitVec.ofNat 32 (2 * pm.opBytes [] + 0))) (2 * pm.opBytes []) = true ∧ inLimit { pm.ss with limit := 0x800E } (spOf pm.ss.attr.db (pm.sp + BitVec.ofNat 32 (2 * pm.opBytes [] + 0))) (2 * pm.opBytes []) = false) ∧
    runs (readStack pm.sp (pm.opBytes [])) { pm with mem := (dword (dword (dword (dword user.mem 0x8000 0x4000) 0x8004 0x1B) 0x8008 0x7000) 0x800C 0) } (fun _ u => runs (readStack (pm.sp + BitVec.ofNat 32 (pm.opBytes [])) 2) u (fun c v => runs (returnCode (BitVec.ofNat 16 c)) v (fun _ w => decide (rpl (BitVec.ofNat 16 c) ≠ pm.cpl) && runs (readStack (spOf pm.ss.attr.db (pm.sp + BitVec.ofNat 32 (2 * pm.opBytes [] + 0))) (pm.opBytes [])) w (fun _ y => runs (readStack ((spOf pm.ss.attr.db (pm.sp + BitVec.ofNat 32 (2 * pm.opBytes [] + 0))) + BitVec.ofNat 32 (pm.opBytes [])) 2) y (fun k z => stops (checkSs (BitVec.ofNat 16 k) (rpl (BitVec.ofNat 16 c)) .gp false) z))))) = true ∧
    runs (readStack pm.sp (pm.opBytes [])) { pm with mem := dword (dword (dword (dword (entry user.mem 0x818 0x0040FB00 0xFFFF) 0x8000 0x10000) 0x8004 0x1B) 0x8008 0x7000) 0x800C 0x23 } (fun x u => runs (readStack (pm.sp + BitVec.ofNat 32 (pm.opBytes [])) 2) u (fun c v => runs (returnCode (BitVec.ofNat 16 c)) v (fun d w => decide (rpl (BitVec.ofNat 16 c) ≠ pm.cpl ∧ (descLimit d).toNat < (BitVec.ofNat 32 x).toNat) && runs (readStack (spOf pm.ss.attr.db (pm.sp + BitVec.ofNat 32 (2 * pm.opBytes [] + 0))) (pm.opBytes [])) w (fun _ y => runs (readStack ((spOf pm.ss.attr.db (pm.sp + BitVec.ofNat 32 (2 * pm.opBytes [] + 0))) + BitVec.ofNat 32 (pm.opBytes [])) 2) y (fun k z => runs (checkSs (BitVec.ofNat 16 k) (rpl (BitVec.ofNat 16 c)) .gp false) z done))))) = true ∧
    (∀ a ∈ [0x8008, 0x800C], runs (readStack pm.sp (pm.opBytes [])) { pm with params := { Params.baseline with physMap := [⟨a, 4, .nothing⟩] }, mem := (dword (dword (dword (dword user.mem 0x8000 0x4000) 0x8004 0x1B) 0x8008 0x7000) 0x800C 0x23) } (fun _ u => runs (readStack (pm.sp + BitVec.ofNat 32 (pm.opBytes [])) 2) u (fun c v => runs (returnCode (BitVec.ofNat 16 c)) v (fun _ w => decide (rpl (BitVec.ofNat 16 c) ≠ pm.cpl) && (if a = 0x8008 then stops (readStack (spOf pm.ss.attr.db (pm.sp + BitVec.ofNat 32 (2 * pm.opBytes [] + 0))) (pm.opBytes [])) w else runs (readStack (spOf pm.ss.attr.db (pm.sp + BitVec.ofNat 32 (2 * pm.opBytes [] + 0))) (pm.opBytes [])) w (fun _ y => stops (readStack ((spOf pm.ss.attr.db (pm.sp + BitVec.ofNat 32 (2 * pm.opBytes [] + 0))) + BitVec.ofNat 32 (pm.opBytes [])) 2) y))))) = true) :=
  by and_intros <;> decide

/-- A far return of `Obligations.FarReturnProtected` completes: within level 0 and to level 3, to segments that are not yet marked accessed. -/
theorem witness_FarReturnProtected_completes :
    runs (readStack pm.sp (pm.opBytes [])) { pm with mem := dword (dword (entry pm.mem 0x808 0x00409A00 0x4000) 0x8000 0x4000) 0x8004 8 } (fun x u => runs (readStack (pm.sp + BitVec.ofNat 32 (pm.opBytes [])) 2) u (fun c v => runs (returnCode (BitVec.ofNat 16 c)) v (fun d w => decide (rpl (BitVec.ofNat 16 c) = pm.cpl ∧ (BitVec.ofNat 32 x).toNat ≤ (descLimit d).toNat) && runs (probeAccessed (BitVec.ofNat 16 c) d) w (fun a y => runs (commitAccessed a) (y.setSp (y.sp + BitVec.ofNat 32 (2 * pm.opBytes []))) done)))) = true ∧
    runs (readStack pm.sp (pm.opBytes [])) { pm with mem := dword (dword (dword (dword (entry (entry user.mem 0x818 0x00CFFA00 0xFFFF) 0x820 0x00CFF200 0xFFFF) 0x8000 0x4000) 0x8004 0x1B) 0x8008 0x7000) 0x800C 0x23 } (fun x u => runs (readStack (pm.sp + BitVec.ofNat 32 (pm.opBytes [])) 2) u (fun c v => runs (returnCode (BitVec.ofNat 16 c)) v (fun d w => decide (rpl (BitVec.ofNat 16 c) ≠ pm.cpl ∧ (BitVec.ofNat 32 x).toNat ≤ (descLimit d).toNat) && runs (readStack 0x8008 4) w (fun _ y => runs (readStack 0x800C 2) y (fun k z => runs (checkSs (BitVec.ofNat 16 k) 3 .gp false) z (fun sd t => runs (probeAccessed (BitVec.ofNat 16 c) d) t (fun a t1 => runs (probeAccessed (BitVec.ofNat 16 k) sd) t1 (fun a' t2 => runs (commitAccessed a) t2 (fun _ t3 => runs (commitAccessed a') { t3 with cs := segFrom (BitVec.ofNat 16 c) d } done))))))))) = true :=
  by and_intros <;> decide

/-- It stops at the mark of the code segment, and at that of the stack segment, where the table cannot be written: the frame is at 20H, in the table's page. -/
theorem witness_FarReturnProtected_marks :
    (∀ x ∈ [(0x00CFFA00, 0x00CFF300, false), (0x00CFFB00, 0x00CFF200, true)], runs (readStack 0x20 4) { pm with params := (mapped [] true).params, cr0 := 0x80010011, cr3 := 0x10000, tlb := (mapped [0] false).tlb, mem := dword (dword (dword (dword (entry (entry [] 0x818 x.1 0xFFFF) 0x820 x.2.1 0xFFFF) 0x20 0x4000) 0x24 0x1B) 0x28 0x7000) 0x2C 0x23 } (fun _ u => runs (returnCode 0x1B) u (fun d w => runs (readStack 0x2C 2) w (fun k z => runs (checkSs (BitVec.ofNat 16 k) 3 .gp false) z (fun sd t => if x.2.2 then runs (probeAccessed 0x1B d) t (fun _ t1 => stops (probeAccessed (BitVec.ofNat 16 k) sd) t1) else stops (probeAccessed 0x1B d) t)))) = true) :=
  by decide

/-- The hypotheses of `Obligations.PortInOut` are met. The first and the last port, and a refused access. -/
theorem witness_PortInOut :
    Prefixes.plain [] = true ∧
    Prefixes.has [.lock] .lock = true ∧
    runs (portAccess 0 1) rm.begin done = true ∧
    runs (portAccess 0xFFFF 1) rm.begin done = true ∧
    runs (portAccess 0xFFFC 4) pm.begin done = true ∧
    stops (portAccess 0x60 1) user.begin = true :=
  by and_intros <;> decide

/-- The hypotheses of `Obligations.PortPermission` are met. Real mode; level at IOPL; no TSS; a limit one short; a map byte beyond the limit; its last ports clear and set. -/
theorem witness_PortPermission :
    rm.pe = false ∧
    pm.protectedMode = true ∧
    pm.cpl.toNat ≤ pm.iopl.toNat ∧
    user.protectedMode = true ∧
    user.iopl.toNat < user.cpl.toNat ∧
    v86.v86 = true ∧
    user.tr.valid = false ∧
    (ioUser.tr.valid = true ∧ ioUser.tss32 = true ∧ 0x67 ≤ ioUser.tr.limit.toNat) ∧
    ({ ioUser.tr with limit := 0x66 } : SegState).limit.toNat < 0x67 ∧
    runs (linRead (ioUser.tr.base + 0x66) 2 Acc.supRead) ioUser (fun b u => decide (b + 7 / 8 + 1 ≤ ioUser.tr.limit.toNat) && runs (linRead (ioUser.tr.base + BitVec.ofNat 32 (b + 7 / 8)) 2 Acc.supRead) u (fun w _ => [0, 1, 2, 3].all (fun k => !w.testBit (7 % 8 + k)))) = true ∧
    runs (linRead (ioUser.tr.base + 0x66) 2 Acc.supRead) ioUser (fun b _ => decide (ioUser.tr.limit.toNat < b + 8 / 8 + 1)) = true ∧
    runs (linRead (ioUser.tr.base + 0x66) 2 Acc.supRead) { ioUser with mem := placeBytes ioUser.mem 0x6068 [0x80] } (fun b u => runs (linRead (ioUser.tr.base + BitVec.ofNat 32 b) 2 Acc.supRead) u (fun w _ => w.testBit 7)) = true :=
  by and_intros <;> decide

/-- The hypotheses of `Obligations.StringElements` are met. -/
theorem witness_StringElements :
    runs (portAccess pm.dx 1) pm (fun _ u => runs (memProbe .es (pm.addrReg [] .edi) 1 1 true) u (fun x w => x.isRam w) && runs (memRead (Prefixes.segOverride [] |>.getD .ds) (pm.addrReg [] .esi) 1 1) u done) = true ∧
    runs (portAccess pm.dx 2) pm (fun _ u => runs (memProbe .es (pm.addrReg [] .edi) 2 2 true) u (fun x w => x.isRam w) && runs (memRead (Prefixes.segOverride [] |>.getD .ds) (pm.addrReg [] .esi) 2 2) u done) = true ∧
    runs (portAccess pm.dx 4) pm (fun _ u => runs (memProbe .es (pm.addrReg [] .edi) 4 4 true) u (fun x w => x.isRam w) && runs (memRead (Prefixes.segOverride [] |>.getD .ds) (pm.addrReg [] .esi) 4 4) u done) = true :=
  by and_intros <;> decide

/-- The hypotheses of `Obligations.StringRepetition` are met. A count of 0, the last iteration and one before it. -/
theorem witness_StringRepetition :
    Prefixes.has [.rep] .lock = false ∧
    Prefixes.hasRep [] = false ∧
    Prefixes.hasRep [.repne] = true ∧
    pm.addrReg [.rep] .ecx = 0 ∧
    State.addrReg (pm.setReg .ecx 1) [.rep] .ecx ≠ 0 ∧
    State.addrReg (pm.setReg .ecx 2) [.rep] .ecx ≠ 0 ∧
    runs (insOnce [.rep] 1) (State.begin (pm.setReg .ecx 1)) done = true ∧
    runs (insOnce [.rep] 4) (State.begin (pm.setReg .ecx 1)) done = true ∧
    runs (outsOnce [.rep] 1) (State.begin (pm.setReg .ecx 1)) done = true ∧
    runs (outsOnce [.rep] 4) (State.begin (pm.setReg .ecx 1)) done = true ∧
    runs (insOnce [.rep] 1) (State.begin (pm.setReg .ecx 2)) done = true ∧
    runs (insOnce [.rep] 4) (State.begin (pm.setReg .ecx 2)) done = true ∧
    runs (outsOnce [.rep] 1) (State.begin (pm.setReg .ecx 2)) done = true ∧
    runs (outsOnce [.rep] 4) (State.begin (pm.setReg .ecx 2)) done = true :=
  by and_intros <;> decide

/-- The hypotheses of `Obligations.CliStiWriteIf` are met. -/
theorem witness_CliStiWriteIf :
    Prefixes.plain [] = true ∧
    Prefixes.has [.lock] .lock = true ∧
    rm.pe = false ∧
    (pm.pe = true ∧ pm.cpl.toNat ≤ pm.iopl.toNat) ∧
    (user.pe = true ∧ user.iopl.toNat < user.cpl.toNat) ∧
    (({ v86 with params := { Params.baseline with hasVME := true }, cr4 := 1, eflags := 0x20002 } : State).v86 = true ∧ bit ({ v86 with cr4 := 1 } : State).cr4 0 = true) ∧
    (user.protectedMode = true ∧ user.cpl = 3 ∧ bit ({ user with cr4 := 2 } : State).cr4 1 = true) ∧
    user.params.hasVME = false :=
  by and_intros <;> decide

/-- The hypotheses of `Obligations.PushfPopfFlags` are met. Images whose reserved bits are as they read, and images with bit 1 clear, with bit 15 or with bit 22 set where the implementation refuses them; a stack without a place for the item. -/
theorem witness_PushfPopfFlags :
    Prefixes.plain [] = true ∧
    (v86.v86 = true ∧ v86.iopl = 3) ∧
    (({ v86 with eflags := 0x00022002 } : State).v86 = true ∧ ({ v86 with eflags := 0x00022002 } : State).iopl ≠ 3) ∧
    pm.v86 = false ∧
    runs (memProbe .ss (spAfter pm.ss.attr.db (pm.reg .esp) (pm.opBytes []) 1) (pm.opBytes []) (pm.opBytes []) true) pm.begin (fun x u => x.isRam u) = true ∧
    runs (readStack user.sp (user.opBytes [])) user.begin done = true ∧
    fixEflags pm.params pm.eflags = pm.eflags ∧
    (admitsImage user.params (user.op32 []) 0 ∧ admitsImage (strict user).params ((strict user).op32 []) 0x203 ∧ admitsImage (strict rm).params ((strict rm).op32 []) 0xFFFF0002) ∧
    (runs (readStack rm.sp (rm.opBytes [])) (State.begin (strict { rm with mem := placeBytes [] 0x7000 [0, 0x70] })) (fun x _ => decide (x = 0x7000)) = true ∧ ¬admitsImage (strict rm).params ((strict rm).op32 []) (BitVec.ofNat 32 0x7000) ∧ ¬admitsImage (strict rm).params ((strict rm).op32 []) (BitVec.ofNat 32 0x8002) ∧ ¬admitsImage (strict user).params ((strict user).op32 []) (BitVec.ofNat 32 0x00400002)) ∧
    stops (memProbe .ss (spAfter rm.ss.attr.db 1 (rm.opBytes []) 1) (rm.opBytes []) (rm.opBytes []) true) (State.begin (rm.setReg .esp 1)) = true ∧
    stops (readStack 0xFFFF (rm.opBytes [])) (State.begin (rm.setReg .esp 0xFFFF)) = true :=
  by and_intros <;> first | decide | exact admitted (by decide) | exact notAdmitted (by decide)

/-- The hypotheses of `Obligations.InterruptInstructions` are met. Delivery in real-address mode; virtual-8086 mode; bounds 0 and 9 with the indexes 0, 9 and 10; an operand that ends at the last offset and one that begins a byte later. -/
theorem witness_InterruptInstructions :
    Prefixes.plain [] = true ∧
    segOk pm.protectedMode (pm.seg .ds) 0xFFFFFFF8 (2 * pm.opBytes []) false = true ∧
    segOk pm.protectedMode (pm.seg .ds) 0xFFFFFFF9 (2 * pm.opBytes []) false = false ∧
    (∀ n ∈ [0#8, 3, 4, 255], runs (deliver n true 0x7C02 none false) rm.begin done = true) ∧
    rm.v86 = false ∧
    (({ v86 with eflags := 0x00022002 } : State).v86 = true ∧ ({ v86 with eflags := 0x00022002 } : State).iopl ≠ 3) ∧
    ({ rm with eflags := 0x802 } : State).off = true ∧
    rm.off = false ∧
    runs (readMem [] (.direct32 0x5000) 0 (pm.opBytes []) (pm.opBytes [])) (State.begin { pm with mem := dword pm.mem 0x5004 9 }) (fun lo u => decide (lo = 0) && runs (readMem [] (.direct32 0x5000) (pm.opBytes []) (pm.opBytes []) (pm.opBytes [])) u (fun hi _ => decide (hi = 9))) = true ∧
    (∀ n ∈ [0#8, 3, 4, 255], stops (deliver n true 0x7C02 none false) (State.begin { rm with ss := { rm.ss with limit := 0x6FFE } }) = true) :=
  by and_intros <;> decide

/-- The hypotheses of `Obligations.InterruptReturn` are met. Real-address mode, virtual-8086 mode and protected mode; frames that reach the last byte of the stack and one byte more; targets at the limit and beyond it. -/
theorem witness_InterruptReturn :
    Prefixes.plain [] = true ∧
    runs (exceptionReturn (rm.op32 []) (rm.nextPc [] 1)) rm.begin done = true ∧
    stops (exceptionReturn (rm.op32 []) (rm.nextPc [] 1)) (State.begin { rm with ss := { rm.ss with limit := 0x7004 } }) = true ∧
    (({ v86 with eflags := 0x00022002 } : State).v86 = true ∧ ({ v86 with eflags := 0x00022002 } : State).iopl ≠ 3) ∧
    rm.pe = false ∧
    (v86.v86 = true ∧ v86.iopl = 3) ∧
    (pm.protectedMode = true ∧ pm.nt = false ∧ user.protectedMode = true ∧ user.nt = false) ∧
    inLimit { rm.ss with limit := 0x7005 } rm.sp (3 * rm.opBytes []) = true ∧
    inLimit { rm.ss with limit := 0x7004 } rm.sp (3 * rm.opBytes []) = false ∧
    (∀ s ∈ [rm, v86, pm, user], inLimit s.ss s.sp (3 * s.opBytes []) = true) ∧
    runs (readItems [(rm.sp, 2), (rm.sp + BitVec.ofNat 32 2, 2), (rm.sp + BitVec.ofNat 32 (2 * 2), 2)]) rm.begin (fun l _ => decide (l.length = 3) && decide ((BitVec.ofNat 32 l.head!).toNat ≤ rm.cs.limit.toNat)) = true ∧
    runs (readItems [(rm.sp, 2), (rm.sp + BitVec.ofNat 32 2, 2), (rm.sp + BitVec.ofNat 32 (2 * 2), 2)]) (State.begin { rm with cs := { rm.cs with limit := 0xFF }, mem := placeBytes [] 0x7000 [0, 1] }) (fun l _ => decide (l.length = 3) && decide (0xFF < (BitVec.ofNat 32 l.head!).toNat)) = true ∧
    (runs (readItems [(v86.sp, 4), (v86.sp + BitVec.ofNat 32 4, 2), (v86.sp + BitVec.ofNat 32 (2 * 4), 4)]) v86.begin (fun l _ => decide (l.length = 3) && decide ((BitVec.ofNat 32 l.head!).toNat ≤ v86.cs.limit.toNat)) = true ∧ v86.opBytes [] = 4 ∧ v86.op32 [] = true) ∧
    (runs (readItems [(pm.sp, 4), (pm.sp + BitVec.ofNat 32 4, 2), (pm.sp + BitVec.ofNat 32 (2 * 4), 4)]) (State.begin { pm with mem := dword pm.mem 0x8008 0x23202 }) (fun l _ => decide (l.length = 3 ∧ l.getLast! = 0x23202)) = true ∧ pm.op32 [] = true ∧ bit 0x23202 17 = true ∧ pm.cpl = 0) ∧
    (runs (readItems [(user.sp, 4), (user.sp + BitVec.ofNat 32 4, 2), (user.sp + BitVec.ofNat 32 (2 * 4), 4)]) user.begin (fun l _ => decide (l.length = 3)) = true ∧ user.cpl ≠ 0) ∧
    (admitsImage rm.params (rm.op32 []) 0 ∧ admitsImage (strict v86).params ((strict v86).op32 []) 2) ∧
    ((strict rm).pe = false ∧ ¬admitsImage (strict rm).params ((strict rm).op32 []) (BitVec.ofNat 32 0)) ∧
    ((strict v86).v86 = true ∧ (strict v86).iopl = 3 ∧ ¬admitsImage (strict v86).params ((strict v86).op32 []) (BitVec.ofNat 32 0x00400002)) :=
  by and_intros <;> first | decide | exact admitted (by decide) | exact notAdmitted (by decide)

/-- The hypotheses of `Obligations.InterruptReturnKeepsPrivilege` are met. A return within level 0, and one to level 3, to a stack of either size; code refused; targets at the limit and beyond it; an outer frame cut off, and one with a null SS; a segment that becomes null and one that stays; a return to virtual-8086 mode, and one whose frame is cut off. -/
theorem witness_InterruptReturnKeepsPrivilege :
    pm.protectedMode = true ∧
    runs (iretWithin true pm.sp 0x4000 8 0x202) pm (fun _ t => decide (t.cpl = 0)) = true ∧
    runs (iretWithin true pm.sp 0x4000 0x1B 0x202) { pm with mem := dword (dword user.mem 0x800C 0x7000) 0x8010 0x23 } (fun _ t => decide (t.cpl = 3)) = true ∧
    stops (returnCode 0) pm = true ∧
    (rpl 8 = pm.cpl ∧ rpl 0x1B ≠ pm.cpl ∧ pm.cpl = 0) ∧
    runs (returnCode 8) { pm with mem := entry pm.mem 0x808 0x00409A00 0xFFFF } (fun d u => decide (descLimit d = 0xFFFF) && runs (probeAccessed 8 d) u (fun a v => runs (commitAccessed a) (v.setSp (pm.sp + BitVec.ofNat 32 (3 * 4))) done)) = true ∧
    (inLimit pm.ss pm.sp (5 * 4) = true ∧ inLimit { pm.ss with limit := 0x8012 } pm.sp (5 * 4) = false) ∧
    runs (returnCode 0x1B) { pm with mem := dword (dword (entry (entry user.mem 0x818 0x0040FB00 0xFFFF) 0x820 0x00CFF300 0xFFFF) 0x800C 0x7000) 0x8010 0 } (fun _ u => runs (readItems [(pm.sp + BitVec.ofNat 32 (3 * 4), 4), (pm.sp + BitVec.ofNat 32 (4 * 4), 2)]) u (fun l v => decide (l.length = 2) && stops (checkSs (BitVec.ofNat 16 l.getLast!) (rpl 0x1B) .gp false) v)) = true ∧
    runs (returnCode 0x1B) { pm with mem := dword (dword (entry (entry user.mem 0x818 0x0040FB00 0xFFFF) 0x820 0x00CFF300 0xFFFF) 0x800C 0x7000) 0x8010 0x23 } (fun d u => runs (readItems [(pm.sp + BitVec.ofNat 32 (3 * 4), 4), (pm.sp + BitVec.ofNat 32 (4 * 4), 2)]) u (fun l v => decide (l.length = 2) && decide (descLimit d = 0xFFFF) && runs (checkSs (BitVec.ofNat 16 l.getLast!) (rpl 0x1B) .gp false) v (fun sd w => decide ((descAttr sd).db = true) && runs (commitOuter 0x1B d (BitVec.ofNat 16 l.getLast!) sd true (BitVec.ofNat 32 l.head!)) w done))) = true ∧
    runs (returnCode 0x1B) { pm with mem := dword (dword (entry (entry user.mem 0x818 0x0040FB00 0xFFFF) 0x820 0x0000F300 0xFFFF) 0x800C 0x7000) 0x8010 0x23 } (fun d u => runs (readItems [(pm.sp + BitVec.ofNat 32 (3 * 4), 4), (pm.sp + BitVec.ofNat 32 (4 * 4), 2)]) u (fun l v => decide (l.length = 2) && decide (descLimit d = 0xFFFF) && runs (checkSs (BitVec.ofNat 16 l.getLast!) (rpl 0x1B) .gp false) v (fun sd w => decide ((descAttr sd).db = false) && runs (commitOuter 0x1B d (BitVec.ofNat 16 l.getLast!) sd true (BitVec.ofNat 32 l.head!)) w done))) = true ∧
    (pm.ds.valid = true ∧ pm.ds.attr.dpl.toNat < (rpl 0x1B).toNat ∧ conforming pm.ds.attr = false) ∧
    ¬user.ds.attr.dpl.toNat < (rpl 0x1B).toNat ∧
    bit 0x23202 17 = true ∧
    (inLimit pm.ss pm.sp 36 = true ∧ inLimit { pm.ss with limit := 0x8022 } pm.sp 36 = false) ∧
    runs (readItems [(pm.sp + 12, 4), (pm.sp + 16, 2), (pm.sp + 20, 2), (pm.sp + 24, 2), (pm.sp + 28, 2), (pm.sp + 32, 2)]) pm (fun l _ => decide (l.length = 6)) = true ∧
    ((0xFFFF : Word32).toNat ≤ 0xFFFF ∧ 0xFFFF < (0x10000 : Word32).toNat) ∧
    (admitsImage pm.params true 0x202 ∧ admitsImage (strict pm).params true 0x23202 ∧ admitsImage (strict pm).params false 0xFFFF0202) ∧
    (∀ w ∈ [false, true], ¬admitsImage (strict pm).params w 0x200 ∧ ¬admitsImage (strict pm).params w 0x20A) ∧
    stops (iretWithin true pm.sp 0x4000 8 0x200) (strict pm) = true ∧
    stops (iretWithin true pm.sp 0x4000 0x1B 0x200) (strict { pm with mem := dword (dword user.mem 0x800C 0x7000) 0x8010 0x23 }) = true ∧
    stops (iretToV86 pm.sp 0x4000 8 0x23200) (strict pm) = true :=
  by and_intros <;> first | decide | exact admitted (by decide) | exact fun w _ => ⟨notAdmitted (by cases w <;> decide), notAdmitted (by cases w <;> decide)⟩

/-- The hypotheses of `Obligations.FpuControlInstructions` are met. -/
theorem witness_FpuControlInstructions :
    Prefixes.plain [] = true ∧
    pm.mp = false ∧
    pm.em = false ∧
    pm.ts = false ∧
    pm.fpu.status &&& ~~~pm.fpu.control &&& 0x3F = 0 :=
  by and_intros <;> decide

/-- The hypotheses of `Obligations.FpuStores` are met. -/
theorem witness_FpuStores :
    Prefixes.plain [] = true ∧
    pm.em = false ∧
    pm.ts = false ∧
    runs (memProbe (operandSeg [] (.direct32 0x1000)) (pm.ea (.direct32 0x1000)) 2 2 true) pm.begin (fun x u => x.isRam u) = true ∧
    (∀ n ∈ [envSize (pm.op32 []), envSize (pm.op32 []) + 80], runs (memProbe (operandSeg [] (.direct32 0x1000)) (pm.ea (.direct32 0x1000)) n (pm.opBytes []) true) { pm.begin with free := pm.begin.free + 5 } (fun x u => x.isRam u) = true) :=
  by and_intros <;> decide

/-- The hypotheses of `Obligations.FpuErrorReporting` are met. An unmasked error with NE set, with NE clear, and with IGNNE#; in each an operand that can be written, and one that cannot. -/
theorem witness_FpuErrorReporting :
    Prefixes.plain [] = true ∧
    ({ pm with cr0 := 0x15 } : State).em = true ∧
    (({ pm with cr0 := 0x1B } : State).mp = true ∧ ({ pm with cr0 := 0x1B } : State).ts = true) ∧
    (fpuError.em = false ∧ fpuError.ts = false ∧ fpuError.mp = false) ∧
    fpuError.fpu.status &&& ~~~fpuError.fpu.control &&& 0x3F ≠ 0 ∧
    (fpuError.ne = false ∧ fpuError.ignne = false) ∧
    ({ pm with cr0 := 0x31 } : State).ne = true ∧
    pm.fpu.status &&& ~~~pm.fpu.control &&& 0x3F = 0 ∧
    (({ fpuError with ignne := true } : State).ne = false ∧ ({ fpuError with ignne := true } : State).ignne = true) ∧
    ((∀ m ∈ [false, true], ({ fpuError with cr0 := 0x1B, ignne := m } : State).ts = true) ∧ ({ fpuError with cr0 := 0x19 } : State).mp = false) ∧
    (∀ s ∈ [fpuError, { fpuError with cr0 := 0x31 }, { fpuError with ignne := true }], s.em = false ∧ s.ts = false ∧ runs (memProbe (operandSeg [] (.direct32 0x1000)) (s.ea (.direct32 0x1000)) 2 2 true) s.begin (fun x u => x.isRam u) = true ∧ ∀ n ∈ [envSize (s.op32 []), envSize (s.op32 []) + 80], runs (memProbe (operandSeg [] (.direct32 0x1000)) (s.ea (.direct32 0x1000)) n (s.opBytes []) true) { s.begin with free := s.begin.free + 5 } (fun x u => x.isRam u) = true) ∧
    (∀ n ∈ [2, 28, 108], stops (memProbe (operandSeg [] (.direct32 0x1000)) 0x1000 n 2 true) { fpuError with ds := { fpuError.ds with limit := 0x1000 } } = true) :=
  by and_intros <;> decide

/-- The hypotheses of `Obligations.PrefixAndReservedRows` are met. The exceptions of both kinds enter their handlers. -/
theorem witness_PrefixAndReservedRows :
    runs (deliver 13 false rm.eip (some 0) true) (rollback rm rm.begin false) done = true ∧
    runs (deliver 6 false rm.eip none true) (rollback rm rm.begin false) done = true :=
  by and_intros <;> decide

/-- The hypotheses of `Obligations.InvalidOpcodeTraps` are met. -/
theorem witness_InvalidOpcodeTraps :
    Prefixes.plain [] = true ∧
    runs (deliver 6 false rm.eip none true) (rollback rm rm.begin false) done = true ∧
    rm.protectedMode = false ∧
    v86.protectedMode = false ∧
    Prefixes.has [.es, .lock] .lock = true ∧
    (Prefixes.has [.rep] .lock = false ∧ Prefixes.hasRep [.rep] = true) ∧
    Prefixes.hasRep [.repne] = true ∧
    pm.params.family ≠ .i386 ∧
    (Prefixes.has [.lock, .rep] .lock = true ∧ Prefixes.hasRep [.lock, .rep] = true) :=
  by and_intros <;> decide

/-- The hypotheses of `Obligations.PrivilegedTraps` are met. -/
theorem witness_PrivilegedTraps :
    Prefixes.plain [] = true ∧
    user.cpl ≠ 0 ∧
    user.protectedMode = true ∧
    user.params.family = .i486 ∧
    user.params.hasTestRegs = true ∧
    (({ user with params := { Params.baseline with hasCR4 := true } } : State).params.hasCR4 = true ∧ ({ user with params := { Params.baseline with hasCR4 := true } } : State).cpl ≠ 0) ∧
    (({ user with params := { Params.baseline with hasMSR := true, hasTSC := true, hasPMC := true }, cr4 := 4 } : State).params.hasMSR = true ∧ ({ user with params := { Params.baseline with hasMSR := true, hasTSC := true, hasPMC := true }, cr4 := 4 } : State).cr4Tsd = true ∧ ({ user with params := { Params.baseline with hasMSR := true, hasTSC := true, hasPMC := true }, cr4 := 4 } : State).cr4Pce = false) :=
  by and_intros <;> decide

/-- The hypotheses of `Obligations.FaultRestoresState` are met. -/
theorem witness_FaultRestoresState :
    runs (deliver 13 false rm.eip (some 0) true) (rollback rm rm.begin false) done = true ∧
    stops (memRead .ds 0xFFFF 2 2) rm = true ∧
    stops (memWrite .ss 0xFFFF 2 2 0) rm = true ∧
    stops (memWrite .ds 0xFFE 4 4 0) (paged 0x11003 0x5003 0) = true :=
  by and_intros <;> decide

/-- The hypotheses of `Obligations.GateDelivery` are met. The last vector of a table and the one beyond it; entries of each kind, and a call gate and a segment, which are none; DPL below CPL, and present or not; an entry that is read and one where no page is. In a gate: a null selector, one beyond the table, one in a table where no memory is, data, a segment of level 3 from level 0, an absent one; from virtual-8086 mode a 16-bit gate, a conforming segment and one of level 3; the same level. No room and a last offset exceeded, on either stack; no task; a null inner stack. -/
theorem witness_GateDelivery :
    (pm.idtr.limit.toNat < (16 : Byte).toNat * 8 + 7 ∧ (15 : Byte).toNat * 8 + 7 ≤ pm.idtr.limit.toNat ∧ (2 : Byte).toNat * 8 + 7 ≤ pm.idtr.limit.toNat) ∧
    (Params.baseline.idtOverrun = .gp ∧ ({ Params.baseline with idtOverrun := .shutdown } : Params).idtOverrun = .shutdown) ∧
    stops (linRead (pm.idtr.base + BitVec.ofNat 32 ((2 : Byte).toNat * 8)) 8 Acc.supRead) (paged 0 0 0) = true ∧
    (∀ hi ∈ [0x00008C00, 0x00009E00], runs (linRead (pm.idtr.base + BitVec.ofNat 32 ((2 : Byte).toNat * 8)) 8 Acc.supRead) { pm with mem := entry pm.mem 0x2010 hi 0x00085000 } (fun raw _ => !decide (raw / 2 ^ 40 % 32 ∈ [5, 6, 7, 14, 15])) = true) ∧
    (∀ hi ∈ [0x00008500, 0x00008600, 0x00008700, 0x00008E00, 0x00008F00], runs (linRead (pm.idtr.base + BitVec.ofNat 32 ((2 : Byte).toNat * 8)) 8 Acc.supRead) { pm with mem := entry pm.mem 0x2010 hi 0x00085000 } (fun raw _ => decide (raw / 2 ^ 40 % 32 ∈ [5, 6, 7, 14, 15]) && raw.testBit 47 && decide (pm.cpl.toNat ≤ raw / 2 ^ 45 % 4)) = true) ∧
    runs (linRead (user.idtr.base + BitVec.ofNat 32 ((2 : Byte).toNat * 8)) 8 Acc.supRead) { user with mem := entry user.mem 0x2010 0x0000CE00 0x00085000 } (fun raw _ => decide (raw / 2 ^ 40 % 32 ∈ [5, 6, 7, 14, 15]) && decide (raw / 2 ^ 45 % 4 < user.cpl.toNat)) = true ∧
    runs (linRead (user.idtr.base + BitVec.ofNat 32 ((2 : Byte).toNat * 8)) 8 Acc.supRead) { user with mem := entry user.mem 0x2010 0x00006E00 0x00085000 } (fun raw _ => decide (raw / 2 ^ 40 % 32 ∈ [5, 6, 7, 14, 15]) && !raw.testBit 47 && decide (user.cpl.toNat ≤ raw / 2 ^ 45 % 4)) = true ∧
    (pm.pe = true ∧ (withTss v86).pe = true) ∧
    stops (readIdtGate 16 false) pm = true ∧
    runs (readIdtGate 2 false) { pm with mem := entry pm.mem 0x2010 0x00008E00 0x00085000 } (fun g u => decide (descType g ≠ 5) && runs (deliverGate g true 0x3000 2 none) u done) = true ∧
    runs (readIdtGate 2 false) { pm with mem := entry pm.mem 0x2010 0x00008E00 0x00005000 } (fun g u => decide (descType g ≠ 5) && stops (deliverGate g true 0x3000 2 none) u) = true ∧
    (isNull (gateSelector ⟨0x00035000, 0x00008E00⟩) = true ∧ isNull (gateSelector ⟨0x00805000, 0x00008E00⟩) = false ∧ isNull (gateSelector ⟨0x000C5000, 0x00008E00⟩) = false ∧ isNull (gateSelector ⟨0x00085000, 0x00008E00⟩) = false) ∧
    runs (readDescriptor (gateSelector ⟨0x00805000, 0x00008E00⟩)) pm (fun o _ => o.isNone) = true ∧
    stops (readDescriptor (gateSelector ⟨0x000C5000, 0x00008E00⟩)) { pm with params := { Params.baseline with physMap := [⟨0xA0000, 0x10, .nothing⟩] }, ldtr := { pm.ldtr with base := 0xA0000, limit := 0xF, valid := true } } = true ∧
    runs (readDescriptor (gateSelector ⟨0x00085000, 0x00008E00⟩)) { pm with mem := entry pm.mem 0x808 0x00CF9300 0xFFFF } (fun o _ => match o with | none => false | some cd => !isCode (descAttr cd)) = true ∧
    runs (readDescriptor (gateSelector ⟨0x00085000, 0x00008E00⟩)) { pm with mem := entry pm.mem 0x808 0x00CFFB00 0xFFFF } (fun o _ => match o with | none => false | some cd => isCode (descAttr cd) && decide (pm.cpl.toNat < (descDpl cd).toNat)) = true ∧
    (∀ hi ∈ [0x00CF1B00, 0x00CF1F00], runs (readDescriptor (gateSelector ⟨0x00085000, 0x00008E00⟩)) { pm with mem := entry pm.mem 0x808 hi 0xFFFF } (fun o _ => match o with | none => false | some cd => isCode (descAttr cd) && !descP cd && decide ((descDpl cd).toNat ≤ pm.cpl.toNat)) = true) ∧
    (∀ hi ∈ [0x00CF9B00, 0x00CF9F00], runs (readDescriptor (gateSelector ⟨0x00085000, 0x00008E00⟩)) { pm with mem := entry pm.mem 0x808 hi 0xFFFF } (fun o _ => match o with | none => false | some cd => isCode (descAttr cd) && descP cd && decide (pm.vm = false ∧ descDpl cd = pm.cpl)) = true) ∧
    (runs (readDescriptor (gateSelector ⟨0x00085000, 0x00008E00⟩)) { user with mem := entry user.mem 0x808 0x00CF9F00 0xFFFF } (fun o _ => match o with | none => false | some cd => isCode (descAttr cd) && descP cd && decide (user.vm = false ∧ conforming (descAttr cd) = true ∧ (descDpl cd).toNat ≤ user.cpl.toNat)) = true) ∧
    (gate32 ⟨0x00085000, 0x00008600⟩ = false ∧ gate32 ⟨0x00085000, 0x00008E00⟩ = true ∧ v86.vm = true) ∧
    (runs (readDescriptor (gateSelector ⟨0x00085000, 0x00008E00⟩)) { v86 with mem := entry v86.mem 0x808 0x00CF9F00 0xFFFF } (fun o _ => match o with | none => false | some cd => isCode (descAttr cd) && descP cd && decide (conforming (descAttr cd) = true ∧ (descDpl cd).toNat ≤ v86.cpl.toNat)) = true) ∧
    (runs (readDescriptor (gateSelector ⟨0x00085000, 0x00008E00⟩)) { v86 with mem := entry v86.mem 0x808 0x00CFFB00 0xFFFF } (fun o _ => match o with | none => false | some cd => isCode (descAttr cd) && descP cd && decide (descDpl cd ≠ 0 ∧ (descDpl cd).toNat ≤ v86.cpl.toNat)) = true) ∧
    (pushOffsets pm.ss.attr.db pm.sp (gateItem ⟨0x00085000, 0x00008E00⟩) 3).all (fun off => segOk pm.protectedMode pm.ss off (gateItem ⟨0x00085000, 0x00008E00⟩) true) = true ∧
    (pushOffsets pm.ss.attr.db pm.sp (gateItem ⟨0x00085000, 0x00008E00⟩) 3).all (fun off => segOk pm.protectedMode { pm.ss with limit := 0x7FFE } off (gateItem ⟨0x00085000, 0x00008E00⟩) true) = false ∧
    (descLimit ⟨0xFFFF, 0x00409B00⟩).toNat < (gateOffset ⟨0x00080000, 0x00018E00⟩).toNat ∧
    stops (tssStack 0 true) pm = true ∧
    runs (tssStack 0 true) { withTss user with mem := dword (withTss user).mem 0x6008 0 } (fun x u => stops (checkSs x.1 0 .ts true) u) = true ∧
    runs (tssStack 0 true) (withTss user) (fun x u => runs (checkSs x.1 0 .ts true) u (fun sd _ => (pushOffsets (descAttr sd).db (spOf (descAttr sd).db x.2) 4 5).all (fun off => inLimit (segFrom x.1 sd) off 4))) = true ∧
    runs (tssStack 0 true) { withTss user with mem := entry (withTss user).mem 0x810 0x00409300 0x8FFE } (fun x u => runs (checkSs x.1 0 .ts true) u (fun sd _ => !(pushOffsets (descAttr sd).db (spOf (descAttr sd).db x.2) 4 5).all (fun off => inLimit (segFrom x.1 sd) off 4))) = true :=
  by and_intros <;> decide

/-- The stack of an inner level in `Obligations.GateDelivery`: no task; the last byte at the limit of a 32-bit and of a 16-bit TSS, and one beyond it; no page for the pointer, and none for the selector. -/
theorem witness_GateDelivery_tss :
    pm.tr.valid = false ∧
    ((withTss user).tr.attr.type.toNat ∈ [8, 9, 10, 11, 12, 13, 14, 15] ∧ tasks16.tr.valid = true) ∧
    (∀ x ∈ [(0, 11, true), (0, 10, false), (2, 27, true), (2, 26, false)], decide (4 + 8 * (BitVec.ofNat 2 x.1).toNat + 2 * 4 - 1 ≤ ({ (withTss user).tr with limit := BitVec.ofNat 32 x.2.1 } : SegState).limit.toNat) = x.2.2) ∧
    (∀ x ∈ [(0, 5, true), (0, 4, false), (2, 13, true), (2, 12, false)], decide (2 + 4 * (BitVec.ofNat 2 x.1).toNat + 2 * 2 - 1 ≤ ({ (withTss user).tr with limit := BitVec.ofNat 32 x.2.1 } : SegState).limit.toNat) = x.2.2) ∧
    stops (linRead ((withTss user).tr.base + BitVec.ofNat 32 4) 4 Acc.supRead) (mapped [0] true) = true ∧
    runs (linRead (0x5FF8 + BitVec.ofNat 32 4) 4 Acc.supRead) (mapped [5] true) (fun _ u => stops (linRead (0x5FF8 + BitVec.ofNat 32 8) 2 Acc.supRead) u) = true ∧
    runs (tssStack 0 false) (withTss user) (fun x _ => decide (x = (0x10, 0x9000))) = true ∧
    runs (tssStack 1 true) { withTss user with tr := { (withTss user).tr with attr := { (withTss user).tr.attr with type := 3 } }, mem := dword [] 0x6006 0x00107000 } (fun x _ => decide (x = (0x10, 0x7000))) = true :=
  by and_intros <;> decide

/-- The hypotheses of `Obligations.HandlerEntryFlags` are met. A delivery at the same level, to an inner level, and from virtual-8086 mode. -/
theorem witness_HandlerEntryFlags :
    pm.pe = true ∧
    runs (deliverGate ⟨0x00085000, 0x00008E00⟩ true 0x3000 2 none) pm done = true ∧
    runs (deliverGate ⟨0x00085000, 0x00008F00⟩ true 0x3000 2 (some 0)) (withTss user) done = true ∧
    runs (deliverGate ⟨0x00085000, 0x00008E00⟩ true 0x3000 0x23002 none) (withTss v86) done = true :=
  by and_intros <;> decide

/-- The hypotheses of `Obligations.SameStackFrame` are met. -/
theorem witness_SameStackFrame :
    pm.pg = false ∧
    pm.params.physMap = [] ∧
    Memory.wf pm.mem = true ∧
    marksAccessed pm.params ⟨0xFFFF, 0x00CF9B00⟩ = false ∧
    (∀ items ∈ [[2, 8, 0x3000], [2, 8, 0x3000, 0x18]], items.length ≤ 4 ∧ runs (deliverSameStack ⟨0x00085000, 0x00008E00⟩ ⟨0xFFFF, 0x00CF9B00⟩ true items) pm done = true) :=
  by and_intros <;> decide

/-- The hypotheses of `Obligations.StackSwitchFrame` are met. An event from level 3 and from virtual-8086 mode, each with nine or ten items; a call with two parameters. -/
theorem witness_StackSwitchFrame :
    pm.pg = false ∧
    pm.params.physMap = [] ∧
    (Memory.wf (withTss user).mem = true ∧ Memory.wf (withTss v86).mem = true) ∧
    marksAccessed pm.params ⟨0xFFFF, 0x00CF9300⟩ = false ∧
    ((withTss user).pe = true ∧ (withTss user).vm = false ∧ (withTss v86).vm = true) ∧
    gate32 ⟨0x00085000, 0x00008E00⟩ = true ∧
    runs (fetchCode (gateSelector ⟨0x00085000, 0x00008E00⟩) true) (withTss user) (fun cd _ => descP cd && !conforming (descAttr cd) && !marksAccessed pm.params cd && decide ((descDpl cd).toNat < (withTss user).cpl.toNat)) = true ∧
    runs (fetchCode (gateSelector ⟨0x00085000, 0x00008E00⟩) true) (withTss v86) (fun cd u => descP cd && !conforming (descAttr cd) && decide (descDpl cd = 0) && runs (deliverNewStack ⟨0x00085000, 0x00008E00⟩ cd 0 true (List.replicate 9 0)) u done) = true ∧
    runs (tssStack 0 true) (withTss user) (fun x u => runs (checkSs x.1 0 .ts true) u (fun sd _ => !marksAccessed pm.params sd)) = true ∧
    runs (deliverNewStack ⟨0x00085000, 0x00008E00⟩ ⟨0xFFFF, 0x00CF9B00⟩ 0 true (List.replicate 10 7)) (withTss user) done = true ∧
    runs (readParams (gateItem ⟨0x00085000, 0x0000EC02⟩) (withTss user).sp (gateCount ⟨0x00085000, 0x0000EC02⟩)) (withTss user) (fun l _ => decide (l.length = 2)) = true ∧
    runs (tssStack (descDpl ⟨0xFFFF, 0x00CF9B00⟩) false) (withTss user) (fun x u => runs (checkSs x.1 0 .ts false) u done) = true ∧
    runs (interLevelCall ⟨0x00085000, 0x0000EC02⟩ 8 ⟨0xFFFF, 0x00CF9B00⟩ 0x3007) (withTss user) done = true :=
  by and_intros <;> decide

/-- The hypotheses of `Obligations.RealModeDelivery` are met. The last vector of a whole table; a table that ends with vector 8, and one a byte shorter; stacks with room, one of which wraps around, and one without. -/
theorem witness_RealModeDelivery :
    rm.pe = false ∧
    rm.pg = false ∧
    rm.params.physMap = [] ∧
    Memory.wf rm.mem = true ∧
    (0xFF : Byte).toNat * 4 + 3 ≤ rm.idtr.limit.toNat ∧
    (pushOffsets rm.ss.attr.db rm.sp 2 3).all (fun o => inLimit rm.ss o 2) = true ∧
    (pushOffsets rm.ss.attr.db 0 2 3).all (fun o => inLimit rm.ss o 2) = true ∧
    (pushOffsets rm.ss.attr.db 5 2 3).all (fun o => inLimit rm.ss o 2) = false ∧
    (8 : Byte).toNat * 4 + 3 = 35 ∧
    ((34 : Word16).toNat < (8 : Byte).toNat * 4 + 3 ∧ (34 : Word16).toNat < 35) ∧
    ((35 : Word16).toNat < (9 : Byte).toNat * 4 + 3 ∧ 35 ≤ (35 : Word16).toNat) ∧
    runs (deliver 9 false 0x7C00 none false) { rm with idtr := ⟨0, 35⟩, mem := placeBytes [] 0x20 [0x34, 0x12] } (fun _ t => decide (t.eip = 0x1234)) = true ∧
    stops (deliver 8 false 0x7C00 none false) { rm with idtr := ⟨0, 34⟩ } = true :=
  by and_intros <;> decide

/-- The hypotheses of `Obligations.DoubleFaultAndShutdown` are met. -/
theorem witness_DoubleFaultAndShutdown :
    (throw (.exn ⟨.np, some 0x6B, false⟩) : M Bool) pm = .error (.exn ⟨.np, some 0x6B, false⟩) pm ∧
    Exc.gp ≠ .df ∧
    (Exc.np ∈ [Exc.de, .ts, .np, .ss, .gp] ∧ Exc.gp ∈ [Exc.de, .ts, .np, .ss, .gp]) ∧
    Exc.pf ∉ [Exc.de, .ts, .np, .ss, .gp] :=
  by and_intros <;> first | rfl | decide

/-- The hypotheses of `Obligations.TaskSwitchResult` are met. By a far transfer: to an available TSS, to a busy one, to one named by an RPL above its DPL, to one in an LDT; through a task gate, an absent one, one named by an RPL above its DPL. By an event through a task gate in the IDT. By IRET with NT: with no task, with a TSS of one byte, to a busy task and to one that is not. By taskSwitch of every kind. -/
theorem witness_TaskSwitchResult :
    (pm.protectedMode = true ∧ (tasks 0).protectedMode = true) ∧
    (isNull 0x30 = false ∧ isNull 0x33 = false ∧ isNull 0x38 = false) ∧
    (∀ k ∈ [SwitchKind.jmp, .call], runs (needDescriptor 0x30 .gp false) (tasks 0x00008900) (fun d u => decide (descS d = false ∧ (descType d).toNat ∈ [1, 3, 9, 11] ∧ (tasks 0).cpl.toNat ≤ (descDpl d).toNat ∧ (rpl 0x30).toNat ≤ (descDpl d).toNat) && runs (taskSwitch k 0x30 0x3007 false false none) u done) = true) ∧
    (∀ k ∈ [SwitchKind.jmp, .call], runs (needDescriptor 0x30 .gp false) (tasks 0x00008B00) (fun d u => decide (descS d = false ∧ (descType d).toNat ∈ [1, 3, 9, 11] ∧ (tasks 0).cpl.toNat ≤ (descDpl d).toNat ∧ (rpl 0x30).toNat ≤ (descDpl d).toNat) && stops (taskSwitch k 0x30 0x3007 false false none) u) = true) ∧
    (runs (needDescriptor 0x33 .gp false) (tasks 0x00008900) (fun d _ => decide (descS d = false ∧ (descDpl d).toNat < (rpl 0x33).toNat)) = true) ∧
    (runs (needDescriptor 0x34 .gp false) { tasks 0x00008900 with ldtr := { pm.ldtr with base := 0x800, limit := 0x7F, valid := true } } (fun d _ => decide (descS d = false ∧ (descType d).toNat ∈ [1, 3, 9, 11] ∧ selTi 0x34 = true)) = true) ∧
    runs (needDescriptor 0x3B .gp false) { tasks 0x00008900 with mem := entry (tasks 0x00008900).mem 0x838 0x00008500 0x00300000 } (fun d _ => descS d == false && decide (descType d = 5) && decide ((descDpl d).toNat < (rpl 0x3B).toNat)) = true ∧
    runs (needDescriptor 0x38 .gp false) { tasks 0x00008900 with mem := entry (tasks 0x00008900).mem 0x838 0x00000500 0x00300000 } (fun d _ => descS d == false && decide (descType d = 5) && !descP d) = true ∧
    runs (needDescriptor 0x38 .gp false) { tasks 0x00008900 with mem := entry (tasks 0x00008900).mem 0x838 0x00008500 0x00300000 } (fun d u => descS d == false && decide (descType d = 5) && descP d && runs (taskSwitch .call (gateSelector d) 0x3007 false false none) u done) = true ∧
    runs (readIdtGate 1 false) { tasks 0x00008900 with mem := entry (tasks 0x00008900).mem 0x2008 0x00008500 0x00300000 } (fun d u => decide (descType d = 5) && runs (taskSwitch .int (gateSelector d) 0x3000 true true none) u done) = true ∧
    runs (readIdtGate 1 false) { tasks 0x00008B00 with mem := entry (tasks 0x00008B00).mem 0x2008 0x00008500 0x00300000 } (fun d u => decide (descType d = 5) && stops (taskSwitch .int (gateSelector d) 0x3000 true true none) u) = true ∧
    ({ tasks 0 with eflags := 0x4002, mem := dword (tasks 0).mem 0x6000 0x30 } : State).nt = true ∧
    ({ pm.tr with valid := false } : SegState).valid = false ∧
    (({ (tasks 0).tr with limit := 0 } : SegState).limit.toNat < 1 ∧ 1 ≤ (tasks 0).tr.limit.toNat) ∧
    runs (linRead (tasks 0).tr.base 2 Acc.supRead) { tasks 0x00008B00 with eflags := 0x4002, mem := dword (tasks 0x00008B00).mem 0x6000 0x30 } (fun link u => runs (taskSwitch .iret (BitVec.ofNat 16 link) 0x3001 false false none) u done) = true ∧
    runs (linRead (tasks 0).tr.base 2 Acc.supRead) { tasks 0x00008900 with eflags := 0x4002, mem := dword (tasks 0x00008900).mem 0x6000 0x30 } (fun link u => stops (taskSwitch .iret (BitVec.ofNat 16 link) 0x3001 false false none) u) = true ∧
    (∀ k ∈ [SwitchKind.jmp, .call, .int], runs (taskSwitch k 0x30 0x3007 false false none) (tasks 0x00008900) done = true) ∧
    runs (taskSwitch .iret 0x30 0x3007 false false none) (tasks 0x00008B00) done = true ∧
    SwitchKind.nest .call = true :=
  by and_intros <;> decide

/-- What `fetchTss` refuses, in `Obligations.TaskSwitchResult`: the last entry of the GDT and the one beyond it, a table where no page
is, descriptors of no TSS and of every type of one, absent ones, and limits one below the least and at it. -/
theorem witness_TaskSwitchResult_fetch :
    (isNull 3 = true ∧ isNull 0x30 = false ∧ selTi 0x34 = true ∧ selTi 0x30 = false) ∧
    (0x36 < selIndex 0x30 * 8 + 7 ∧ selIndex 0x30 * 8 + 7 ≤ 0x37) ∧
    stops (readDescriptor 0x30) (paged 0 0 0) = true ∧
    (∀ hi ∈ [0x00009200, 0x00008200, 0x00000900, 0x00008100, 0x00008300, 0x00008900, 0x00008B00], runs (readDescriptor 0x30) (tasks hi) (fun d _ => decide (d = some ⟨0x70000067, BitVec.ofNat 32 hi⟩)) = true) ∧
    ((descS ⟨0, 0x00009200⟩ = true ∧ (descType ⟨0, 0x00008200⟩).toNat = 2) ∧ descP ⟨0, 0x00000900⟩ = false) ∧
    (∀ x ∈ [(0x00008100, 1), (0x00008300, 3), (0x00008900, 9), (0x00008B00, 11)], (descType ⟨0, x.1⟩).toNat = x.2) ∧
    ((descLimit ⟨0x70000066, 0x00008900⟩).toNat < 0x67 ∧ 0x67 ≤ (descLimit ⟨0x70000067, 0x00008900⟩).toNat) ∧
    ((descLimit ⟨0x7000002A, 0x00008100⟩).toNat < 0x2B ∧ 0x2B ≤ (descLimit ⟨0x7000002B, 0x00008100⟩).toNat) :=
  by and_intros <;> decide

/-- What a switch is refused for after that: no current task, a limit of the current TSS one below the least and at it, of either
format, a current TSS outside the GDT, a new TSS where no page is. -/
theorem witness_TaskSwitchResult_plan :
    (∀ k ∈ [SwitchKind.jmp, .call, .int], runs (fetchTss 0x30 k false) (tasks 0x00008900) done = true) ∧
    runs (fetchTss 0x30 .iret false) (tasks 0x00008B00) done = true ∧
    stops (fetchTss 0x30 .jmp false) (tasks 0x00008B00) = true ∧
    runs (fetchTss 0x30 .jmp false) { tasks 0x00008900 with tr := { (tasks 0).tr with valid := false } } done = true ∧
    (∀ x ∈ [(0x5C, false), (0x5D, true)], runs (fetchTss 0x30 .call false) { tasks 0x00008900 with tr := { (tasks 0).tr with limit := BitVec.ofNat 32 x.1 } } (fun _ u => decide (0x5D ≤ u.tr.limit.toNat) == x.2) = true) ∧
    (∀ x ∈ [(0x28, false), (0x29, true)], runs (fetchTss 0x30 .call false) { tasks 0x00008900 with tr := { (tasks 0).tr with limit := BitVec.ofNat 32 x.1, attr := { (tasks 0).tr.attr with type := 3 } } } (fun _ u => decide (0x29 ≤ u.tr.limit.toNat) == x.2) = true) ∧
    (∀ x ∈ [(0x46, false), (0x47, true)], runs (fetchTss 0x30 .jmp false) { tasks 0x00008900 with tr := { (tasks 0).tr with sel := 0x40 }, gdtr := ⟨0x800, BitVec.ofNat 16 x.1⟩ } (fun _ u => decide (selIndex u.tr.sel * 8 + 7 ≤ u.gdtr.limit.toNat) == x.2) = true) ∧
    runs (fetchTss 0x30 .call false) { mapped [0, 6] true with mem := (tasks 0x00008900).mem } (fun d u => stops (resolvePlan .call 0x30 d) u) = true ∧
    runs (fetchTss 0x30 .call false) (tasks 0x00008900) (fun d u => runs (resolvePlan .call 0x30 d) u done) = true :=
  by and_intros <;> decide

/-- The page-directory-pointer table of the new task has a reserved bit set. -/
theorem witness_TaskSwitchResult_pdpt :
    runs (fetchTss 0x30 .call false) { mapped [0, 6, 7] true with params := { Params.baseline with tlbPolicy := .ideal, hasPAE := true, hasCR4 := true }, cr4 := 0x20, mem := placeBytes (dword (tasks 0x00008900).mem 0x701C 0x9000) 0x9000 (bytesOf 8 7) } (fun d u => runs (resolvePlan .call 0x30 d) u (fun plan v => decide (gate32 d = true ∧ v.pg = true ∧ v.cr4Pae = true) && runs (pdptOk plan.cr3new) v (fun b _ => !b))) = true :=
  by decide

/-- The loaders of a new task's segments: selectors that are null, of an LDT or outside the table, a table where no page is; the
descriptors of an LDT and of something else, absent ones; code, stack and data segments that suit and that do not. -/
theorem witness_TaskSwitchResult_loaders :
    (isNull 0 = true ∧ selTi 0x14 = true ∧ pm.gdtr.limit.toNat < selIndex 0x80 * 8 + 7) ∧
    (∀ hi ∈ [0x00009200, 0x00008300, 0x00000200, 0x00008200], runs (readDescriptor 0x30) (tasks hi) (fun d _ => decide (d = some ⟨0x70000067, BitVec.ofNat 32 hi⟩)) = true) ∧
    stops (readDescriptor 0x30) (paged 0 0 0) = true ∧
    runs (readDescriptor 0x80) pm (fun d _ => decide (d = none)) = true ∧
    (∀ hi ∈ [0x00009200, 0x0000FA00, 0x0000FE00, 0x00001A00, 0x00009A00], runs (readDescriptor 0x30) (tasks hi) (fun d _ => decide (d = some ⟨0x70000067, BitVec.ofNat 32 hi⟩)) = true) ∧
    (isCode (descAttr ⟨0, 0x00009200⟩) = false ∧ descDpl ⟨0, 0x0000FA00⟩ ≠ 0 ∧ conforming (descAttr ⟨0, 0x0000FE00⟩) = true ∧ ¬(descDpl ⟨0, 0x0000FE00⟩).toNat ≤ 0 ∧ descP ⟨0, 0x00001A00⟩ = false) ∧
    runs (probeAccessed 0x30 ⟨0x70000067, 0x00009A00⟩) (tasks 0x00009A00) (fun a v => runs (commitAccessed a) v (fun _ w => decide (w.byteAt 0x835 = 0x9B))) = true ∧
    (stops (checkSs 0 0 .ts false) pm = true ∧ runs (checkSs 0x10 0 .ts false) pm (fun d u => runs (probeAccessed 0x10 d) u (fun a v => runs (commitAccessed a) v done)) = true) ∧
    (readable (descAttr ⟨0, 0x00009800⟩) = false ∧ readable (descAttr ⟨0, 0x00009200⟩) = true ∧ (rpl 0x33).toNat = 3 ∧ (descDpl ⟨0, 0x00009200⟩).toNat = 0 ∧ descP ⟨0, 0x00001200⟩ = false) ∧
    (runs (loadTaskLdt false) (tasks 0) done = true ∧ (tasks 0).vm = false ∧ ({ tasks 0 with eflags := 0x00020002 } : State).vm = true) ∧
    stops (loadTaskLdt false) { tasks 0 with ldtr := { (tasks 0).ldtr with sel := 0x30 } } = true :=
  by and_intros <;> decide

/-- The hypotheses of `Obligations.TaskSwitchImages` are met. To an available 32-bit TSS and to a 16-bit one, to a virtual-8086 task, with an error code, by IRET to a busy one, into the busy one again, and where CR3 is loaded. -/
theorem witness_TaskSwitchImages :
    ((tasks 0x00008900).pg = false ∧ (tasks 0x00008900).params.physMap = []) ∧
    (Memory.wf (tasks 0x00008900).mem = true ∧ Memory.wf { tasks 0x00008900 with mem := dword (tasks 0x00008900).mem 0x7024 0x00020002 }.mem = true ∧ Memory.wf tasks16.mem = true) ∧
    (∀ k ∈ [SwitchKind.jmp, .call], runs (fetchTss 0x30 k false) (tasks 0x00008900) (fun nd _ => gate32 nd) = true ∧ runs (taskSwitch k 0x30 0x3007 false true none) (tasks 0x00008900) done = true) ∧
    (∀ k ∈ [SwitchKind.iret, .again], runs (fetchTss 0x30 k false) (tasks 0x00008B00) (fun nd _ => gate32 nd) = true ∧ runs (taskSwitch k 0x30 0x3007 false true none) (tasks 0x00008B00) (fun _ t => !t.vm) = true) ∧
    (runs (fetchTss 0x30 .int false) (tasks 0x00008900) (fun nd _ => gate32 nd) = true ∧ runs (taskSwitch .int 0x30 0x3007 false true (some 0x6B)) (tasks 0x00008900) done = true) ∧
    (runs (fetchTss 0x30 .int false) tasks16 (fun nd _ => !gate32 nd) = true ∧ runs (taskSwitch .int 0x30 0x3007 false true none) tasks16 done = true) ∧
    (runs (fetchTss 0x30 .call false) { tasks 0x00008900 with mem := dword (tasks 0x00008900).mem 0x7024 0x00020002 } (fun nd _ => gate32 nd) = true ∧ runs (taskSwitch .call 0x30 0x3007 false true none) { tasks 0x00008900 with mem := dword (tasks 0x00008900).mem 0x7024 0x00020002 } (fun _ t => t.vm) = true) ∧
    (runs (fetchTss 0x30 .call false) { tasks 0x00008900 with params := { Params.baseline with taskCr3IfPg := false } } (fun nd _ => gate32 nd) = true ∧ runs (taskSwitch .call 0x30 0x3007 false true none) { tasks 0x00008900 with params := { Params.baseline with taskCr3IfPg := false } } done = true) ∧
    runs (taskSwitch .call 0x30 0x3007 false true none) (strict (tasks 0x00008900)) done = true :=
  by and_intros <;> decide

/-- The completion clauses of `Obligations.TaskSwitchImages`: the current TSS suits, at its least limit; images that are refused and
admitted; a CS that is null, an EIP beyond it, a stack with room for the error code to its last byte and one short of it. -/
theorem witness_TaskSwitchImages_completes :
    ((tasks 0).tr.valid = true ∧ (tasks 0).tss32 = true ∧ 0x5D ≤ (tasks 0).tr.limit.toNat ∧ selIndex (tasks 0).tr.sel * 8 + 7 ≤ (tasks 0).gdtr.limit.toNat) ∧
    stops (taskSwitch .call 0x30 0x3007 false true none) (strict { tasks 0x00008900 with mem := dword (tasks 0x00008900).mem 0x7024 0 }) = true ∧
    stops (taskSwitch .call 0x30 0x3007 false true none) { tasks 0x00008900 with mem := dword (tasks 0x00008900).mem 0x704C 0 } = true ∧
    stops (taskSwitch .call 0x30 0x3007 false true none) { tasks 0x00008900 with mem := entry (tasks 0x00008900).mem 0x808 0x00409B00 0x3FFF } = true ∧
    runs (taskSwitch .call 0x30 0x3007 false true none) { tasks 0x00008900 with mem := entry (tasks 0x00008900).mem 0x808 0x00409B00 0x4000 } done = true ∧
    stops (taskSwitch .int 0x30 0x3007 false true (some 0x6B)) { tasks 0x00008900 with mem := entry (dword (tasks 0x00008900).mem 0x7038 0x8000) 0x810 0x00409300 0x7FFE } = true ∧
    runs (taskSwitch .int 0x30 0x3007 false true (some 0x6B)) { tasks 0x00008900 with mem := entry (dword (tasks 0x00008900).mem 0x7038 0x8000) 0x810 0x00409300 0x7FFF } done = true :=
  by and_intros <;> decide

/-- The hypotheses of `Obligations.MemoryAccessUnpaged` are met. Within and beyond the limit, aligned and not; an expand-down segment of either size and an expand-up one at the first and the last offsets within and beyond them; the types of data and code; a null register. -/
theorem witness_MemoryAccessUnpaged :
    pm.pg = false ∧
    pm.params.physMap = [] ∧
    Memory.wf pm.mem = true ∧
    segOk rm.protectedMode (rm.seg .ds) 0xFFFF 2 false = false ∧
    segOk rm.protectedMode (rm.seg .ss) 0xFFFE 2 true = true ∧
    segOk pm.protectedMode (pm.seg .ds) 0xFFFFFFFC 4 false = true ∧
    segOk pm.protectedMode (pm.seg .cs) 0 1 true = false ∧
    (segOk user.protectedMode (user.seg .ds) 2 4 true = true ∧ ((user.seg .ds).base + 2).toNat % 4 ≠ 0) ∧
    ({ user with cr0 := 0x60040011, eflags := 0x40002 } : State).acEnabled = true ∧
    pm.acEnabled = false ∧
    (inLimit (⟨0x10, 0, 0xFFF, ⟨7, true, 0, true, false, true, false⟩, true⟩ : SegState) 0x1000 1 = true ∧ inLimit (⟨0x10, 0, 0xFFF, ⟨7, true, 0, true, false, true, false⟩, true⟩ : SegState) 0xFFF 1 = false ∧ inLimit (⟨0x10, 0, 0xFFF, ⟨7, true, 0, true, false, true, false⟩, true⟩ : SegState) 0xFFFFFFFC 4 = true ∧ inLimit (⟨0x10, 0, 0xFFF, ⟨7, true, 0, true, false, true, false⟩, true⟩ : SegState) 0xFFFFFFFD 4 = false) ∧
    (inLimit (⟨0x10, 0, 0xFFF, ⟨7, true, 0, true, false, false, false⟩, true⟩ : SegState) 0xFFFE 2 = true ∧ inLimit (⟨0x10, 0, 0xFFF, ⟨7, true, 0, true, false, false, false⟩, true⟩ : SegState) 0xFFFF 2 = false) ∧
    (inLimit { flatSeg 0x10 3 0 with limit := 0xFFF } 0xFFE 2 = true ∧ inLimit { flatSeg 0x10 3 0 with limit := 0xFFF } 0xFFF 2 = false) ∧
    (∀ t ∈ [(1, true, false), (3, true, true), (9, false, false), (11, true, false)], segOk true (flatSeg 0x10 t.1 0) 0 4 false = t.2.1 ∧ segOk true (flatSeg 0x10 t.1 0) 0 4 true = t.2.2) ∧
    (segOk true { flatSeg 0x10 3 0 with valid := false } 0 4 false = false ∧ segOk false { flatSeg 0x10 3 0 with valid := false } 0 4 true = true) :=
  by and_intros <;> decide

/-- The segments of operands in `Obligations.MemoryAccessUnpaged`: an override that another one follows; none; the bases of the stack and others. -/
theorem witness_MemoryAccessUnpaged_segments :
    ([Prefix.es, .fs, .opSize] = [Prefix.es] ++ Prefix.fs :: [.opSize] ∧ operandSeg [.es, .fs, .opSize] (.based32 .ebp (.d8 0)) = .fs) ∧
    (∀ m ∈ [MemOp.based16 .bp (.d8 0), .based16 .bpsi .none, .based16 .bpdi .none, .based32 .ebp (.d8 0), .sib 0 .eax .ebp (.d8 0), .sib 0 .eax .esp .none], operandSeg [.opSize] m = .ss) ∧
    (∀ m ∈ [MemOp.direct16 0, .based16 .bx .none, .based16 .bxsi .none, .based16 .si .none, .direct32 0, .based32 .eax .none, .sib 0 .ebp .eax .none, .sibNoBase 0 .ebp 0], operandSeg [] m = .ds) :=
  by and_intros <;> decide

/-- The hypotheses of `Obligations.EffectiveAddresses` are met: mod other than 3, every kind of rm, a SIB byte; and sums that wrap around, at either width. -/
theorem witness_EffectiveAddresses :
    ((0 : BitVec 2) ≠ 3 ∧ (1 : BitVec 2) ≠ 3 ∧ (2 : BitVec 2) ≠ 3 ∧ (5 : BitVec 3) ≠ 4 ∧ (0 : BitVec 3) ≠ 4) ∧
    (0xC8 : Byte) = (3 : BitVec 2) ++ (1 : BitVec 3) ++ (0 : BitVec 3) ∧
    State.ea (pm.setReg .ebx 1) (.based32 .ebx (.d8 0xFE)) = 0xFFFFFFFF ∧
    State.ea (State.setReg (pm.setReg .ebx 0xFFFF) .esi 2) (.based16 .bxsi .none) = 1 ∧
    State.ea (State.setReg (pm.setReg .eax 0x10) .ecx 0x20000001) (.sib 3 .ecx .eax (.d8 0)) = 0x18 ∧
    State.ea (pm.setReg .eax 0x10) (.sib 3 .esp .eax .none) = 0x10 ∧
    readRm true 0x44 [0xC8, 0x05, 0, 0, 0, 0x99] = some (.mem (.sib 3 .ecx .eax (.d8 5)), [0, 0, 0, 0x99]) :=
  by and_intros <;> decide

/-- The cases of `Obligations.Breakpoints`. The table of R674, of which the last breakpoint alone is enabled; a kind and a length that never match; an instruction breakpoint, and with RF. -/
theorem witness_Breakpoints :
    (watched.dataBp 0xA0001 1 false).dbPending = ⟨true, false, false, false, false, false, false⟩ ∧
    (watched.dataBp 0xA0002 1 false).dbPending = ⟨false, true, false, false, false, false, false⟩ ∧
    (watched.dataBp 0xA0001 2 false).dbPending = ⟨true, true, false, false, false, false, false⟩ ∧
    (watched.dataBp 0xA0002 2 false).dbPending = ⟨false, true, false, false, false, false, false⟩ ∧
    (watched.dataBp 0xB0002 2 false).dbPending = ⟨false, false, true, false, false, false, false⟩ ∧
    (watched.dataBp 0xB0001 4 false).dbPending = ⟨false, false, true, false, false, false, false⟩ ∧
    (watched.dataBp 0xC0000 4 false).dbPending = ⟨false, false, false, true, true, false, false⟩ ∧
    (watched.dataBp 0xC0001 2 false).dbPending = ⟨false, false, false, true, true, false, false⟩ ∧
    (watched.dataBp 0xC0003 1 false).dbPending = ⟨false, false, false, true, true, false, false⟩ ∧
    (watched.dataBp 0xA0000 1 false).dbPending = ⟨false, false, false, false, false, false, false⟩ ∧
    (watched.dataBp 0xA0003 4 false).dbPending = ⟨false, false, false, false, false, false, false⟩ ∧
    (watched.dataBp 0xB0000 2 false).dbPending = ⟨false, false, false, false, false, false, false⟩ ∧
    (watched.dataBp 0xC0004 4 false).dbPending = ⟨false, false, false, false, false, false, false⟩ ∧
    (State.dataBp { watched with dr7 := 0x00020003 } 0xA0001 1 true).dbPending = DbPending.none ∧
    (State.dataBp { watched with dr7 := 0x000B0003 } 0xA0001 1 true).dbPending = DbPending.none ∧
    (State.dataBp { watched with dr7 := 0x00000003 } 0xA0001 1 true).dbPending = DbPending.none ∧
    ((State.dataBp { watched with dr7 := 0x00010003 } 0xA0001 1 true).dbPending.enabledHit = true ∧ (State.dataBp { watched with dr7 := 0x00010003 } 0xA0001 1 false).dbPending = DbPending.none) ∧
    (codeBpFires { pm with dr0 := 0x3000, dr7 := 2 } = true ∧ codeBpFires { pm with dr0 := 0x3000, dr7 := 2, eflags := 0x10002 } = false ∧ codeBpMatch { pm with dr7 := 0x00040002 } 0 0x3000 = false) :=
  by and_intros <;> decide

/-- The hypotheses of `Obligations.PageWalk` are met. 32-bit entries: an absent table; reserved bits in the entry of a table and of a large page; rights refused at each level; a large page; an absent page, reserved bits in its entry, a page. The same with 64-bit entries. -/
theorem witness_PageWalk :
    ((paged 0 0 0).params.physMap = [] ∧ (pagedPae 0 0 0).params.physMap = []) ∧
    ((paged 0 0 0).entry ((paged 0 0 0).dirAddr32 0x123) 4).testBit 0 = false ∧
    ((paged 0x1083 0 0).large32 0x123 = true ∧ ((paged 0x1083 0 0).entry ((paged 0x1083 0 0).dirAddr32 0x123) 4).testBit 12 = true) ∧
    (∀ x ∈ [(0x800, false), (0x1000, true), (0x200000, true), (0x400000, false)], pde4mRsvd Params.baseline x.1 = x.2) ∧
    (∀ x ∈ [(0x10000, false), (0x20000, true), (0x200000, true), (0x400000, false)], pde4mRsvd { Params.baseline with hasPSE36 := true } x.1 = x.2) ∧
    ((paged 0x11107 0 0).large32 0x123 = false ∧ (paged 0x11107 0 0).cr4Pse = true ∧ (paged 0x11107 0 0).params.hasPGE = false ∧ ((paged 0x11107 0 0).entry ((paged 0x11107 0 0).dirAddr32 0x123) 4).testBit 8 = true) ∧
    ((paged 0 0 0).wp = true ∧ rightsRefused true false ⟨true, true⟩ true = true ∧ rightsRefused false true ⟨true, false⟩ true = true ∧ rightsRefused true false Acc.supWrite true = true ∧ rightsRefused false false Acc.supRead true = false) ∧
    runs (walk32 0x123 ⟨true, true⟩) (paged 0x400087 0 0) (fun x t => decide (x.phys = 0x400123) && decide (t = paged 0x400087 0 0)) = true ∧
    stops (walk32 0x123 ⟨true, false⟩) (paged 0x11007 0 0) = true ∧
    (stops (walk32 0x123 ⟨true, false⟩) (paged 0x11007 0x5107 0) = true ∧ (0x5107 : Nat).testBit 8 = true) ∧
    stops (walk32 0x123 ⟨true, true⟩) (paged 0x11007 0x5005 0) = true ∧
    runs (walk32 0x123 ⟨true, true⟩) (paged 0x11007 0x5007 0) (fun x _ => decide (x.phys = 0x5123)) = true ∧
    (∀ x ∈ [(2 ^ 35, false), (2 ^ 36, true), (2 ^ 63, true), (0x1080, false), (0x2080, true), (0x100080, true), (0x200080, false), (0x2000, false)], pdePaeRsvd Params.baseline x.1 = x.2) ∧
    ((pagedPae 0 0 0).pointerPae 0x123).testBit 0 = false ∧
    stops (walkPae 0x123 ⟨true, true⟩) (pagedPae 0x10001 0 0) = true ∧
    stops (walkPae 0x123 ⟨true, true⟩) (pagedPae 0x10001 0x1000000007 0) = true ∧
    stops (walkPae 0x123 ⟨true, true⟩) (pagedPae 0x10001 0x11005 0x5007) = true ∧
    stops (walkPae 0x123 ⟨true, true⟩) (pagedPae 0x10001 0x11007 0) = true ∧
    stops (walkPae 0x123 ⟨true, true⟩) (pagedPae 0x10001 0x11007 0x1000005007) = true ∧
    stops (walkPae 0x123 ⟨true, true⟩) (pagedPae 0x10001 0x11007 0x5005) = true ∧
    runs (walkPae 0x123 ⟨true, true⟩) (pagedPae 0x10001 0x200087 0) (fun x t => decide (x.phys = 0x200123) && decide (t = pagedPae 0x10001 0x200087 0)) = true ∧
    runs (walkPae 0x123 ⟨true, true⟩) (pagedPae 0x10001 0x11007 0x5007) (fun x _ => decide (x.phys = 0x5123)) = true :=
  by and_intros <;> decide

/-- The hypotheses of `Obligations.PagedAccess` are met. A page and a large page of both formats, the last bytes of a page; an access that spans two pages, both present or the second absent; with TLB_POLICY ideal, the one recorded translation of a page, which admits the access, and one that does not. -/
theorem witness_PagedAccess :
    (paged 0x11007 0x5007 0).pg = true ∧
    (paged 0x11007 0x5007 0).params.physMap = [] ∧
    (Memory.wf (paged 0x11007 0x5007 0).mem = true ∧ Memory.wf (pagedPae 0x10001 0x11007 0x5007).mem = true) ∧
    (paged 0x11007 0x5007 0).tlb = [] ∧
    (0xFFC : Word32).toNat % 4096 + 4 ≤ 4096 ∧
    ((paged 0x11007 0x5007 0).cr4Pae = false ∧ (pagedPae 0 0 0).cr4Pae = true ∧ (pagedPae 0 0 0).pg = true) ∧
    runs (walk32 0xFFC ⟨true, true⟩) (paged 0x11007 0x5007 0) (fun _ t => decide (t = (paged 0x11007 0x5007 0))) = true ∧
    runs (walk32 0xFFC ⟨true, true⟩) (paged 0x400087 0 0) (fun _ t => decide (t = (paged 0x400087 0 0))) = true ∧
    runs (walkPae 0xFFC ⟨true, true⟩) (pagedPae 0x10001 0x11007 0x5007) (fun _ t => decide (t = (pagedPae 0x10001 0x11007 0x5007))) = true ∧
    runs (walkPae 0xFFC ⟨true, true⟩) (pagedPae 0x10001 0x200087 0) (fun _ t => decide (t = (pagedPae 0x10001 0x200087 0))) = true ∧
    runs (walk32 0xFFC ⟨true, false⟩) (paged 0x11007 0x5007 0) (fun _ t => decide (t = (paged 0x11007 0x5007 0))) = true ∧
    runs (walk32 0xFFC ⟨true, false⟩) (paged 0x400087 0 0) (fun _ t => decide (t = (paged 0x400087 0 0))) = true ∧
    runs (walkPae 0xFFC ⟨true, false⟩) (pagedPae 0x10001 0x11007 0x5007) (fun _ t => decide (t = (pagedPae 0x10001 0x11007 0x5007))) = true ∧
    runs (walkPae 0xFFC ⟨true, false⟩) (pagedPae 0x10001 0x200087 0) (fun _ t => decide (t = (pagedPae 0x10001 0x200087 0))) = true ∧
    runs (translate 0xFFE ⟨true, true⟩) (paged 0x11007 0x5007 0x7007) (fun x u => runs (translate 0x1000 ⟨true, true⟩) u (fun y v => runs (commitXlat x) v (fun _ t => runs (commitXlat y) t done))) = true ∧
    runs (translate 0xFFE ⟨true, true⟩) (paged 0x11007 0x5007 0) (fun _ u => stops (translate 0x1000 ⟨true, true⟩) u) = true ∧
    ((recorded true).pg = true ∧ (recorded true).params.physMap = [] ∧ Memory.wf (recorded true).mem = true ∧ (recorded true).params.tlbPolicy = .ideal ∧ (recorded true).tlb = [⟨.k4, 0, 0x5000, true, true, true, false⟩] ∧ covers ⟨.k4, 0, 0x5000, true, true, true, false⟩ 0x123 = true ∧ rightsRefused true true ⟨true, true⟩ true = !true) ∧
    ((recorded false).pg = true ∧ (recorded false).params.physMap = [] ∧ Memory.wf (recorded false).mem = true ∧ (recorded false).params.tlbPolicy = .ideal ∧ (recorded false).tlb = [⟨.k4, 0, 0x5000, false, true, true, false⟩] ∧ covers ⟨.k4, 0, 0x5000, false, true, true, false⟩ 0x123 = true ∧ rightsRefused false true ⟨true, true⟩ true = !false) ∧
    (runs (translate 0x123 ⟨true, true⟩) (recorded true) done = true ∧ stops (translate 0x123 ⟨true, true⟩) (recorded false) = true) :=
  by and_intros <;> decide

/-- The hypotheses of `Obligations.StepRunsDecoded` are met. -/
theorem witness_StepRunsDecoded :
    ready.quiet = true ∧
    runs fetchInstr ready (fun o _ => o.isSome) = true ∧
    ready.pg = false ∧
    ready.params.physMap = [] ∧
    (∀ k, k < 2 → decode ready.cs.attr.db (ready.codeBytes k) = .more) ∧
    decode ready.cs.attr.db (ready.codeBytes 2) = .instr (.clts []) [] ∧
    ready.eip.toNat + 2 - 1 ≤ ready.cs.limit.toNat :=
  by and_intros <;> decide

/-- The hypotheses of `Obligations.DecodeEncode` are met. -/
theorem witness_DecodeEncode :
    Instr.wf true (.movToSeg [.es] 3 (.mem (.sibNoBase 3 .edx 0x12345678))) = true ∧
    isPrefixRow (.movToSeg [.es] 3 (.mem (.sibNoBase 3 .edx 0x12345678))) = false :=
  by and_intros <;> decide

/-- The hypotheses of `Obligations.ResetState` are met. -/
theorem witness_ResetState :
    ({ pm with resetLine := true } : State).resetLine = true :=
  by decide

/-- The hypotheses of `Obligations.BoundaryPriority` are met. Among them a task-switch trap of the debug handler's own task, and one of another. -/
theorem witness_BoundaryPriority :
    pm.run = .running ∧
    pm.resetLine = false ∧
    pm.nmiEdge = false ∧
    ({ pm with inhibitSs := true } : State).inhibitSs = true ∧
    pm.inhibitSs = false ∧
    ({ DbPending.none with bs := true } : DbPending).bs = true ∧
    (pm.dbPending.bs = false ∧ pm.dbPending.bt = false ∧ pm.dbPending.enabledHit = false) ∧
    (ownTrap.dbPending.bt = true ∧ ownTrap.pe = true) ∧
    runs (readIdtGate 1 false) ownTrap (fun g _ => decide (descType g = 5) && !selTi (gateSelector g) && decide (selIndex (gateSelector g) = selIndex ownTrap.tr.sel)) = true ∧
    runs (readIdtGate 1 false) { ownTrap with tr := { ownTrap.tr with sel := 0x30 } } (fun g _ => decide (selIndex (gateSelector g) ≠ 6)) = true ∧
    codeBpFires { pm with dr0 := 0x3000, dr7 := 2, inhibitSti := false, dbPending := DbPending.none } = true ∧
    codeBpFires { pm with inhibitSti := false, dbPending := DbPending.none } = false ∧
    (({ pm with nmiPending := true } : State).nmiPending = true ∧ pm.nmiBlocked = false) ∧
    (({ pm with eflags := 0x202, intr := some 0x20 } : State).ifl = true ∧ ({ pm with intr := some 0x20 } : State).intr = some 0x20) ∧
    pm.ifl = false ∧
    (pm.params.hasTSC = false ∧ withMsr.params.hasTSC = true) ∧
    ((State.begin { pm with eflags := 0x102 }).dbPending.bs = true ∧ pm.begin.dbPending.bs = false) ∧
    (∀ b ∈ [false, true], ({ pm with nmiEdge := true, nmiBlocked := b } : State).nmiEdge = true) :=
  by and_intros <;> decide

/-- The hypotheses of `Obligations.WaitingStates` are met. -/
theorem witness_WaitingStates :
    pm.resetLine = false ∧
    pm.nmiEdge = false ∧
    ({ pm with run := .halted, dbPending := { DbPending.none with bt := true } } : State).dbPending.bt = true ∧
    (ownTrap.ownDebugTask = true ∧ pm.ownDebugTask = false) ∧
    (pm.dbPending.bs = false ∧ pm.dbPending.bt = false ∧ pm.dbPending.enabledHit = false) ∧
    (∀ r ∈ [Run.halted, .shutdown], ({ pm with run := r } : State).run = .halted ∨ ({ pm with run := r } : State).run = .shutdown) ∧
    (({ fpuError with run := .fpFrozen } : State).run = .fpFrozen ∧ fpuError.fpu.status &&& ~~~fpuError.fpu.control &&& 0x3F ≠ 0 ∧ fpuError.ignne = false) ∧
    (({ pm with nmiPending := true } : State).nmiPending = true ∧ pm.nmiBlocked = false) ∧
    pm.nmiPending = false ∧
    (({ pm with eflags := 0x202, intr := some 0x20 } : State).ifl = true ∧ ({ pm with eflags := 0x202, intr := some 0x20 } : State).intr = some 0x20) ∧
    pm.intr = none ∧
    pm.params.hasTSC = false ∧
    withMsr.params.hasTSC = true ∧
    ({ pm with nmiEdge := true, run := .halted } : State).nmiEdge = true ∧
    (({ pm with run := .fpFrozen } : State).run = .fpFrozen ∧ pm.fpu.status &&& ~~~pm.fpu.control &&& 0x3F = 0) ∧
    (({ fpuError with run := .fpFrozen, ignne := true } : State).run = .fpFrozen ∧ ({ fpuError with run := .fpFrozen, ignne := true } : State).ignne = true) :=
  by and_intros <;> decide

/-- In `Obligations.PrefixAndReservedRows`, LGDT cut off in its displacement is invalid after a LOCK prefix and eleven others. -/
theorem witness_PrefixAndReservedRows_invalid : ∀ k < 8, ∃ j rest,
    decodeBody rm.cs.attr.db (.lock :: List.replicate 11 .es) ([0x0F, 0x01, 0x16] ++ BitVec.ofNat 8 (8 * k) ::
      List.replicate 12 0) = .instr j rest ∧ undefinedForm rm (Prefixes.has (.lock :: List.replicate 11 .es) .lock) j = true := by
  intro k hk
  interval_cases k <;> exact ⟨_, _, rfl, rfl⟩

/-- After twelve other prefixes it is not. -/
theorem witness_PrefixAndReservedRows_valid : ¬∀ k < 8, ∃ j rest,
    decodeBody rm.cs.attr.db (.es :: List.replicate 11 .es) ([0x0F, 0x01, 0x16] ++ BitVec.ofNat 8 (8 * k) ::
      List.replicate 12 0) = .instr j rest ∧ undefinedForm rm (Prefixes.has (.es :: List.replicate 11 .es) .lock) j = true := by
  intro h
  obtain ⟨j, rest, hj, hu⟩ := h 0 (by decide)
  have hd : decodeBody rm.cs.attr.db (.es :: List.replicate 11 .es) ([0x0F, 0x01, 0x16] ++ BitVec.ofNat 8 (8 * 0) ::
    List.replicate 12 0) = .instr (.lgdt (.es :: List.replicate 11 .es) (.mem (.direct16 0))) (List.replicate 11 0) := by decide
  rw [hd] at hj
  injection hj with hj
  subst hj
  exact absurd hu (by decide)

/-- The hypotheses of `Obligations.StepKeepsInvariant` are met: a state with the invariant from which a step leads on. -/
theorem witness_StepKeepsInvariant :
    ready.Inv ∧ next (step ready) (fun _ => true) = true := by
  refine ⟨?_, by decide⟩
  constructor <;> decide

end Sys2Proof.Tests
end

section
/-! Every operation an instruction is made of keeps the parameters and the invariant, whether it completes or not: one lemma for
each, in the order of the model's files. -/

namespace Sys2Proof.Machine

open Sys2Proof

section rules
variable {α β : Type}

/-- An optional step, and then the rest whether or not it was made. -/
theorem keeps_when {c : Prop} [Decidable c] {x : M Unit} {k : Unit → M β} (hx : Keeps x) (hk : ∀ u, Keeps (k u)) :
    Keeps (if c then x >>= k else k ()) :=
  keeps_ite (keeps_bind hx hk) (hk ())

/-- A step that is left out where the condition holds, and then the rest. -/
theorem keeps_unless {c : Prop} [Decidable c] {x : M Unit} {k : Unit → M β} (hx : Keeps x) (hk : ∀ u, Keeps (k u)) :
    Keeps (if c then k () else x >>= k) :=
  keeps_ite (hk ()) (keeps_bind hx hk)

/-- One of two steps, and then the rest. -/
theorem keeps_either {c : Prop} [Decidable c] {x y : M α} {k : α → M β} (hx : Keeps x) (hy : Keeps y)
    (hk : ∀ a, Keeps (k a)) : Keeps (if c then x >>= k else y >>= k) :=
  keeps_ite (keeps_bind hx hk) (keeps_bind hy hk)

/-- The operation is sound from one state, however it ends. -/
def KeepsFrom (m : M α) (s : State) : Prop :=
  match m s with
  | .ok _ t => Sound s t
  | .error _ t => Sound s t

theorem keepsFrom_of_keeps {m : M α} (h : Keeps m) (s : State) : KeepsFrom m s := h s

/-- An operation that reads the state and goes on from there. -/
theorem keeps_of_from {f : State → M β} (h : ∀ s, KeepsFrom (f s) s) : Keeps (get >>= f) := keeps_getBind h

/-- An operation that writes a state made from the one it has read, and goes on. -/
theorem keepsFrom_set {s t : State} (h : Sound s t) {m : M β} (hm : Keeps m) : KeepsFrom (set t >>= fun _ => m) s :=
  keeps_setThen h hm

/-- An update that is sound where the parameters are those of the beginning, after an operation that keeps them. -/
theorem keepsFrom_bindModify {m : M α} {f : State → State} {s : State} (hm : Keeps m)
    (hf : ∀ t, t.params = s.params → Sound t (f t)) : KeepsFrom (m >>= fun _ => modify f) s := by
  have hs := hm s
  unfold KeepsFrom
  rw [run_bind]
  cases h : m s with
  | ok a t =>
    rw [h] at hs
    exact hs.trans (hf t hs.1)
  | error e t =>
    rw [h] at hs
    exact hs

end rules

section control

@[simp] theorem keeps_jumpNear (t : Word32) : Keeps (jumpNear t) := by
  unfold jumpNear
  repeat refine keeps_bind (by simp) fun _ => ?_
  exact keeps_pure _

@[simp] theorem keeps_requireRoom (b k : Nat) : Keeps (requireRoom b k) := by simp [requireRoom]

@[simp] theorem keeps_probeFrame (b k : Nat) : Keeps (probeFrame b k) := by simp [probeFrame]

@[simp] theorem keeps_commitFrame (b : Nat) (xs : List Slot) (vs : List Nat) : Keeps (commitFrame b xs vs) := by
  simp [commitFrame]

@[simp] theorem keeps_callNear (p : Prefixes) (next t : Word32) : Keeps (callNear p next t) := by
  unfold callNear
  repeat refine keeps_bind (by simp) fun _ => ?_
  exact keeps_pure _

@[simp] theorem keeps_enterSameLevel (call : Bool) (b : Nat) (csel : Word16) (d : Desc) (entry next : Word32) :
    Keeps (enterSameLevel call b csel d entry next) := by
  unfold enterSameLevel
  refine keeps_bind keeps_get fun s => keeps_when (by simp) fun _ => keeps_bind (by simp) fun _ => ?_
  refine keeps_either (by simp) (by simp) fun slots => keeps_bind (by simp) fun acc => ?_
  exact keeps_when (by simp) fun _ => keeps_bind (by simp) fun _ => by simp

@[simp] theorem keeps_farDirect (call : Bool) (p : Prefixes) (sel : Word16) (d : Desc) (off next : Word32) :
    Keeps (farDirect call p sel d off next) := by
  unfold farDirect
  exact keeps_bind keeps_get fun _ => keeps_ite (by simp) (by simp)

@[simp] theorem keeps_readParams (b : Nat) (sp : Word32) (k : Nat) : Keeps (readParams b sp k) := by
  induction k generalizing sp with
  | zero => exact keeps_pure _
  | succ k ih =>
    unfold readParams
    exact keeps_bind (by simp) fun v => keeps_bind keeps_get fun s => keeps_bind (ih _) fun vs => keeps_pure _

@[simp] theorem keeps_interLevelCall (g : Desc) (csel : Word16) (cd : Desc) (next : Word32) :
    Keeps (interLevelCall g csel cd next) := by
  unfold interLevelCall
  refine keeps_bind keeps_get fun s => keeps_bind (by simp) fun stack => keeps_bind (by simp) fun sd => ?_
  refine keeps_ite (by simp) ?_
  repeat refine keeps_bind (by simp) fun _ => ?_
  refine keeps_bind (keeps_modify fun u => sound_mk ..) fun _ => ?_
  repeat refine keeps_bind (by simp) fun _ => ?_
  exact keeps_pure _

@[simp] theorem keeps_throughGate (call : Bool) (gsel : Word16) (g : Desc) (next : Word32) :
    Keeps (throughGate call gsel g next) := by
  unfold throughGate
  refine keeps_bind keeps_get fun s => keeps_ite (by simp) (keeps_ite (by simp) (keeps_bind (by simp) fun cd => ?_))
  exact keeps_ite (by simp) (keeps_ite (by simp) (keeps_ite (by simp) (by simp)))

@[simp] theorem keeps_farToTask (call : Bool) (sel : Word16) (d : Desc) (next : Word32) :
    Keeps (farToTask call sel d next) := by
  unfold farToTask
  refine keeps_bind keeps_get fun s => keeps_ite ?gate ?tss
  case gate => exact keeps_ite (by simp) (keeps_ite (by simp) (by simp))
  case tss => exact keeps_ite (by simp) (keeps_ite (by simp) (by simp))

@[simp] theorem keeps_farReal (call : Bool) (b : Nat) (sel : Word16) (off next : Word32) :
    Keeps (farReal call b sel off next) := by
  unfold farReal
  refine keeps_bind keeps_get fun s => keeps_bind (by simp) fun _ => ?_
  refine keeps_either (by simp) (by simp) fun slots => keeps_when (by simp) fun _ => ?_
  exact keeps_bind (by simp) fun _ => by simp

@[simp] theorem keeps_farTransfer (call : Bool) (p : Prefixes) (sel : Word16) (off next : Word32) :
    Keeps (farTransfer call p sel off next) := by
  unfold farTransfer
  refine keeps_bind keeps_get fun s => keeps_ite (by simp) (keeps_ite (by simp) (keeps_bind (by simp) fun d => ?_))
  exact keeps_ite (by simp) (keeps_ite (by simp) (keeps_ite (by simp) (by simp)))

@[simp] theorem keeps_returnNear (p : Prefixes) (n : Nat) : Keeps (returnNear p n) := by
  unfold returnNear
  repeat refine keeps_bind (by simp) fun _ => ?_
  exact keeps_pure _

@[simp] theorem keeps_returnFarReal (b n : Nat) : Keeps (returnFarReal b n) := by
  unfold returnFarReal
  repeat refine keeps_bind (by simp) fun _ => ?_
  exact keeps_pure _

@[simp] theorem keeps_returnOuter (wide : Bool) (n : Nat) (csel : Word16) (d : Desc) (neip : Word32) :
    Keeps (returnOuter wide n csel d neip) := by
  unfold returnOuter
  repeat refine keeps_bind (by simp) fun _ => ?_
  exact keeps_pure _

@[simp] theorem keeps_returnFar (p : Prefixes) (n : Nat) : Keeps (returnFar p n) := by
  unfold returnFar
  refine keeps_bind keeps_get fun s => keeps_ite (by simp) ?_
  refine keeps_bind (by simp) fun _ => keeps_bind (by simp) fun neip => keeps_bind (by simp) fun csel => ?_
  refine keeps_bind (by simp) fun d => keeps_ite ?sameLevel (by simp)
  repeat refine keeps_bind (by simp) fun _ => ?_
  exact keeps_pure _

end control

section fpu

@[simp] theorem keeps_escAvailable : Keeps escAvailable := by simp [escAvailable]

/-- The freeze writes the state that was read, with nothing of the invariant changed. -/
@[simp] theorem keeps_checkFpError : Keeps checkFpError := by
  unfold checkFpError
  refine keeps_of_from fun s => ?_
  split_ifs
  · exact Sound.rfl' s
  · exact Sound.rfl' s
  · exact Sound.rfl' s
  · exact sound_mk ..

@[simp] theorem keeps_storeArea (p : Prefixes) (m : MemOp) (n : Nat) (fields : List (Nat × Nat)) :
    Keeps (storeArea p m n fields) := by simp [storeArea]

end fpu

section interrupts

@[simp] theorem keeps_softInterrupt (v : Byte) (next : Word32) : Keeps (softInterrupt v next) := by simp [softInterrupt]

end interrupts

section io

@[simp] theorem keeps_ioPermission (port : Word16) (n : Nat) : Keeps (ioPermission port n) := by
  unfold ioPermission
  refine keeps_bind keeps_get fun s => keeps_ite (by simp) (keeps_ite (by simp) (keeps_ite (by simp) ?_))
  refine keeps_ite (by simp) (keeps_ite (by simp) (keeps_bind (by simp) fun iobase => ?_))
  exact keeps_ite (by simp) (by simp)

/-- The read of a port writes the state that was read, with the free values and the record of transactions moved on. -/
@[simp] theorem keeps_ioRead (port : Word16) (n : Nat) : Keeps (ioRead port n) := fun _ => sound_mk ..

@[simp] theorem keeps_ioWrite (port : Word16) (n : Nat) (v : Word32) : Keeps (ioWrite port n v) := by simp [ioWrite]

@[simp] theorem keeps_portAccess (port : Word16) (n : Nat) : Keeps (portAccess port n) := by simp [portAccess]

@[simp] theorem keeps_inPort (port : Word16) (n : Nat) : Keeps (inPort port n) := by
  unfold inPort
  exact keeps_bind (by simp) fun _ => by simp

@[simp] theorem keeps_outPort (port : Word16) (n : Nat) : Keeps (outPort port n) := by simp [outPort]

@[simp] theorem keeps_insOnce (p : Prefixes) (n : Nat) : Keeps (insOnce p n) := by
  unfold insOnce
  refine keeps_bind keeps_get fun s => keeps_bind (by simp) fun _ => keeps_bind (by simp) fun slot => ?_
  exact keeps_bind (by simp) fun v => by simp

@[simp] theorem keeps_outsOnce (p : Prefixes) (n : Nat) : Keeps (outsOnce p n) := by
  unfold outsOnce
  refine keeps_bind keeps_get fun s => keeps_bind (by simp) fun _ => keeps_bind (by simp) fun v => ?_
  simp

/-- A string instruction keeps what one element of it keeps. -/
theorem keeps_stringInstr (p : Prefixes) {once : M Unit} (h : Keeps once) : Keeps (stringInstr p once) := by
  unfold stringInstr
  refine keeps_bind (by simp) fun _ => keeps_ite ?element ?repeated
  case element => simp [h]
  case repeated =>
    refine keeps_bind keeps_get fun _ => keeps_ite (by simp) (keeps_bind h fun _ => ?_)
    exact keeps_bind (by simp) fun _ => by simp

@[simp] theorem keeps_requireIopl : Keeps requireIopl := by simp [requireIopl]

@[simp] theorem keeps_requireV86Iopl : Keeps requireV86Iopl := by simp [requireV86Iopl]

end io

section pointer

@[simp] theorem keeps_fetchForCheck (sel : Word16) : Keeps (fetchForCheck sel) := by simp [fetchForCheck]

@[simp] theorem keeps_setZf (b : Bool) : Keeps (setZf b) := by simp [setZf]

end pointer

section system

@[simp] theorem keeps_freeArithFlags : Keeps freeArithFlags := by simp [freeArithFlags]

@[simp] theorem keeps_requireI486 : Keeps requireI486 := by simp [requireI486]

@[simp] theorem keeps_requireFeature (has : Bool) : Keeps (requireFeature has) := by simp [requireFeature]

@[simp] theorem keeps_requireMem (rm : Rm) : Keeps (requireMem rm) := by cases rm <;> simp [requireMem]

@[simp] theorem keeps_loadPseudo (p : Prefixes) (m : MemOp) : Keeps (loadPseudo p m) := by
  unfold loadPseudo
  exact keeps_bind (by simp) fun _ => keeps_bind (by simp) fun _ => by simp

@[simp] theorem keeps_storePseudo (p : Prefixes) (m : MemOp) (t : TableReg) : Keeps (storePseudo p m t) := by
  unfold storePseudo
  refine keeps_bind (by simp) fun _ => keeps_bind (by simp) fun _ => keeps_bind (by simp) fun _ => ?_
  refine keeps_bind keeps_get fun s => keeps_ite (by simp) (keeps_bind keeps_freshWord fun f => ?_)
  simp

@[simp] theorem keeps_gdtDescriptor (sel : Word16) : Keeps (gdtDescriptor sel) := by
  unfold gdtDescriptor
  refine keeps_bind keeps_get fun s => keeps_ite (by simp) (keeps_bind (by simp) fun d => ?_)
  cases d with
  | none => exact keeps_raiseSel _ _ _
  | some d => exact keeps_pure d

@[simp] theorem keeps_loadLdtr (sel : Word16) : Keeps (loadLdtr sel) := by
  unfold loadLdtr
  refine keeps_bind (by simp) fun d => keeps_ite (by simp) (keeps_ite (by simp) ?_)
  exact keeps_modify fun s => sound_mk ..

@[simp] theorem keeps_loadTr (sel : Word16) : Keeps (loadTr sel) := by
  unfold loadTr
  refine keeps_bind (by simp) fun d => keeps_ite (by simp) (keeps_ite (by simp) (keeps_bind keeps_get fun s => ?_))
  exact keeps_bind (by simp) fun busy => by simp

@[simp] theorem keeps_requireEvenCs (b : Bool) : Keeps (requireEvenCs b) := by
  unfold requireEvenCs
  exact keeps_bind keeps_get fun s => by simp

@[simp] theorem keeps_checkPdpt (b : Bool) (c : Word32) : Keeps (checkPdpt b c) := by
  unfold checkPdpt
  exact keeps_ite (keeps_bind (by simp) fun _ => by simp) (by simp)

/-- A load of CR0 is sound where the new value sets PG only together with PE (10_state.md R81). -/
theorem sound_setCr0 {s : State} {v : Word32} (h : s.Inv → bit v 31 = true → bit v 0 = true) :
    Sound s { s with cr0 := v } :=
  ⟨rfl, fun i => ⟨i.mem, i.eflags, h i, i.cr4, i.dr6, i.dr7⟩⟩

/-- A load of CR4 is sound where the new value holds only bits of present features (10_state.md R87). -/
theorem sound_setCr4 {s : State} {v : Word32} (h : v &&& ~~~(cr4Present s.params) = 0) : Sound s { s with cr4 := v } :=
  ⟨rfl, fun i => ⟨i.mem, i.eflags, i.paging, h, i.dr6, i.dr7⟩⟩

/-- What a MOV to CR0 writes has PG and PE as the value given: PG only with PE, if that value sets PG only with PE. -/
theorem cr0Value_paging (f : Family) {v : Word32} (h : bit v 31 = true → bit v 0 = true) :
    bit (cr0Value f v) 31 = true → bit (cr0Value f v) 0 = true := by
  unfold bit at h ⊢
  cases f with
  | i386 => simp [cr0Value]
  | i486 | pentium | p6 => simpa [cr0Value] using h

/-- What LMSW writes keeps PG and does not clear PE (40_system_registers.md R384). -/
theorem lmsw_paging (c w : Word32) (h : bit c 31 = true → bit c 0 = true) :
    bit (mergeBits 0x0000000E c w ||| (w &&& 1)) 31 = true → bit (mergeBits 0x0000000E c w ||| (w &&& 1)) 0 = true := by
  have pg : bit (mergeBits 0x0000000E c w ||| (w &&& 1)) 31 = bit c 31 := by simp [bit, mergeBits]
  have pe : bit (mergeBits 0x0000000E c w ||| (w &&& 1)) 0 = (bit c 0 || bit w 0) := by simp [bit, mergeBits]
  rw [pg, pe]
  exact fun on => by simp [h on]

@[simp] theorem keeps_writeCr0 (v : Word32) : Keeps (writeCr0 v) := by
  unfold writeCr0
  refine keeps_bind keeps_get fun s => ?_
  split_ifs with h
  · exact keeps_raiseGp0
  · refine keeps_bind (by simp) fun _ => keeps_bind (by simp) fun _ => keeps_modify fun u => sound_setCr0 fun _ => ?_
    exact cr0Value_paging _ (by simpa using h)

@[simp] theorem keeps_writeCr3 (v : Word32) : Keeps (writeCr3 v) := by
  unfold writeCr3
  refine keeps_bind keeps_get fun s => keeps_bind (by simp) fun _ => keeps_bind (by simp) fun _ => ?_
  exact keeps_modify fun u => sound_mk ..

/-- The bits of CR4 are checked against the parameters of the state that was read, which the checks in between leave alone. -/
@[simp] theorem keeps_writeCr4 (v : Word32) : Keeps (writeCr4 v) := by
  unfold writeCr4
  refine keeps_of_from fun s => ?_
  split_ifs with h
  · exact keepsFrom_of_keeps keeps_raiseGp0 s
  · exact keepsFrom_bindModify (keeps_checkPdpt _ _) fun u hu => sound_setCr4 (by simpa [hu] using h)

end system

section segments

@[simp] theorem keeps_popSeg (p : Prefixes) (r : SegReg) : Keeps (popSeg p r) := by
  unfold popSeg
  exact keeps_bind keeps_get fun s => keeps_bind (by simp) fun v => by simp

@[simp] theorem keeps_pushSeg (p : Prefixes) (r : SegReg) : Keeps (pushSeg p r) := by simp [pushSeg]

@[simp] theorem keeps_loadFarPointer (p : Prefixes) (g : SegReg) (r : Reg) (rm : Rm) : Keeps (loadFarPointer p g r rm) := by
  cases rm with
  | reg d => exact (keeps_raiseUd : Keeps (raiseUd : M Unit))
  | mem m =>
    refine keeps_bind (keeps_pure m) fun m => keeps_bind keeps_get fun s => keeps_bind (by simp) fun far => ?_
    refine keeps_bind keeps_get fun u => keeps_bind (by simp) fun _ => keeps_modify fun x => ?_
    split
    · exact sound_setReg x r far.1
    · exact sound_setReg16 x r (lo16 far.1)

end segments

section reserved

@[simp] theorem keeps_strayPrefix (p : Prefixes) (t : PrefixTail) : Keeps (strayPrefix p t) := by
  cases t with
  | overlong body => simp [strayPrefix]
  | application rest => simp [strayPrefix]

end reserved

end Sys2Proof.Machine
end

section
/-! Every instruction keeps the parameters and the invariant: one lemma for each instruction whose meaning branches or is long, then
one case for each constructor of `Instr`. -/

namespace Sys2Proof.Machine

open Sys2Proof

section system
variable {s t : State} {p : Prefixes}

/-- The shape of LLDT and LTR: a selector is read at level 0, and what is done with it depends on whether it is null. -/
theorem keeps_loadSystemSegment {rm : Rm} {null load : Word16 → M Unit} (hn : ∀ sel, Keeps (null sel))
    (hl : ∀ sel, Keeps (load sel)) (n : Nat) :
    Keeps (do
      plainPrefixes p
      requireProtected
      requireCpl0
      let sel ← readRm16 p rm
      if isNull sel then null sel else load sel
      advance p n) := by
  refine keeps_bind (by simp) fun _ => keeps_bind (by simp) fun _ => keeps_bind (by simp) fun _ => ?_
  exact keeps_bind (by simp) fun sel => keeps_either (hn sel) (hl sel) fun _ => keeps_advance p n

theorem sound_execLldt {rm : Rm} (h : execLldt p rm s = .next t) : Sound s t :=
  sound_runInstr (keeps_loadSystemSegment (fun _ => keeps_modify fun _ => sound_mk ..) keeps_loadLdtr _) h

theorem sound_execLtr {rm : Rm} (h : execLtr p rm s = .next t) : Sound s t :=
  sound_runInstr (keeps_loadSystemSegment (fun _ => keeps_raiseGp0) keeps_loadTr _) h

/-- LMSW cannot clear PE, so PG, which it does not write, stays without it only where it was. -/
theorem sound_execLmsw {rm : Rm} (h : execLmsw p rm s = .next t) : Sound s t := by
  refine sound_runInstr ?_ h
  refine keeps_bind (by simp) fun _ => keeps_bind (by simp) fun _ => keeps_bind (by simp) fun w => ?_
  refine keeps_bind (by simp) fun _ => keeps_bind (keeps_modify fun u => ?_) fun _ => keeps_advance p _
  exact sound_setCr0 fun i => lmsw_paging u.cr0 (w.setWidth 32) i.paging

theorem sound_execClts (h : execClts p s = .next t) : Sound s t := by
  refine sound_runInstr (keeps_bind (by simp) fun _ => keeps_bind (by simp) fun _ => ?_) h
  exact keeps_bind (keeps_modify fun u => sound_setTs u false u.tr) fun _ => keeps_advance p 2

/-- The shape of the moves from and to special registers: the register exists, the level is 0, one update, free flags. -/
theorem keeps_specialMove {undefined : State → Bool} {f : State → State} (hf : ∀ u, Sound u (f u)) :
    Keeps (do
      plainPrefixes p
      if undefined (← get) then raiseUd else pure ()
      requireCpl0
      modify f
      freeArithFlags
      advance p 3) := by
  refine keeps_bind (by simp) fun _ => keeps_bind keeps_get fun _ => keeps_when (by simp) fun _ => ?_
  refine keeps_bind (by simp) fun _ => keeps_bind (keeps_modify hf) fun _ => ?_
  exact keeps_bind (by simp) fun _ => keeps_advance p 3

theorem sound_execMovFromCr {r : Reg} {n : BitVec 3} (h : execMovFromCr p r n s = .next t) : Sound s t :=
  sound_runInstr (keeps_specialMove fun u => sound_setReg u r _) h

theorem sound_execMovFromDr {r : Reg} {n : BitVec 3} (h : execMovFromDr p r n s = .next t) : Sound s t :=
  sound_runInstr (keeps_specialMove fun u => sound_setReg u r _) h

theorem sound_execMovToDr {n : BitVec 3} {r : Reg} (h : execMovToDr p n r s = .next t) : Sound s t :=
  sound_runInstr (keeps_specialMove fun u => sound_setDr u n _) h

theorem sound_execMovFromTr {r : Reg} {n : BitVec 3} (h : execMovFromTr p r n s = .next t) : Sound s t :=
  sound_runInstr (keeps_specialMove fun u => sound_setReg u r _) h

theorem sound_execMovToTr {n : BitVec 3} {r : Reg} (h : execMovToTr p n r s = .next t) : Sound s t :=
  sound_runInstr (keeps_specialMove fun u => sound_setTestReg u n _) h

theorem sound_execMovToCr {n : BitVec 3} {r : Reg} (h : execMovToCr p n r s = .next t) : Sound s t := by
  refine sound_runInstr ?_ h
  refine keeps_bind (by simp) fun _ => keeps_bind keeps_get fun _ => keeps_when (by simp) fun _ => ?_
  refine keeps_bind (by simp) fun _ => keeps_bind keeps_get fun u => ?_
  have finish : ∀ _ : Unit, Keeps (do freeArithFlags; advance p 3) := fun _ => by simp
  dsimp only
  split
  · exact keeps_bind (keeps_writeCr0 _) finish
  · exact keeps_bind (keeps_modify fun u => sound_mk ..) finish
  · exact keeps_bind (keeps_writeCr3 _) finish
  · exact keeps_bind (keeps_writeCr4 _) finish

theorem sound_execWrmsr (h : execWrmsr p s = .next t) : Sound s t := by
  refine sound_runInstr ?_ h
  refine keeps_bind (by simp) fun _ => keeps_bind keeps_get fun _ => keeps_bind (by simp) fun _ => ?_
  refine keeps_bind (by simp) fun _ => keeps_of_from fun u => ?_
  dsimp only
  split
  · exact keepsFrom_of_keeps (keeps_bind keeps_raiseGp0 fun _ => keeps_advance p 2) u
  · exact keepsFrom_set (sound_setMsr u _ _) (keeps_advance p 2)

theorem sound_execRdmsr (h : execRdmsr p s = .next t) : Sound s t := by
  refine sound_runInstr ?_ h
  refine keeps_bind (by simp) fun _ => keeps_bind keeps_get fun _ => keeps_bind (by simp) fun _ => ?_
  refine keeps_bind (by simp) fun _ => keeps_of_from fun u => ?_
  dsimp only
  split
  · exact keepsFrom_of_keeps (keeps_bind keeps_raiseGp0 fun _ => keeps_advance p 2) u
  · exact keepsFrom_set (sound_setEdxEax u _) (keeps_advance p 2)

theorem sound_execRdtsc (h : execRdtsc p s = .next t) : Sound s t := by
  refine sound_runInstr ?_ h
  refine keeps_bind (by simp) fun _ => keeps_bind keeps_get fun _ => keeps_bind (by simp) fun _ => ?_
  exact keeps_bind keeps_get fun _ => keeps_when (by simp) fun _ => by simp

theorem sound_execRdpmc (h : execRdpmc p s = .next t) : Sound s t := by
  refine sound_runInstr ?_ h
  refine keeps_bind (by simp) fun _ => keeps_bind keeps_get fun _ => keeps_bind (by simp) fun _ => ?_
  refine keeps_bind keeps_get fun _ => keeps_unless keeps_requireCpl0 fun _ => keeps_of_from fun u => ?_
  dsimp only
  split_ifs
  · exact keepsFrom_set (sound_setEdxEax u _) (keeps_advance p 2)
  · exact keepsFrom_set (sound_setEdxEax u _) (keeps_advance p 2)
  · exact keepsFrom_of_keeps (keeps_bind keeps_raiseGp0 fun _ => keeps_advance p 2) u

end system

section pointer
variable {s t : State} {p : Prefixes}

/-- The shape of LAR, LSL, VERR and VERW: a selector is read, its descriptor fetched, and the answer depends on both. -/
theorem keeps_checkSelector {rm : Rm} {answer : State → Word16 → Option Desc → M Done}
    (ha : ∀ u sel d, Keeps (answer u sel d)) :
    Keeps (do
      plainPrefixes p
      requireProtected
      let sel ← readRm16 p rm
      let u ← get
      let d ← fetchForCheck sel
      answer u sel d) := by
  refine keeps_bind (by simp) fun _ => keeps_bind (by simp) fun _ => keeps_bind (by simp) fun sel => ?_
  exact keeps_bind keeps_get fun u => keeps_bind (by simp) fun d => ha u sel d

/-- The last steps of a pointer check: ZF, and the next instruction. -/
theorem keeps_zfAdvance (b : Bool) (n : Nat) : Keeps (do setZf b; advance p n) :=
  keeps_bind (keeps_setZf b) fun _ => keeps_advance p n

theorem sound_execLar {r : Reg} {rm : Rm} (h : execLar p r rm s = .next t) : Sound s t := by
  refine sound_runInstr (keeps_checkSelector fun u sel d => ?_) h
  cases d with
  | none => exact keeps_zfAdvance false _
  | some d =>
    refine keeps_ite (keeps_bind keeps_freshWord fun f => keeps_bind (by simp) fun _ => ?_) (keeps_zfAdvance false _)
    exact keeps_zfAdvance true _

theorem sound_execLsl {r : Reg} {rm : Rm} (h : execLsl p r rm s = .next t) : Sound s t := by
  refine sound_runInstr (keeps_checkSelector fun u sel d => ?_) h
  cases d with
  | none => exact keeps_zfAdvance false _
  | some d => exact keeps_ite (keeps_bind (by simp) fun _ => keeps_zfAdvance true _) (keeps_zfAdvance false _)

theorem sound_execVerr {rm : Rm} (h : execVerr p rm s = .next t) : Sound s t := by
  refine sound_runInstr (keeps_checkSelector fun u sel d => ?_) h
  cases d with
  | none => exact keeps_zfAdvance false _
  | some d => exact keeps_zfAdvance _ _

theorem sound_execVerw {rm : Rm} (h : execVerw p rm s = .next t) : Sound s t := by
  refine sound_runInstr (keeps_checkSelector fun u sel d => ?_) h
  cases d with
  | none => exact keeps_zfAdvance false _
  | some d => exact keeps_zfAdvance _ _

theorem sound_execArpl {rm : Rm} {r : Reg} (h : execArpl p rm r s = .next t) : Sound s t := by
  refine sound_runInstr ?_ h
  refine keeps_bind (by simp) fun _ => keeps_bind (by simp) fun _ => keeps_bind keeps_get fun u => ?_
  cases rm with
  | reg d => exact keeps_bind keeps_get fun v => keeps_bind (by simp) fun _ => keeps_zfAdvance _ _
  | mem m =>
    refine keeps_bind (by simp) fun slot => keeps_bind (by simp) fun old => ?_
    exact keeps_ite (keeps_bind (by simp) fun _ => keeps_zfAdvance true _) (keeps_zfAdvance false _)

end pointer

section transfer
variable {s t : State} {p : Prefixes}

theorem sound_execMovToSeg {n : BitVec 3} {rm : Rm} (h : execMovToSeg p n rm s = .next t) : Sound s t := by
  refine sound_runInstr (keeps_bind (by simp) fun _ => ?_) h
  split
  · exact keeps_raiseUd
  · refine keeps_ite keeps_raiseUd (keeps_bind (by simp) fun sel => keeps_bind (by simp) fun _ => ?_)
    exact keeps_when (keeps_modify fun u => sound_mk ..) fun _ => keeps_advance p _

theorem sound_execMovFromSeg {rm : Rm} {n : BitVec 3} (h : execMovFromSeg p rm n s = .next t) : Sound s t := by
  refine sound_runInstr (keeps_bind (by simp) fun _ => ?_) h
  split
  · exact keeps_raiseUd
  · exact keeps_bind keeps_get fun u => keeps_bind (by simp) fun _ => keeps_advance p _

theorem sound_execJmpFarMem {rm : Rm} (h : execJmpFarMem p rm s = .next t) : Sound s t := by
  refine sound_runInstr (keeps_bind (by simp) fun _ => ?_) h
  cases rm with
  | reg r => exact keeps_raiseUd
  | mem m => exact keeps_bind keeps_get fun u => keeps_bind (by simp) fun far => by simp

theorem sound_execCallFarMem {rm : Rm} (h : execCallFarMem p rm s = .next t) : Sound s t := by
  refine sound_runInstr (keeps_bind (by simp) fun _ => ?_) h
  cases rm with
  | reg r => exact keeps_raiseUd
  | mem m => exact keeps_bind keeps_get fun u => keeps_bind (by simp) fun far => by simp

end transfer

section flags
variable {s t : State} {p : Prefixes}

theorem sound_execCli (h : execCli p s = .next t) : Sound s t := by
  refine sound_runInstr (keeps_bind (by simp) fun _ => keeps_bind keeps_get fun u => keeps_ite ?clearIf ?denied) h
  case clearIf => exact keeps_bind (keeps_modify fun v => sound_if v false) fun _ => keeps_advance p 1
  case denied =>
    exact keeps_either (keeps_modify fun v => sound_clearVif v) keeps_raiseGp0 fun _ => keeps_advance p 1

theorem sound_execPopf (h : execPopf p s = .next t) : Sound s t := by
  refine sound_runInstr (keeps_bind (by simp) fun _ => keeps_bind (by simp) fun _ => keeps_bind keeps_get fun u => ?_) h
  refine keeps_bind (by simp) fun v => keeps_bind (by simp) fun _ => keeps_bind (by simp) fun _ => ?_
  exact keeps_bind (by simp) fun d => keeps_pure _

end flags

section interrupts
variable {s t : State} {p : Prefixes}

theorem sound_execIntImm {v : BitVec 8} (h : execIntImm p v s = .next t) : Sound s t := by
  refine sound_runInstr (keeps_bind (by simp) fun _ => keeps_bind keeps_get fun u => ?_) h
  exact keeps_ite keeps_raiseGp0 (keeps_softInterrupt _ _)

theorem sound_execInto (h : execInto p s = .next t) : Sound s t := by
  refine sound_runInstr (keeps_bind (by simp) fun _ => keeps_bind keeps_get fun u => ?_) h
  exact keeps_ite (keeps_softInterrupt _ _) (keeps_advance p 1)

theorem sound_execBound {r : Reg} {rm : Rm} (h : execBound p r rm s = .next t) : Sound s t := by
  refine sound_runInstr (keeps_bind (by simp) fun _ => ?_) h
  cases rm with
  | reg d => exact keeps_raiseUd
  | mem m =>
    refine keeps_bind keeps_get fun u => keeps_bind (by simp) fun _ => keeps_bind (by simp) fun lower => ?_
    exact keeps_bind (by simp) fun upper => keeps_ite (keeps_advance p _) (keeps_raisePlain _)

end interrupts

section fpu
variable {s t : State} {p : Prefixes}

theorem sound_execWait (h : execWait p s = .next t) : Sound s t := by
  refine sound_runInstr (keeps_bind (by simp) fun _ => keeps_bind keeps_get fun u => ?_) h
  refine keeps_when (keeps_raisePlain _) fun _ => keeps_bind keeps_checkFpError fun frozen => ?_
  exact keeps_ite (keeps_pure _) (keeps_advance p 1)

theorem sound_execFnstenv {m : MemOp} (h : execFnstenv p m s = .next t) : Sound s t := by
  refine sound_runInstr (keeps_bind (by simp) fun _ => keeps_bind (by simp) fun _ => keeps_bind (by simp) fun k => ?_) h
  refine keeps_bind keeps_get fun u => keeps_bind (by simp) fun _ => ?_
  exact keeps_bind (keeps_modify fun v => sound_mk ..) fun _ => keeps_advance p _

end fpu

section exec

/-- Whatever instruction is executed, and whatever it ends in, the machine goes on with its parameters and its invariant. -/
theorem sound_exec {i : Instr} {s t : State} (h : exec i s = .next t) : Sound s t := by
  cases i with
  | lldt => exact sound_execLldt h
  | ltr => exact sound_execLtr h
  | lmsw => exact sound_execLmsw h
  | clts => exact sound_execClts h
  | movFromCr => exact sound_execMovFromCr h
  | movToCr => exact sound_execMovToCr h
  | movFromDr => exact sound_execMovFromDr h
  | movToDr => exact sound_execMovToDr h
  | movFromTr => exact sound_execMovFromTr h
  | movToTr => exact sound_execMovToTr h
  | wrmsr => exact sound_execWrmsr h
  | rdmsr => exact sound_execRdmsr h
  | rdtsc => exact sound_execRdtsc h
  | rdpmc => exact sound_execRdpmc h
  | lar => exact sound_execLar h
  | lsl => exact sound_execLsl h
  | verr => exact sound_execVerr h
  | verw => exact sound_execVerw h
  | arpl => exact sound_execArpl h
  | movToSeg => exact sound_execMovToSeg h
  | movFromSeg => exact sound_execMovFromSeg h
  | jmpFarMem => exact sound_execJmpFarMem h
  | callFarMem => exact sound_execCallFarMem h
  | cli => exact sound_execCli h
  | popf => exact sound_execPopf h
  | intImm => exact sound_execIntImm h
  | into => exact sound_execInto h
  | bound => exact sound_execBound h
  | wait => exact sound_execWait h
  | fnstenv => exact sound_execFnstenv h
  -- system registers and system control (40_system_registers.md)
  | sldt | str | sgdt | sidt | lgdt | lidt | smsw | invlpg | invd | wbinvd | hlt =>
    refine sound_runInstr ?_ h
    repeat with_reducible refine keeps_bind (by simp) fun _ => ?_
    simp
  -- segment registers and control transfer (42_control_transfer.md)
  | popEs | popSs | popDs | popFs | popGs | pushEs | pushCs | pushSs | pushDs | pushFs | pushGs | les | lds
  | lss | lfs | lgs | jmpRel8 | jmpRel | jmpRm | jmpFar | callRel | callRm | callFar | ret | retImm | retFar | retFarImm =>
    refine sound_runInstr ?_ h
    repeat with_reducible refine keeps_bind (by simp) fun _ => ?_
    simp
  -- input, output and flags (44_io.md)
  | inAlImm | inAxImm | inAlDx | inAxDx | outImmAl | outImmAx | outDxAl | outDxAx | sti | pushf =>
    refine sound_runInstr ?_ h
    repeat with_reducible refine keeps_bind (by simp) fun _ => ?_
    simp
  | insb | insv | outsb | outsv => exact sound_runInstr (keeps_stringInstr _ (by simp)) h
  -- interrupt instructions and the floating-point unit (45_interrupt_instructions.md, 47_fpu_system.md)
  | int3 | iret | esc | fninit | fnclex | fnstswAx | fnstswMem | fnstcw | fnsave =>
    refine sound_runInstr ?_ h
    repeat with_reducible refine keeps_bind (by simp) fun _ => ?_
    simp
  -- what only traps or stops (30_encoding.md)
  | prefixLock | prefixRepne | prefixRep | prefixEs | prefixCs | prefixSs | prefixDs | prefixFs | prefixGs | prefixOpSize
  | prefixAddrSize => exact sound_runInstr (keeps_strayPrefix _ _) h
  | undef0F00r6 | undef0F00r7 | undef0F01r5 | rsm => exact sound_runInstr keeps_raiseUd h
  | reserved82 | reservedD6 | reservedF1 | reserved0F07 | reserved0F10 | reserved0F11 | reserved0F12 | reserved0F13
  | reservedF6r1 | reservedF7r1 | reservedC0r6 | reservedC1r6 | reservedD0r6 | reservedD1r6 | reservedD2r6
  | reservedD3r6 => exact sound_runInstr (keeps_refuse _) h

end exec

end Sys2Proof.Machine
end

section
/-! The instruction boundary keeps the parameters and the invariant: the fetch, each event a step may recognise, RESET, and with
`sound_exec` the step itself. -/

namespace Sys2Proof.Machine

open Sys2Proof

section fetch

@[simp] theorem keeps_fetchByte (k : Nat) : Keeps (fetchByte k) := by
  unfold fetchByte
  exact keeps_bind keeps_get fun s => keeps_ite keeps_raiseGp0 (by simp)

@[simp] theorem keeps_fetchFrom (db : Bool) (n : Nat) (bs : List Byte) : Keeps (fetchFrom db n bs) := by
  induction n generalizing bs with
  | zero =>
    unfold fetchFrom
    cases decode db bs with
    | instr i rest => exact keeps_pure _
    | application rest => exact keeps_pure _
    | more => exact keeps_raiseGp0
  | succ n ih =>
    unfold fetchFrom
    cases decode db bs with
    | instr i rest => exact keeps_pure _
    | application rest => exact keeps_pure _
    | more => exact keeps_bind (keeps_fetchByte _) fun b => ih _

@[simp] theorem keeps_fetchInstr : Keeps fetchInstr := keeps_bind keeps_get fun _ => keeps_fetchFrom _ _ _

theorem sound_executeOne {s t : State} (h : executeOne s = .next t) : Sound s t := by
  have hf := keeps_fetchInstr s
  unfold executeOne at h
  cases hr : fetchInstr s with
  | ok o u =>
    rw [hr] at hf h
    cases o with
    | some i => exact hf.trans (sound_exec h)
    | none => simp at h
  | error e u =>
    rw [hr] at hf h
    exact sound_failed e hf h

end fetch

section events
variable {s t : State}

theorem sound_deliverEvent {v : Byte} (h : deliverEvent v s = .next t) : Sound s t :=
  sound_settle 5 .benign _ s t (keeps_deliver v false s.eip none false) h

theorem sound_takeNmi (h : takeNmi s = .next t) : Sound s t := (sound_mk ..).trans (sound_deliverEvent h)

theorem sound_takeIntr {v : Byte} (h : takeIntr v s = .next t) : Sound s t := (sound_mk ..).trans (sound_deliverEvent h)

/-- None of the reserved bits of DR6 (10_state.md R95). -/
abbrev Dr6Clear (v : Word32) : Prop := v &&& ~~~(0x0000E00F#32) = 0

theorem Dr6Clear.or {v k : Word32} (hv : Dr6Clear v) (hk : Dr6Clear k) : Dr6Clear (v ||| k) := by
  unfold Dr6Clear at *
  rw [BitVec.and_or_distrib_right, hv, hk]
  rfl

theorem dr6Clear_ite {b : Bool} {k : Word32} (hk : Dr6Clear k) : Dr6Clear (if b then k else 0) := by
  cases b with
  | true => exact hk
  | false => exact BitVec.zero_and

theorem dr6Clear_hitBits (a b c d : Bool) : Dr6Clear (hitBits a b c d) :=
  (((dr6Clear_ite (by decide)).or (dr6Clear_ite (by decide))).or (dr6Clear_ite (by decide))).or (dr6Clear_ite (by decide))

theorem dr6Clear_dr6Bits (p : DbPending) : Dr6Clear p.dr6Bits :=
  ((dr6Clear_hitBits _ _ _ _).or (dr6Clear_ite (by decide))).or (dr6Clear_ite (by decide))

/-- DR6 gains bits none of which is reserved. -/
theorem sound_gainDr6 (s : State) {k : Word32} (hk : Dr6Clear k) : Sound s { s with dr6 := s.dr6 ||| k } :=
  ⟨rfl, fun i => ⟨i.mem, i.eflags, i.paging, i.cr4, Dr6Clear.or i.dr6 hk, i.dr7⟩⟩

theorem sound_debugTrapped (s : State) : Sound s s.debugTrapped :=
  (sound_gainDr6 s (dr6Clear_dr6Bits s.dbPending)).trans (sound_mk ..)

theorem sound_reportDebug (h : reportDebug s = .next t) : Sound s t := by
  unfold reportDebug at h
  split at h
  · exact (sound_debugTrapped s).trans (sound_settle 5 .benign _ _ t keeps_debugAgain h)
  · exact (sound_debugTrapped s).trans (sound_deliverEvent h)

theorem sound_reportCodeBp (h : reportCodeBp s = .next t) : Sound s t :=
  (sound_gainDr6 s (dr6Clear_hitBits _ _ _ _)).trans (sound_deliverEvent (by exact h))

end events

section boundary
variable {s t : State}

/-- A step that lets time pass. -/
theorem sound_nextTick (h : Host.Outcome.next s.tick = (.next t : Out)) : Sound s t := by
  cases h
  exact sound_tick s

theorem sound_runBoundary (h : runBoundary s = .next t) : Sound s t := by
  unfold runBoundary at h
  split at h
  · exact (sound_mk ..).trans (sound_executeOne h)
  have hb : Sound s { s with inhibitSti := false } := sound_mk ..
  refine hb.trans ?_
  dsimp only at h
  split at h
  · exact sound_reportDebug h
  have hc : Sound { s with inhibitSti := false } { s with inhibitSti := false, dbPending := DbPending.none } := sound_mk ..
  refine hc.trans ?_
  split at h
  · exact sound_reportCodeBp h
  split at h
  · exact sound_takeNmi h
  split at h
  · split at h
    · exact sound_executeOne h
    · exact sound_takeIntr h
  · exact sound_executeOne h

theorem sound_haltedBoundary (h : haltedBoundary s = .next t) : Sound s t := by
  unfold haltedBoundary at h
  split at h
  · exact sound_reportDebug h
  split at h
  · exact sound_takeNmi h
  split at h
  · exact sound_takeIntr h
  · exact sound_nextTick h

theorem sound_frozenBoundary (h : frozenBoundary s = .next t) : Sound s t := by
  unfold frozenBoundary at h
  split at h
  · exact (sound_mk ..).trans (sound_runBoundary h)
  split at h
  · exact sound_takeNmi h
  split at h
  · exact sound_takeIntr h
  · exact sound_nextTick h

theorem sound_shutdownBoundary (h : shutdownBoundary s = .next t) : Sound s t := by
  unfold shutdownBoundary at h
  split at h
  · exact sound_takeNmi h
  · exact sound_nextTick h

theorem sound_boundary (h : boundary s = .next t) : Sound s t := by
  unfold boundary at h
  cases hr : s.run with
  | running => exact sound_runBoundary (by rwa [hr] at h)
  | halted => exact sound_haltedBoundary (by rwa [hr] at h)
  | fpFrozen => exact sound_frozenBoundary (by rwa [hr] at h)
  | shutdown => exact sound_shutdownBoundary (by rwa [hr] at h)

end boundary

section reset

/-- EFLAGS after RESET has its fixed bits in place (70_reset_and_hazards.md R905). -/
theorem fixEflags_two (p : Params) : fixEflags p 2 = 2 := by
  unfold fixEflags
  ext i hi
  simp only [BitVec.getElem_or, BitVec.getElem_and]
  exact Bool.or_eq_right_iff_imp.mpr (by simp +contextual)

/-- PG is clear after RESET, whatever RESET_CR0 holds there. -/
theorem bit31_cr0AtReset (p : Params) : bit (Params.cr0AtReset p) 31 = false := by
  unfold bit Params.cr0AtReset
  simp

/-- RESET keeps memory and the parameters, clears CR4, DR6, DR7 and paging, and leaves only bit 1 of EFLAGS. -/
theorem sound_resetFrom (s : State) : Sound s s.resetFrom := by
  have paging : s.resetFrom.pg = false := bit31_cr0AtReset s.params
  refine ⟨rfl, fun i => ⟨i.mem, fixEflags_two _, fun h => ?_, BitVec.zero_and, BitVec.zero_and, BitVec.zero_and⟩⟩
  rw [paging] at h
  contradiction

end reset

section step

theorem sound_step {s t : State} (h : step s = .next t) : Sound s t := by
  unfold step at h
  split at h
  · cases h
    exact sound_resetFrom s
  · exact (sound_sampleNmi s).trans (sound_boundary h)

/-- Settles O56: a step is RESET, an event or an instruction, and each is made of operations that are sound however they end. -/
theorem stepKeepsInvariant : Obligations.StepKeepsInvariant := by
  intro s t hi h
  obtain ⟨hparams, hinv⟩ := sound_step h
  exact ⟨hinv hi, hparams⟩

end step

end Sys2Proof.Machine
end

section
/-! Memory accesses: what a segment register admits, which one a memory operand takes, the checks of an access in their order
(20_memory.md R127), and, while paging is off, the bytes it reads or writes. -/

namespace Sys2Proof.Machine

open Sys2Proof

section level

/-- The privilege level, mode by mode (21_segmentation.md R214). -/
theorem cpl_eq (s : State) :
    s.cpl = if bit s.cr0 0 = false then 0 else if bit s.eflags 17 = true then 3 else s.cs.sel.setWidth 2 := by
  unfold State.cpl State.pe State.vm
  cases bit s.cr0 0 with
  | false => rfl
  | true => simp [BitVec.setWidth_eq_extractLsb']

/-- When the alignment check is enabled (20_memory.md R131). -/
theorem acEnabled_iff (s : State) :
    s.acEnabled = true ↔ s.params.hasAC = true ∧ bit s.cr0 18 = true ∧ bit s.eflags 18 = true ∧ s.cpl = 3 := by
  simp only [State.acEnabled, State.am, State.acf, Bool.and_eq_true, decide_eq_true_eq, and_assoc]

end level

section operand

/-- The segment-override prefixes, each with the register it names (30_encoding.md R337). -/
def overridePrefixes : List (Prefix × SegReg) := [(.es, .es), (.cs, .cs), (.ss, .ss), (.ds, .ds), (.fs, .fs), (.gs, .gs)]

theorem seg?_of_mem {o : Prefix × SegReg} (h : o ∈ overridePrefixes) : o.1.seg? = some o.2 :=
  (by decide : ∀ o ∈ overridePrefixes, o.1.seg? = some o.2) o h

theorem seg?_none_or_mem (x : Prefix) : x.seg? = none ∨ ∃ o ∈ overridePrefixes, o.1 = x := by cases x <;> decide

/-- Prefixes that override nothing leave the override in force. -/
theorem segOverrideFrom_of_no_override {p : Prefixes} (h : ∀ o ∈ overridePrefixes, o.1 ∉ p) (acc : Option SegReg) :
    segOverrideFrom p acc = acc := by
  induction p with
  | nil => rfl
  | cons x xs ih =>
    have rest : segOverrideFrom xs acc = acc := ih fun o ho hx => h o ho (List.mem_cons_of_mem x hx)
    rcases seg?_none_or_mem x with hx | ⟨o, ho, rfl⟩
    · rw [segOverrideFrom, hx, rest]
    · exact absurd List.mem_cons_self (h o ho)

theorem segOverrideFrom_append (p q : Prefixes) (acc : Option SegReg) :
    segOverrideFrom (p ++ q) acc = segOverrideFrom q (segOverrideFrom p acc) := by
  induction p generalizing acc with
  | nil => rfl
  | cons x xs ih => exact ih _

/-- The last override wins, whatever stands before it (30_encoding.md R337). -/
theorem segOverride_of_last {before after : Prefixes} {o : Prefix × SegReg} (ho : o ∈ overridePrefixes)
    (h : ∀ x ∈ overridePrefixes, x.1 ∉ after) : Prefixes.segOverride (before ++ o.1 :: after) = some o.2 := by
  rw [Prefixes.segOverride, segOverrideFrom_append, segOverrideFrom, seg?_of_mem ho]
  exact segOverrideFrom_of_no_override h _

/-- The base register of the operand is BP, EBP or ESP (30_encoding.md R350). -/
def StackBased (m : MemOp) : Prop :=
  ∃ d d' scale index, m ∈ [MemOp.based16 .bp d, .based16 .bpsi d, .based16 .bpdi d, .based32 .ebp d',
    .sib scale index .ebp d', .sib scale index .esp d']

theorem stackBased_based16 {b : Base16} {d : Disp16} : StackBased (.based16 b d) ↔ b = .bp ∨ b = .bpsi ∨ b = .bpdi := by
  constructor
  · rintro ⟨d, d', scale, index, h⟩
    simp only [List.mem_cons, MemOp.based16.injEq, reduceCtorEq, List.not_mem_nil, or_self, or_false] at h
    tauto
  · intro h
    exact ⟨d, .none, 0, .eax, by simpa using h⟩

theorem stackBased_based32 {b : Reg} {d : Disp32} : StackBased (.based32 b d) ↔ b = .ebp := by
  constructor
  · rintro ⟨d, d', scale, index, h⟩
    simp only [List.mem_cons, reduceCtorEq, MemOp.based32.injEq, List.not_mem_nil, or_self, or_false, false_or] at h
    exact h.1
  · intro h
    exact ⟨.none, d, 0, .eax, by simpa using h⟩

theorem stackBased_sib {scale : BitVec 2} {index b : Reg} {d : Disp32} :
    StackBased (.sib scale index b d) ↔ b = .ebp ∨ b = .esp := by
  constructor
  · rintro ⟨d, d', scale, index, h⟩
    simp only [List.mem_cons, reduceCtorEq, MemOp.sib.injEq, List.not_mem_nil, or_false, false_or] at h
    tauto
  · intro h
    exact ⟨.none, d, scale, index, by simpa using h⟩

theorem defaultSeg_based16 (b : Base16) (d : Disp16) :
    defaultSeg (.based16 b d) = if b = .bp ∨ b = .bpsi ∨ b = .bpdi then .ss else .ds := by cases b <;> rfl

/-- The default segment is SS for the bases of the stack and DS for every other operand (30_encoding.md R350). -/
theorem defaultSeg_cases (m : MemOp) : StackBased m ∧ defaultSeg m = .ss ∨ ¬StackBased m ∧ defaultSeg m = .ds := by
  cases m with
  | direct16 d => exact .inr ⟨by simp [StackBased], rfl⟩
  | based16 b d =>
    rw [stackBased_based16, defaultSeg_based16]
    split <;> simp [*]
  | direct32 d => exact .inr ⟨by simp [StackBased], rfl⟩
  | based32 b d =>
    rw [stackBased_based32, defaultSeg]
    split <;> simp [*]
  | sib scale index b d =>
    rw [stackBased_sib, defaultSeg]
    split <;> simp [*]
  | sibNoBase scale index d => exact .inr ⟨by simp [StackBased], rfl⟩

theorem operandSeg_of_no_override {p : Prefixes} (h : ∀ o ∈ overridePrefixes, o.1 ∉ p) (m : MemOp) :
    operandSeg p m = defaultSeg m := by
  rw [operandSeg, Prefixes.segOverride, segOverrideFrom_of_no_override h, Option.getD_none]

theorem operandSeg_of_last {before after : Prefixes} {o : Prefix × SegReg} (ho : o ∈ overridePrefixes)
    (h : ∀ x ∈ overridePrefixes, x.1 ∉ after) (m : MemOp) : operandSeg (before ++ o.1 :: after) m = o.2 := by
  rw [operandSeg, segOverride_of_last ho h, Option.getD_some]

end operand

section segment

/-- The types of data segments that can be written (21_segmentation.md R198). -/
theorem writable_iff (a : Attr) : writable a = true ↔ a.s = true ∧ a.type.toNat ∈ [2, 3, 6, 7] := by
  obtain ⟨type, s, _⟩ := a
  have types : ∀ t : BitVec 4, (!t.getLsbD 3 && t.getLsbD 1) = true ↔ t.toNat ∈ [2, 3, 6, 7] := by decide
  cases s <;> simp [writable, isData, ← types]

/-- The types of data segments, and of code segments that can be read (21_segmentation.md R198). -/
theorem readable_iff (a : Attr) :
    readable a = true ↔ a.s = true ∧ a.type.toNat ∈ [0, 1, 2, 3, 4, 5, 6, 7, 10, 11, 14, 15] := by
  obtain ⟨type, s, _⟩ := a
  have types : ∀ t : BitVec 4, (!t.getLsbD 3 || t.getLsbD 3 && t.getLsbD 1) = true ↔
      t.toNat ∈ [0, 1, 2, 3, 4, 5, 6, 7, 10, 11, 14, 15] := by decide
  cases s <;> simp [readable, isData, isCode, ← types]

/-- The types of expand-down segments (21_segmentation.md R198). -/
theorem expandDown_iff (a : Attr) : expandDown a = true ↔ a.s = true ∧ a.type.toNat ∈ [4, 5, 6, 7] := by
  obtain ⟨type, s, _⟩ := a
  have types : ∀ t : BitVec 4, (!t.getLsbD 3 && t.getLsbD 2) = true ↔ t.toNat ∈ [4, 5, 6, 7] := by decide
  cases s <;> simp [expandDown, isData, ← types]

/-- Which bytes the limit admits (21_segmentation.md R234, R235). -/
theorem inLimit_iff (g : SegState) (off : Word32) (n : Nat) :
    inLimit g off n = true ↔
      if g.attr.s = true ∧ g.attr.type.toNat ∈ [4, 5, 6, 7]
      then g.limit.toNat < off.toNat ∧ off.toNat + n - 1 ≤ (if g.attr.db then 0xFFFFFFFF else 0xFFFF)
      else off.toNat + n - 1 ≤ g.limit.toNat := by
  unfold inLimit
  by_cases down : expandDown g.attr = true
  · rw [if_pos down, if_pos ((expandDown_iff _).mp down), Bool.and_eq_true, decide_eq_true_eq, decide_eq_true_eq]
  · rw [if_neg down, if_neg (mt (expandDown_iff _).mpr down), decide_eq_true_eq]

/-- Which accesses a segment register admits (21_segmentation.md R230, R238). -/
theorem segOk_iff (pm : Bool) (g : SegState) (off : Word32) (n : Nat) (write : Bool) :
    segOk pm g off n write = true ↔ inLimit g off n = true ∧ (pm = true → g.valid = true ∧ g.attr.s = true ∧
      g.attr.type.toNat ∈ if write then [2, 3, 6, 7] else [0, 1, 2, 3, 4, 5, 6, 7, 10, 11, 14, 15]) := by
  unfold segOk
  rw [Bool.and_eq_true, and_comm]
  refine and_congr_right fun _ => ?_
  cases pm with
  | false => simp
  | true =>
    cases write with
    | false => simp only [Bool.not_true, Bool.false_or, Bool.and_eq_true, forall_const, Bool.false_eq_true, if_false,
        readable_iff]
    | true => simp only [Bool.not_true, Bool.false_or, Bool.and_eq_true, forall_const, if_true, writable_iff]

end segment

section span

theorem linearSpan_length (la : Word32) (n : Nat) : (linearSpan la n).length = n := by
  induction n generalizing la with
  | zero => rfl
  | succ n ih => rw [linearSpan, List.length_cons, ih]

/-- The addresses of a span, each modulo 2^32 (21_segmentation.md R222). -/
theorem mem_linearSpan {la : Word32} {n a : Nat} : a ∈ linearSpan la n ↔ ∃ k < n, a = (la.toNat + k) % 2 ^ 32 := by
  induction n generalizing la with
  | zero => simp [linearSpan]
  | succ n ih =>
    have next : (la + 1).toNat = (la.toNat + 1) % 2 ^ 32 := BitVec.toNat_add ..
    rw [linearSpan, List.mem_cons, ih, next]
    constructor
    · rintro (rfl | ⟨k, hk, rfl⟩)
      · exact ⟨0, by omega, by omega⟩
      · exact ⟨k + 1, by omega, by omega⟩
    · rintro ⟨_ | k, hk, rfl⟩
      · exact .inl (by omega)
      · exact .inr ⟨k, by omega, by omega⟩

/-- A span that does not cover all linear addresses holds none of them twice. -/
theorem nodup_linearSpan {la : Word32} {n : Nat} (hn : n ≤ 2 ^ 32) : (linearSpan la n).Nodup := by
  induction n generalizing la with
  | zero => exact List.nodup_nil
  | succ n ih =>
    refine List.nodup_cons.mpr ⟨fun h => ?_, ih (by omega)⟩
    obtain ⟨k, hk, ha⟩ := mem_linearSpan.mp h
    have next : (la + 1).toNat = (la.toNat + 1) % 2 ^ 32 := BitVec.toNat_add ..
    omega

end span

section storing

/-- Storing bytes at distinct addresses: each address then holds its own. -/
theorem map_cellByte_setCells {as : List Nat} (hn : as.Nodup) {m : List Host.Cell} (hm : Memory.wf m = true)
    {bs : List Byte} (hl : bs.length = as.length) : as.map (cellByte (setCells m as bs)) = bs := by
  induction as generalizing m bs with
  | nil => rw [List.map_nil, List.eq_nil_of_length_eq_zero hl]
  | cons a as ih =>
    obtain ⟨b, bs, rfl⟩ := List.exists_cons_of_length_eq_add_one hl
    obtain ⟨ha, hn⟩ := List.nodup_cons.mp hn
    rw [setCells, List.map_cons, cellByte_setCells_other _ _ _ _ ha, cellByte_setCell_same m a b 0 hm,
      ih hn (wf_setCell m a b hm) (Nat.succ.inj hl)]

theorem sameBytes_stored (s : State) (x : Slot) (v : Nat) : sameBytes s (s.stored x v) x.addrs :=
  fun a ha => cellByte_setCells_other _ _ _ a ha

/-- Reading back a value stored in a slot, modulo its width (20_memory.md R120). -/
theorem ofBytes_stored {s : State} (hm : Memory.wf s.mem = true) {x : Slot} (hx : x.addrs.Nodup) (v : Nat) :
    ofBytes (x.addrs.map (s.stored x v).byteAt) = v % 256 ^ x.addrs.length := by
  have bytes : x.addrs.map (s.stored x v).byteAt = bytesOf x.addrs.length v :=
    map_cellByte_setCells hx hm (bytesOf_length _ _)
  rw [bytes, ofBytes_bytesOf]

end storing

section checks
variable {s : State} {seg : SegState} {isSs : Bool} {r : SegReg} {off la : Word32} {n align : Nat} {acc : Acc} {write : Bool}

theorem segCheck_ok (h : segOk s.protectedMode seg off n write = true) : segCheck seg isSs off n write s = .ok () s := by
  simp [segCheck, h]

/-- `#SS(0)` through SS, `#GP(0)` through another register (21_segmentation.md R237). -/
theorem segCheck_no (h : segOk s.protectedMode seg off n write = false) :
    segCheck seg isSs off n write s = .error (.exn ⟨if isSs then .ss else .gp, some 0, false⟩) s := by
  simp [segCheck, h, segFault]

theorem alignCheck_ok (h : s.acEnabled = true → la.toNat % align = 0) (user : Bool) :
    alignCheck la align user s = .ok () s := by
  cases hac : s.acEnabled with
  | false => simp [alignCheck, hac]
  | true => simp [alignCheck, h hac]

theorem alignCheck_no (hac : s.acEnabled = true) (h : la.toNat % align ≠ 0) :
    alignCheck la align true s = .error (.exn ⟨.ac, some 0, false⟩) s := by
  simp [alignCheck, hac, h]

/-- With paging off an access is made at its linear addresses (20_memory.md R126). -/
theorem linAddrs_unpaged (h : s.pg = false) (la : Word32) (n : Nat) (acc : Acc) :
    linAddrs la n acc s = .ok (linearSpan la n) s := by
  simp [linAddrs, h]

/-- The checks on the segment come first (20_memory.md R127). -/
theorem probe_segFault (h : segOk s.protectedMode seg off n acc.write = false) :
    probe seg isSs off n align acc s = .error (.exn ⟨if isSs then .ss else .gp, some 0, false⟩) s := by
  simp [probe, segCheck_no h]

/-- The alignment check comes next (20_memory.md R127, R131). -/
theorem probe_alignFault (h : segOk s.protectedMode seg off n acc.write = true) (hac : s.acEnabled = true)
    (user : acc.user = true) (ha : (seg.base + off).toNat % align ≠ 0) :
    probe seg isSs off n align acc s = .error (.exn ⟨.ac, some 0, false⟩) s := by
  simp [probe, segCheck_ok h, user, alignCheck_no hac ha]

theorem probe_unpaged (hpg : s.pg = false) (h : segOk s.protectedMode seg off n acc.write = true)
    (ha : s.acEnabled = true → (seg.base + off).toNat % align = 0) :
    probe seg isSs off n align acc s = .ok ⟨seg.base + off, linearSpan (seg.base + off) n⟩ s := by
  simp [probe, segCheck_ok h, alignCheck_ok ha, linAddrs_unpaged hpg]

/-- An ordinary access is one of level 3 or not, as the privilege level is (22_paging.md R270). -/
theorem memProbe_eq (r : SegReg) (off : Word32) (n align : Nat) (write : Bool) (s : State) :
    memProbe r off n align write s = probe (s.seg r) (decide (r = .ss)) off n align (s.userAcc write) s := by
  rw [memProbe, run_bind, run_get]

theorem memProbe_segFault (h : segOk s.protectedMode (s.seg r) off n write = false) :
    memProbe r off n align write s = .error (.exn ⟨if r = .ss then .ss else .gp, some 0, false⟩) s := by
  simpa using (memProbe_eq ..).trans (probe_segFault (acc := s.userAcc write) h)

/-- Where the check is enabled an ordinary access is one of level 3, so a misaligned one is found. -/
theorem memProbe_alignFault (h : segOk s.protectedMode (s.seg r) off n write = true) (hac : s.acEnabled = true)
    (ha : ((s.seg r).base + off).toNat % align ≠ 0) :
    memProbe r off n align write s = .error (.exn ⟨.ac, some 0, false⟩) s := by
  obtain ⟨-, -, -, hcpl⟩ := (acEnabled_iff s).mp hac
  exact (memProbe_eq ..).trans (probe_alignFault h hac (decide_eq_true hcpl) ha)

theorem memProbe_unpaged (hpg : s.pg = false) (h : segOk s.protectedMode (s.seg r) off n write = true)
    (ha : s.acEnabled = true → ((s.seg r).base + off).toNat % align = 0) :
    memProbe r off n align write s = .ok ⟨(s.seg r).base + off, linearSpan ((s.seg r).base + off) n⟩ s :=
  (memProbe_eq ..).trans (probe_unpaged hpg h ha)

end checks

section access
variable {s t : State} {r : SegReg} {off : Word32} {n align : Nat} {x : Slot}

theorem memRead_error {e : Err} (h : memProbe r off n align false s = .error e t) :
    memRead r off n align s = .error e t := by
  simp [memRead, h]

theorem memWrite_error {e : Err} (h : memProbe r off n align true s = .error e t) (v : Nat) :
    memWrite r off n align v s = .error e t := by
  simp [memWrite, h]

/-- A read of memory that is there answers its bytes and meets data breakpoints (20_memory.md R127). -/
theorem memRead_ram (h : memProbe r off n align false s = .ok x t) (hx : AllRam t.params x.addrs) :
    memRead r off n align s = .ok (ofBytes (x.addrs.map t.byteAt)) (t.dataBp x.la x.addrs.length false) := by
  simp [memRead, slotRead, h, physReadAt_ram hx]

/-- A write of memory that is there stores the value (20_memory.md R127). -/
theorem memWrite_ram (h : memProbe r off n align true s = .ok x t) (hx : x.isRam t = true) (v : Nat) :
    memWrite r off n align v s = .ok () (t.stored x v) := by
  rw [memWrite, run_bind, h]
  exact slotWrite_ok hx v

/-- With memory everywhere every slot is memory. -/
theorem Slot.isRam_of_empty (h : t.params.physMap = []) (x : Slot) : x.isRam t = true :=
  List.all_eq_true.mpr fun a ha => decide_eq_true (allRam_of_empty h x.addrs a ha)

end access

/-- Settles O48, from the checks of `memProbe` in their order and what a checked read or write does. -/
theorem memoryAccessUnpaged : Obligations.MemoryAccessUnpaged := by
  intro r off n align v s hpg _ hn hmap hmem la
  have width := linearSpan_length la n
  refine ⟨acEnabled_iff s, cpl_eq s, fun p before after m => ⟨fun none => ?_, fun o ho hp last => ?_⟩,
    fun pm g write => ⟨inLimit_iff g off n, segOk_iff pm g off n write⟩, fun write bad => ?_,
    fun good => ⟨fun hac odd => ?_, fun aligned => ?_⟩, fun good => ⟨fun hac odd => ?_, fun aligned => ?_⟩⟩
  · rw [operandSeg_of_no_override none]
    rcases defaultSeg_cases m with ⟨based, seg⟩ | ⟨based, seg⟩
    · exact ⟨fun _ => seg, fun other => absurd based other⟩
    · exact ⟨fun other => absurd other based, fun _ => seg⟩
  · rw [hp]
    exact operandSeg_of_last ho last m
  · cases write with
    | true => exact memWrite_error (memProbe_segFault bad) v
    | false => exact memRead_error (memProbe_segFault bad)
  · exact memRead_error (memProbe_alignFault good hac odd)
  · rw [memRead_ram (memProbe_unpaged hpg good aligned) (allRam_of_empty hmap _), width]
  · exact memWrite_error (memProbe_alignFault good hac odd) v
  · have nodup : (linearSpan la n).Nodup := nodup_linearSpan (by omega)
    have back := ofBytes_stored hmem (x := ⟨la, linearSpan la n⟩) nodup v
    refine ⟨_, memWrite_ram (memProbe_unpaged hpg good aligned) (Slot.isRam_of_empty hmap _) v, ?_,
      sameBytes_stored s ⟨la, linearSpan la n⟩ v, by rwa [width] at back⟩
    rw [State.stored, width]
    rfl

end Sys2Proof.Machine
end

section
/-! Descriptor tables: which entry a selector or a vector names, the eight bytes read for it and when none are read
(21_segmentation.md R190, R203 to R206), and where a descriptor keeps its fields (R192). -/

namespace Sys2Proof.Machine

open Sys2Proof

section bytes

/-- The addresses of a span are those of its first bytes and then those of the rest. -/
theorem linearSpan_add (la : Word32) (m n : Nat) :
    linearSpan la (m + n) = linearSpan la m ++ linearSpan (la + BitVec.ofNat 32 m) n := by
  induction m generalizing la with
  | zero => simp [linearSpan]
  | succ m ih =>
    have next : la + 1 + BitVec.ofNat 32 m = la + BitVec.ofNat 32 (m + 1) := by
      rw [Nat.add_comm m 1, BitVec.ofNat_add, ← BitVec.add_assoc]
      rfl
    rw [Nat.succ_add, linearSpan, ih, next, linearSpan, List.cons_append]

/-- The bytes that come first are the low ones (20_memory.md R120). -/
theorem ofBytes_append (as bs : List Byte) : ofBytes (as ++ bs) = ofBytes as + 256 ^ as.length * ofBytes bs := by
  induction as with
  | nil => simp [ofBytes]
  | cons a as ih =>
    rw [List.cons_append, ofBytes, ih, ofBytes, List.length_cons, pow_succ']
    ring

/-- With paging off and memory everywhere, a linear read answers the bytes at its addresses. -/
theorem linRead_unpaged {s : State} (hpg : s.pg = false) (hmap : s.params.physMap = []) (la : Word32) (n : Nat)
    (acc : Acc) : linRead la n acc s = .ok (ofBytes ((linearSpan la n).map s.byteAt)) s := by
  rw [linRead, run_bind, linAddrs_unpaged hpg]
  exact physReadAt_ram (allRam_of_empty hmap _)

end bytes

section entry
variable {base : Word32} {limit index raw : Nat} {ok : Bool} {s u : State} {e : Err}

/-- The linear read of the eight bytes of an entry, wherever the table ends (21_segmentation.md R206). -/
def readEntry (base : Word32) (index : Nat) : M Nat := linRead (base + BitVec.ofNat 32 (index * 8)) 8 Acc.supRead

/-- A descriptor from the value of its eight bytes (21_segmentation.md R192). -/
def Desc.ofRaw (raw : Nat) : Desc := ⟨BitVec.ofNat 32 raw, BitVec.ofNat 32 (raw / 2 ^ 32)⟩

theorem Desc.ofRaw_lo (raw : Nat) : (Desc.ofRaw raw).lo.toNat = raw % 2 ^ 32 := BitVec.toNat_ofNat ..

theorem Desc.ofRaw_hi (raw : Nat) : (Desc.ofRaw raw).hi.toNat = raw / 2 ^ 32 % 2 ^ 32 := BitVec.toNat_ofNat ..

/-- The eight bytes of an entry are its low doubleword and then its high one. -/
theorem Desc.ofRaw_bytes {lo hi : List Byte} (hlo : lo.length = 4) (hhi : hi.length = 4) :
    (Desc.ofRaw (ofBytes (lo ++ hi))).lo.toNat = ofBytes lo ∧ (Desc.ofRaw (ofBytes (lo ++ hi))).hi.toNat = ofBytes hi := by
  have lowBound := ofBytes_lt lo
  have highBound := ofBytes_lt hi
  rw [hlo] at lowBound
  rw [hhi] at highBound
  rw [Desc.ofRaw_lo, Desc.ofRaw_hi, ofBytes_append, hlo]
  omega

/-- An entry beyond the limit, or of a table that is not there, is not read. -/
theorem tableRead_none (h : ok = false ∨ limit < index * 8 + 7) : tableRead base limit ok index s = .ok none s := by
  simp [tableRead, h]

/-- An entry within the limit is a linear read with supervisor privilege. -/
theorem tableRead_within (h : index * 8 + 7 ≤ limit) :
    tableRead base limit true index = (fun raw => some (Desc.ofRaw raw)) <$> readEntry base index := by
  simp [tableRead, Nat.not_lt.mpr h, Desc.ofRaw, readEntry]

theorem tableRead_error (h : index * 8 + 7 ≤ limit) (read : readEntry base index s = .error e u) :
    tableRead base limit true index s = .error e u := by
  rw [tableRead_within h, run_map, read]

theorem tableRead_some (h : index * 8 + 7 ≤ limit) (read : readEntry base index s = .ok raw u) :
    tableRead base limit true index s = .ok (some (Desc.ofRaw raw)) u := by
  rw [tableRead_within h, run_map, read]

/-- What a read of a table that is there raises, the linear read of an entry within the limit raised. -/
theorem tableRead_eq_error : tableRead base limit true index s = .error e u ↔ index * 8 + 7 ≤ limit ∧
    readEntry base index s = .error e u := by
  constructor
  · intro h
    rcases Nat.lt_or_ge limit (index * 8 + 7) with beyond | within
    · simp [tableRead_none (.inr beyond)] at h
    cases read : readEntry base index s with
    | ok raw t => simp [tableRead_some within read] at h
    | error e' t =>
      cases (tableRead_error within read).symm.trans h
      exact ⟨within, rfl⟩
  · exact fun ⟨within, read⟩ => tableRead_error within read

/-- An entry that was read stands within the limit and is what the linear read answered. -/
theorem tableRead_eq_some {d : Desc} : tableRead base limit true index s = .ok (some d) u ↔ index * 8 + 7 ≤ limit ∧
    ∃ raw, readEntry base index s = .ok raw u ∧ d = Desc.ofRaw raw := by
  constructor
  · intro h
    rcases Nat.lt_or_ge limit (index * 8 + 7) with beyond | within
    · simp [tableRead_none (.inr beyond)] at h
    cases read : readEntry base index s with
    | ok raw t =>
      cases (tableRead_some within read).symm.trans h
      exact ⟨within, raw, rfl, rfl⟩
    | error e' t => simp [tableRead_error within read] at h
  · rintro ⟨within, raw, read, rfl⟩
    exact tableRead_some within read

/-- With paging off the two doublewords of an entry are those at its place, the low one first. -/
theorem tableRead_unpaged (h : index * 8 + 7 ≤ limit) (hpg : s.pg = false) (hmap : s.params.physMap = []) :
    ∃ x, tableRead base limit true index s = .ok (some x) s ∧
      x.lo.toNat = ofBytes ((linearSpan (base + BitVec.ofNat 32 (index * 8)) 4).map s.byteAt) ∧
      x.hi.toNat = ofBytes ((linearSpan (base + BitVec.ofNat 32 (index * 8) + 4) 4).map s.byteAt) := by
  refine ⟨_, tableRead_some h (linRead_unpaged hpg hmap ..), ?_⟩
  rw [linearSpan_add _ 4 4, List.map_append]
  exact Desc.ofRaw_bytes (by rw [List.length_map, linearSpan_length]) (by rw [List.length_map, linearSpan_length])

end entry

section selector
variable {sel : Word16} {s : State}

/-- The table indicator is bit 2 of a selector (21_segmentation.md R190). -/
theorem selTi_eq (sel : Word16) : selTi sel = decide (sel.toNat / 4 % 2 = 1) := Nat.testBit_eq_decide_div_mod_eq

theorem readDescriptor_gdt (h : sel.toNat / 4 % 2 = 0) :
    readDescriptor sel s = tableRead s.gdtr.base s.gdtr.limit.toNat true (sel.toNat / 8) s := by
  simp [readDescriptor, selTi_eq, h, selIndex]

theorem readDescriptor_ldt (h : sel.toNat / 4 % 2 = 1) :
    readDescriptor sel s = tableRead s.ldtr.base s.ldtr.limit.toNat s.ldtr.valid (sel.toNat / 8) s := by
  simp [readDescriptor, selTi_eq, h, selIndex]

end selector

section idt
variable {vector : Byte} {raw : Nat} {d : Desc} {s u : State} {e : Err}

/-- What the read of an IDT entry raises, the gate's read raises (60_exceptions.md R780). -/
theorem readIdtGate_error (h : vector.toNat * 8 + 7 ≤ s.idtr.limit.toNat)
    (read : readEntry s.idtr.base vector.toNat s = .error e u) (soft : Bool) :
    readIdtGate vector soft s = .error e u := by
  rw [readEntry] at read
  simp [readIdtGate, Nat.not_lt.mpr h, read]

/-- An entry that was read is the gate, or a check of the gate refuses it (60_exceptions.md R800). -/
theorem readIdtGate_checked (h : vector.toNat * 8 + 7 ≤ s.idtr.limit.toNat)
    (read : readEntry s.idtr.base vector.toNat s = .ok raw u) (soft : Bool) :
    readIdtGate vector soft s = .ok (Desc.ofRaw raw) u ∨ ∃ x, readIdtGate vector soft s = .error x u := by
  rw [readEntry] at read
  simp only [readIdtGate, run_bind, run_get, run_ite, gt_iff_lt, Nat.not_lt.mpr h, if_false, read]
  split
  · exact .inr ⟨_, rfl⟩
  split
  · exact .inr ⟨_, rfl⟩
  split
  · exact .inr ⟨_, rfl⟩
  · exact .inl rfl

theorem readIdtGate_of_tableRead_error
    (h : tableRead s.idtr.base s.idtr.limit.toNat true vector.toNat s = .error e u) (soft : Bool) :
    readIdtGate vector soft s = .error e u := by
  obtain ⟨within, read⟩ := tableRead_eq_error.mp h
  exact readIdtGate_error within read soft

theorem readIdtGate_of_tableRead_some
    (h : tableRead s.idtr.base s.idtr.limit.toNat true vector.toNat s = .ok (some d) u) (soft : Bool) :
    readIdtGate vector soft s = .ok d u ∨ ∃ x, readIdtGate vector soft s = .error x u := by
  obtain ⟨within, raw, read, rfl⟩ := tableRead_eq_some.mp h
  exact readIdtGate_checked within read soft

end idt

section fields

/-- Two fields side by side: the upper one counts in units of the width of the lower. -/
theorem toNat_append_eq_add {m n : Nat} (x : BitVec m) (y : BitVec n) : (x ++ y).toNat = x.toNat * 2 ^ n + y.toNat := by
  rw [BitVec.toNat_append, ← Nat.shiftLeft_add_eq_or_of_lt y.isLt, Nat.shiftLeft_eq]

theorem toNat_extractLsb'_eq_div {w : Nat} (v : BitVec w) (start len : Nat) :
    (v.extractLsb' start len).toNat = v.toNat / 2 ^ start % 2 ^ len := by
  rw [BitVec.extractLsb'_toNat, Nat.shiftRight_eq_div_pow]

theorem descBase_toNat (d : Desc) : (descBase d).toNat =
    d.lo.toNat / 2 ^ 16 + d.hi.toNat % 2 ^ 8 * 2 ^ 16 + d.hi.toNat / 2 ^ 24 * 2 ^ 24 := by
  have lo := d.lo.isLt
  have hi := d.hi.isLt
  rw [descBase, toNat_append_eq_add, toNat_append_eq_add]
  simp only [toNat_extractLsb'_eq_div]
  omega

theorem descLimit20_toNat (d : Desc) : (descLimit20 d).toNat =
    d.lo.toNat % 2 ^ 16 + d.hi.toNat / 2 ^ 16 % 2 ^ 4 * 2 ^ 16 := by
  rw [descLimit20, toNat_append_eq_add]
  simp only [toNat_extractLsb'_eq_div]
  omega

theorem descType_toNat (d : Desc) : (descType d).toNat = d.hi.toNat / 2 ^ 8 % 2 ^ 4 := toNat_extractLsb'_eq_div ..

theorem descDpl_toNat (d : Desc) : (descDpl d).toNat = d.hi.toNat / 2 ^ 13 % 2 ^ 2 := toNat_extractLsb'_eq_div ..

end fields

/-- Settles O15, from what a table read is within the limit and beyond it, the table a selector names, and the places of the
fields. -/
theorem descriptorTableReads : Obligations.DescriptorTableReads := by
  intro base limit index raw ok soft vector sel d s u e place out idt
  refine ⟨tableRead_none, ?within, readDescriptor_gdt, readDescriptor_ldt,
    fun raised => readIdtGate_of_tableRead_error raised soft, fun found => readIdtGate_of_tableRead_some found soft,
    descBase_toNat d, descLimit20_toNat d, descType_toNat d, rfl, descDpl_toNat d, rfl, rfl⟩
  rintro rfl within
  exact ⟨tableRead_error within,
    fun read => ⟨Desc.ofRaw raw, tableRead_some within read, Desc.ofRaw_lo raw, Desc.ofRaw_hi raw⟩,
    tableRead_unpaged within⟩

end Sys2Proof.Machine
end

section
/-! Page-table walks: how a page fault is reported, what the check of one entry answers, and the two levels that a walk with 32-bit
entries and one with 64-bit entries share (22_paging.md R270, R283, R286, R290, R292, R312). -/

namespace Sys2Proof.Machine

open Sys2Proof

section report
variable {α : Type} {la : Word32} {acc : Acc} {present rsvd : Bool} {s : State}

theorem bit_or (x y : Word32) (k : Nat) : bit (x ||| y) k = (bit x k || bit y k) := BitVec.getLsbD_or

theorem bit_ite (b : Bool) (x : Word32) (k : Nat) : bit (if b then x else 0) k = (b && bit x k) := by
  cases b with
  | false => exact BitVec.getLsbD_zero
  | true => rfl

/-- Where the mask is clear, a value filled up under it from another one keeps its own bit. -/
theorem bit_fill {mask : Word32} {k : Nat} (h : bit mask k = false) (hk : k < 32) (x y : Word32) :
    bit ((x &&& ~~~mask) ||| (y &&& mask)) k = bit x k := by
  rw [bit_or]
  unfold bit at *
  rw [BitVec.getLsbD_and, BitVec.getLsbD_and, BitVec.getLsbD_not, h]
  simp [hk]

/-- The defined bits of a page fault's error code (22_paging.md R286). -/
theorem bits_pfCode (user3 : Bool) (acc : Acc) (present rsvd : Bool) :
    bit (pfCode user3 acc present rsvd) 0 = present ∧ bit (pfCode user3 acc present rsvd) 1 = acc.write ∧
      bit (pfCode user3 acc present rsvd) 2 = user3 ∧ bit (pfCode user3 acc present rsvd) 3 = rsvd := by
  have at0 : bit 1 0 = true ∧ bit 2 0 = false ∧ bit 4 0 = false ∧ bit 8 0 = false := by decide
  have at1 : bit 1 1 = false ∧ bit 2 1 = true ∧ bit 4 1 = false ∧ bit 8 1 = false := by decide
  have at2 : bit 1 2 = false ∧ bit 2 2 = false ∧ bit 4 2 = true ∧ bit 8 2 = false := by decide
  have at3 : bit 1 3 = false ∧ bit 2 3 = false ∧ bit 4 3 = false ∧ bit 8 3 = true := by decide
  simp only [pfCode, bit_or, bit_ite, at0, at1, at2, at3, Bool.and_true, Bool.and_false, Bool.or_false, Bool.false_or, and_self]

/-- Bits 0 to 2 of the error code are defined everywhere. -/
theorem bit_pfUndefined_low (p : Params) {k : Nat} (hk : k < 3) : bit (pfUndefined p) k = false := by
  have masks : ∀ k < 3, bit 0xFFFFFFF0 k = false ∧ bit 0xFFFFFFF8 k = false := by decide
  obtain ⟨three, four⟩ := masks k hk
  unfold pfUndefined
  split <;> assumption

/-- Bit 3 of the error code is defined where reserved bits can be found set by every walk (22_paging.md R286). -/
theorem bit_pfUndefined_rsvd {p : Params} (h : p.hasPSE36 = true ∨ p.hasPAE = true) : bit (pfUndefined p) 3 = false := by
  have defined : (p.hasPSE36 || p.hasPAE) = true := by simpa using h
  rw [pfUndefined, if_pos defined]
  rfl

/-- Reporting a page fault is a page fault that names the address. -/
theorem pageFaults_pageFault :
    pageFaults (pageFault la acc present rsvd s : EStateM.Result Err State α) s la acc present rsvd := by
  obtain ⟨code0, code1, code2, code3⟩ := bits_pfCode (decide (s.cpl = 3)) acc present rsvd
  refine ⟨_, rfl, ?_, ?_, ?_, fun defined => ?_⟩
  · rw [bit_fill (bit_pfUndefined_low _ (by decide)) (by decide), code0]
  · rw [bit_fill (bit_pfUndefined_low _ (by decide)) (by decide), code1]
  · rw [bit_fill (bit_pfUndefined_low _ (by decide)) (by decide), code2]
  · rw [bit_fill (bit_pfUndefined_rsvd defined) (by decide), code3]

end report

section rights
variable {α : Type} {us rw : Bool} {acc : Acc} {la : Word32} {s : State}

/-- The permission function refuses just what the rights do not allow (22_paging.md R283). -/
theorem rightsRefused_iff : rightsRefused us rw acc s.wp = true ↔ ¬pageAllows s acc us rw := by
  unfold rightsRefused pageAllows
  cases acc.user with
  | true => cases us <;> simp
  | false => cases rw <;> simp

/-- After the check of rights comes what follows it, or a page fault. -/
theorem run_checkRights_bind (k : Unit → M α) : (checkRights us rw acc la >>= k) s =
    if rightsRefused us rw acc s.wp then pageFault la acc true false s else k () s := by
  rw [run_bind, checkRights, run_bind, run_get]
  dsimp only
  cases rightsRefused us rw acc s.wp <;> rfl

end rights

section reserved

/-- A field of an entry is not zero where one of its bits is set. -/
theorem field_ne_zero_iff {v hi lo : Nat} (h : lo ≤ hi) :
    field v hi lo ≠ 0 ↔ ∃ k, lo ≤ k ∧ k ≤ hi ∧ v.testBit k = true := by
  have bits (i : Nat) : (field v hi lo).testBit i = (decide (i < hi - lo + 1) && v.testBit (lo + i)) := by
    rw [field, Nat.testBit_mod_two_pow, Nat.testBit_shiftRight]
  constructor
  · intro nonzero
    obtain ⟨i, set⟩ := Nat.exists_testBit_of_ne_zero nonzero
    rw [bits, Bool.and_eq_true, decide_eq_true_eq] at set
    exact ⟨lo + i, by omega, by omega, set.2⟩
  · rintro ⟨k, above, below, set⟩ zero
    have clear := bits (k - lo)
    rw [zero, Nat.zero_testBit, Nat.add_sub_cancel' above, set, Bool.and_true, eq_comm, decide_eq_false_iff_not] at clear
    omega

/-- The reserved bits of a 32-bit page-directory entry that maps a 4-Mbyte page (22_paging.md R292). -/
theorem pde4mRsvd_iff (p : Params) (pde : Nat) :
    pde4mRsvd p pde = true ↔ ∃ k, (if p.hasPSE36 then 17 else 12) ≤ k ∧ k ≤ 21 ∧ pde.testBit k = true := by
  unfold pde4mRsvd
  cases p.hasPSE36 with
  | true => exact decide_eq_true_iff.trans (field_ne_zero_iff (by decide))
  | false => exact decide_eq_true_iff.trans (field_ne_zero_iff (by decide))

theorem pdeRsvd32_iff (p : Params) (pde : Nat) : pdeRsvd32 p pde = true ↔
    p.checkSmallPageBits = true ∧ pde.testBit 6 = true ∨ p.hasPGE = false ∧ pde.testBit 8 = true := by
  simp [pdeRsvd32]

theorem pteRsvd32_iff (p : Params) (pte : Nat) : pteRsvd32 p pte = true ↔
    p.checkSmallPageBits = true ∧ pte.testBit 7 = true ∨ p.hasPGE = false ∧ pte.testBit 8 = true := by
  simp [pteRsvd32]

theorem rsvdChecked_iff (s : State) : s.rsvdChecked = true ↔ s.cr4Pse = true ∨ s.cr4Pae = true := by
  simp [State.rsvdChecked]

theorem pdePaeRsvd_iff (p : Params) (pde : Nat) : pdePaeRsvd p pde = true ↔
    (∃ k, 36 ≤ k ∧ k ≤ 63 ∧ pde.testBit k = true) ∨
      if pde.testBit 7 = true then ∃ k, 13 ≤ k ∧ k ≤ 20 ∧ pde.testBit k = true
      else p.checkSmallPageBits = true ∧ pde.testBit 6 = true := by
  rw [pdePaeRsvd, Bool.or_eq_true, decide_eq_true_iff, field_ne_zero_iff (by decide)]
  refine or_congr_right ?_
  split
  · exact decide_eq_true_iff.trans (field_ne_zero_iff (by decide))
  · exact Bool.and_eq_true_iff

theorem ptePaeRsvd_iff (p : Params) (pte : Nat) : ptePaeRsvd p pte = true ↔
    (∃ k, 36 ≤ k ∧ k ≤ 63 ∧ pte.testBit k = true) ∨ p.checkSmallPageBits = true ∧ pte.testBit 7 = true := by
  rw [ptePaeRsvd, Bool.or_eq_true, decide_eq_true_iff, field_ne_zero_iff (by decide), Bool.and_eq_true]

end reserved

section entry
variable {α : Type} {entry : Nat} {rsvd : Bool} {acc : Acc} {la : Word32} {s : State}

/-- The checks of one entry of a walk in their order: present, reserved bits, rights (22_paging.md R270, R292; log entry 18). -/
def checkEntry (entry : Nat) (rsvd : Bool) (acc : Acc) (la : Word32) : M Unit :=
  if !entry.testBit 0 then pageFault la acc false false
  else if rsvd then pageFault la acc true true
  else checkRights (entry.testBit 2) (entry.testBit 1) acc la

/-- The entry passes its checks. -/
def EntryPasses (s : State) (acc : Acc) (entry : Nat) (rsvd : Bool) : Prop :=
  entry.testBit 0 = true ∧ rsvd = false ∧ pageAllows s acc (entry.testBit 2) (entry.testBit 1)

/-- After the checks of an entry comes what follows them, or a page fault. -/
theorem run_checkEntry_bind (k : Unit → M α) : (checkEntry entry rsvd acc la >>= k) s =
    if !entry.testBit 0 then pageFault la acc false false s
    else if rsvd then pageFault la acc true true s
    else if rightsRefused (entry.testBit 2) (entry.testBit 1) acc s.wp then pageFault la acc true false s
    else k () s := by
  unfold checkEntry
  split
  · rfl
  split
  · rfl
  exact run_checkRights_bind k

theorem checkEntry_bind_ok (h : EntryPasses s acc entry rsvd) (k : Unit → M α) :
    (checkEntry entry rsvd acc la >>= k) s = k () s := by
  obtain ⟨present, good, allowed⟩ := h
  have pass : ¬rightsRefused (entry.testBit 2) (entry.testBit 1) acc s.wp = true :=
    fun refused => rightsRefused_iff.mp refused allowed
  rw [run_checkEntry_bind, present, good, if_neg pass]
  rfl

theorem checkEntry_bind_absent (absent : entry.testBit 0 = false) (k : Unit → M α) :
    pageFaults ((checkEntry entry rsvd acc la >>= k) s) s la acc false false := by
  rw [run_checkEntry_bind, absent]
  exact pageFaults_pageFault

theorem checkEntry_bind_reserved (present : entry.testBit 0 = true) (bad : rsvd = true) (k : Unit → M α) :
    pageFaults ((checkEntry entry rsvd acc la >>= k) s) s la acc true true := by
  rw [run_checkEntry_bind, present, bad]
  exact pageFaults_pageFault

theorem checkEntry_bind_refused (present : entry.testBit 0 = true) (good : rsvd = false)
    (refused : ¬pageAllows s acc (entry.testBit 2) (entry.testBit 1)) (k : Unit → M α) :
    pageFaults ((checkEntry entry rsvd acc la >>= k) s) s la acc true false := by
  rw [run_checkEntry_bind, present, good, rightsRefused_iff.mpr refused]
  exact pageFaults_pageFault

/-- What completes after the checks of an entry is what follows them. -/
theorem of_checkEntry_bind_ok {k : Unit → M α} {a : α} {t : State}
    (h : (checkEntry entry rsvd acc la >>= k) s = .ok a t) : k () s = .ok a t := by
  rw [run_checkEntry_bind] at h
  split at h
  · cases h
  split at h
  · cases h
  split at h
  · cases h
  · exact h

end entry

section read
variable {α : Type} {s : State}

/-- With memory everywhere an entry is read as it stands. -/
theorem physRead_entry (h : s.params.physMap = []) (a n : Nat) : physRead a n s = .ok (s.entry a n) s :=
  physReadAt_ram (allRam_of_empty h _)

theorem run_read_bind (h : s.params.physMap = []) (a n : Nat) (k : Nat → M α) :
    (physRead a n >>= k) s = k (s.entry a n) s := by
  rw [run_bind, physRead_entry h]

theorem run_get_bind (k : State → M α) : (get >>= k) s = k s s := rfl

end read

section levels

/-- What a walk finds at its two levels, of either format: where the directory entry is, what it holds, whether reserved bits of it
are set where they are checked, and whether it maps a large page, of which size and frame; then the same of the page-table entry. -/
structure Levels where
  dir : Nat
  pde : Nat
  pdeRsvd : Bool
  large : Bool
  size : PageSize
  largeFrame : Nat
  table : Nat
  pte : Nat
  pteRsvd : Bool
  frame : Nat

/-- The translation found when every check passes (22_paging.md R270, R279, R290, R312). -/
def Levels.xlat (w : Levels) (s : State) (la : Word32) (acc : Acc) : Xlat :=
  if w.large then
    xlatOf s w.size w.largeFrame la (w.pde.testBit 2) (w.pde.testBit 1) (acc.write || w.pde.testBit 6) (w.pde.testBit 8)
      (leafMark w.dir w.pde acc)
  else
    xlatOf s .k4 w.frame la (w.pde.testBit 2 && w.pte.testBit 2) (w.pde.testBit 1 && w.pte.testBit 1)
      (acc.write || w.pte.testBit 6) (w.pte.testBit 8) (dirMark w.dir w.pde ++ leafMark w.table w.pte acc)

/-- The two levels of a walk: the checks of the directory entry, and of the page-table entry where there is one. -/
def Levels.run (w : Levels) (la : Word32) (acc : Acc) : M Xlat := do
  let s ← get
  checkEntry w.pde w.pdeRsvd acc la
  if w.large then pure (w.xlat s la acc)
  else do
    checkEntry w.pte w.pteRsvd acc la
    pure (w.xlat s la acc)

/-- The levels of the walk with 32-bit entries (22_paging.md R270, R290, R292). -/
def State.levels32 (s : State) (la : Word32) : Levels :=
  let pde := s.entry (s.dirAddr32 la) 4
  let pte := s.entry (s.tableAddr32 la) 4
  { dir := s.dirAddr32 la
    pde := pde
    pdeRsvd := if s.large32 la then pde4mRsvd s.params pde else s.rsvdChecked && pdeRsvd32 s.params pde
    large := s.large32 la
    size := .m4
    largeFrame := field pde 31 22 * 2 ^ 22 + (if s.params.hasPSE36 then field pde 16 13 * 2 ^ 32 else 0)
    table := s.tableAddr32 la
    pte := pte
    pteRsvd := s.rsvdChecked && pteRsvd32 s.params pte
    frame := field pte 31 12 * 4096 }

/-- The levels of the walk with 64-bit entries below the page-directory-pointer table (22_paging.md R292, R312). -/
def State.levelsPae (s : State) (la : Word32) : Levels :=
  let pde := s.entry (s.dirAddrPae la) 8
  let pte := s.entry (s.tableAddrPae la) 8
  { dir := s.dirAddrPae la
    pde := pde
    pdeRsvd := pdePaeRsvd s.params pde
    large := pde.testBit 7
    size := .m2
    largeFrame := field pde 35 21 * 2 ^ 21
    table := s.tableAddrPae la
    pte := pte
    pteRsvd := ptePaeRsvd s.params pte
    frame := field pte 35 12 * 4096 }

variable {s t : State} {la : Word32} {acc : Acc}

/-- With memory everywhere the walk with 32-bit entries is the checks of its two levels. -/
theorem walk32_eq (h : s.params.physMap = []) : walk32 la acc s = (s.levels32 la).run la acc s := by
  have dir : field s.cr3.toNat 31 12 * 4096 + field la.toNat 31 22 * 4 = s.dirAddr32 la := rfl
  have maps : (s.params.hasPSE && s.cr4Pse && (s.entry (s.dirAddr32 la) 4).testBit 7) = s.large32 la := rfl
  have table : field (s.entry (s.dirAddr32 la) 4) 31 12 * 4096 + field la.toNat 21 12 * 4 = s.tableAddr32 la := rfl
  cases large : s.large32 la <;>
    simp only [walk32, Levels.run, Levels.xlat, State.levels32, run_get_bind, run_read_bind h, run_checkEntry_bind,
      run_checkRights_bind, run_ite, run_pure, dir, maps, table, large,
      Bool.false_eq_true, if_true, if_false]

theorem walkPae_absent (h : s.params.physMap = []) (absent : (s.pointerPae la).testBit 0 = false) :
    pageFaults (walkPae la acc s) s la acc false false := by
  unfold State.pointerPae at absent
  simp only [walkPae, run_get_bind, run_read_bind h, absent]
  exact pageFaults_pageFault

/-- With memory everywhere, and past the pointer entry, the walk with 64-bit entries is the checks of its two levels. -/
theorem walkPae_eq (h : s.params.physMap = []) (present : (s.pointerPae la).testBit 0 = true) :
    walkPae la acc s = (s.levelsPae la).run la acc s := by
  have pointer : s.entry (field s.cr3.toNat 31 5 * 32 + field la.toNat 31 30 * 8) 8 = s.pointerPae la := rfl
  have dir : field (s.pointerPae la) 35 12 * 4096 + field la.toNat 29 21 * 8 = s.dirAddrPae la := rfl
  have table : field (s.entry (s.dirAddrPae la) 8) 35 12 * 4096 + field la.toNat 20 12 * 8 = s.tableAddrPae la := rfl
  cases large : (s.entry (s.dirAddrPae la) 8).testBit 7 <;>
    simp only [walkPae, Levels.run, Levels.xlat, State.levelsPae, run_get_bind, run_read_bind h, run_checkEntry_bind,
      run_checkRights_bind, run_ite, run_pure, pointer, present, dir, table, large,
      Bool.not_true, Bool.false_eq_true, if_true, if_false]

variable {w : Levels}

theorem Levels.run_eq : w.run la acc s = (do
    checkEntry w.pde w.pdeRsvd acc la
    if w.large then pure (w.xlat s la acc)
    else do
      checkEntry w.pte w.pteRsvd acc la
      pure (w.xlat s la acc) : M Xlat) s := rfl

theorem Levels.run_dirAbsent (absent : w.pde.testBit 0 = false) : pageFaults (w.run la acc s) s la acc false false :=
  checkEntry_bind_absent absent _

theorem Levels.run_dirReserved (present : w.pde.testBit 0 = true) (bad : w.pdeRsvd = true) :
    pageFaults (w.run la acc s) s la acc true true :=
  checkEntry_bind_reserved present bad _

theorem Levels.run_dirRefused (present : w.pde.testBit 0 = true) (good : w.pdeRsvd = false)
    (refused : ¬pageAllows s acc (w.pde.testBit 2) (w.pde.testBit 1)) :
    pageFaults (w.run la acc s) s la acc true false :=
  checkEntry_bind_refused present good refused _

theorem Levels.run_large (dir : EntryPasses s acc w.pde w.pdeRsvd) (large : w.large = true) :
    w.run la acc s = .ok (w.xlat s la acc) s := by
  rw [Levels.run_eq, checkEntry_bind_ok dir, if_pos large, run_pure]

theorem Levels.run_table (dir : EntryPasses s acc w.pde w.pdeRsvd) (small : w.large = false) :
    w.run la acc s = (do checkEntry w.pte w.pteRsvd acc la; pure (w.xlat s la acc) : M Xlat) s := by
  rw [Levels.run_eq, checkEntry_bind_ok dir, small]
  rfl

/-- Once the directory entry passes its checks, the walk ends at a large page, or goes on to the checks of the page-table entry and
ends at a 4-Kbyte page; `bad` says when reserved bits of that entry are found set. -/
theorem Levels.run_past_dir {bad : Prop} (dir : EntryPasses s acc w.pde w.pdeRsvd) (rsvd : w.pteRsvd = true ↔ bad) :
    (w.large = true → ∃ x, w.run la acc s = .ok x s ∧ x.phys = w.largeFrame + la.toNat % 2 ^ w.size.shift) ∧
    (w.large = false →
      (w.pte.testBit 0 = false → pageFaults (w.run la acc s) s la acc false false) ∧
      (w.pte.testBit 0 = true → bad → pageFaults (w.run la acc s) s la acc true true) ∧
      (w.pte.testBit 0 = true → ¬bad →
        (¬pageAllows s acc (w.pte.testBit 2) (w.pte.testBit 1) → pageFaults (w.run la acc s) s la acc true false) ∧
        (pageAllows s acc (w.pte.testBit 2) (w.pte.testBit 1) →
          ∃ x, w.run la acc s = .ok x s ∧ x.phys = w.frame + la.toNat % 4096))) := by
  refine ⟨fun large => ⟨_, Levels.run_large dir large, ?_⟩, fun small => ?_⟩
  · rw [Levels.xlat, if_pos large]
    rfl
  rw [Levels.run_table dir small]
  refine ⟨fun absent => checkEntry_bind_absent absent _,
    fun present isBad => checkEntry_bind_reserved present (rsvd.mpr isBad) _, fun present notBad => ?_⟩
  have good : w.pteRsvd = false := Bool.eq_false_iff.mpr (mt rsvd.mp notBad)
  refine ⟨fun refused => checkEntry_bind_refused present good refused _,
    fun allowed => ⟨_, checkEntry_bind_ok ⟨present, good, allowed⟩ _, ?_⟩⟩
  rw [Levels.xlat, small]
  rfl

/-- A walk of the two levels that completes answers the translation and leaves the machine as it was. -/
theorem Levels.run_eq_ok {x : Xlat} (h : w.run la acc s = .ok x t) : x = w.xlat s la acc ∧ t = s := by
  have last := of_checkEntry_bind_ok (Levels.run_eq ▸ h)
  cases large : w.large with
  | true =>
    rw [large] at last
    cases last
    exact ⟨rfl, rfl⟩
  | false =>
    rw [large] at last
    cases of_checkEntry_bind_ok last
    exact ⟨rfl, rfl⟩

/-- When reserved bits of a directory entry of the 32-bit format are found set (22_paging.md R292). -/
theorem levels32_pdeRsvd_iff : (s.levels32 la).pdeRsvd = true ↔
    if s.large32 la = true then
      ∃ k, (if s.params.hasPSE36 then 17 else 12) ≤ k ∧ k ≤ 21 ∧ (s.levels32 la).pde.testBit k = true
    else (s.cr4Pse = true ∨ s.cr4Pae = true) ∧ (s.params.checkSmallPageBits = true ∧ (s.levels32 la).pde.testBit 6 = true ∨
      s.params.hasPGE = false ∧ (s.levels32 la).pde.testBit 8 = true) := by
  rw [← rsvdChecked_iff, ← pdeRsvd32_iff, ← pde4mRsvd_iff, ← Bool.and_eq_true_iff]
  simp only [State.levels32]
  split <;> rfl

/-- When reserved bits of a page-table entry of the 32-bit format are found set (22_paging.md R292). -/
theorem levels32_pteRsvd_iff : (s.levels32 la).pteRsvd = true ↔
    (s.cr4Pse = true ∨ s.cr4Pae = true) ∧ (s.params.checkSmallPageBits = true ∧ (s.levels32 la).pte.testBit 7 = true ∨
      s.params.hasPGE = false ∧ (s.levels32 la).pte.testBit 8 = true) := by
  rw [← rsvdChecked_iff, ← pteRsvd32_iff, ← Bool.and_eq_true_iff]
  rfl

end levels

/-- Settles O51: both walks are the checks of the same two levels, and each clause is what those checks answer. -/
theorem pageWalk : Obligations.PageWalk := by
  intro la acc s pde pte hmap someBit checked small
  constructor
  · intro hpde hpte
    rw [hpde, hpte]
    intro bad badPage
    rw [walk32_eq hmap]
    have dirRsvd : (s.levels32 la).pdeRsvd = true ↔ bad := levels32_pdeRsvd_iff
    have tableRsvd : (s.levels32 la).pteRsvd = true ↔ badPage := levels32_pteRsvd_iff
    refine ⟨fun absent => Levels.run_dirAbsent absent, fun present isBad => Levels.run_dirReserved present (dirRsvd.mpr isBad),
      fun present notBad => ?_⟩
    have good : (s.levels32 la).pdeRsvd = false := Bool.eq_false_iff.mpr (mt dirRsvd.mp notBad)
    exact ⟨fun refused => Levels.run_dirRefused present good refused,
      fun allowed => Levels.run_past_dir (w := s.levels32 la) ⟨present, good, allowed⟩ tableRsvd⟩
  · intro hpde hpte
    rw [hpde, hpte]
    intro bad badPage
    have dirRsvd : (s.levelsPae la).pdeRsvd = true ↔ bad := pdePaeRsvd_iff _ _
    have tableRsvd : (s.levelsPae la).pteRsvd = true ↔ badPage := ptePaeRsvd_iff _ _
    cases pointer : (s.pointerPae la).testBit 0 with
    | false => exact ⟨fun _ => walkPae_absent hmap pointer, fun present => nomatch present⟩
    | true =>
      rw [walkPae_eq hmap pointer]
      refine ⟨fun absent => Levels.run_dirAbsent (absent.resolve_left (by decide)),
        fun _ present => ⟨fun isBad => Levels.run_dirReserved present (dirRsvd.mpr isBad), fun notBad => ?_⟩⟩
      have good : (s.levelsPae la).pdeRsvd = false := Bool.eq_false_iff.mpr (mt dirRsvd.mp notBad)
      exact ⟨fun refused => Levels.run_dirRefused present good refused,
        fun allowed => Levels.run_past_dir (w := s.levelsPae la) ⟨present, good, allowed⟩ tableRsvd⟩

end Sys2Proof.Machine
end

section
/-! Accesses with paging on: the marks an access leaves in the entries of its walk, the pages it takes and the TLB it looks in
(22_paging.md R279, R284, R300, R301; 20_memory.md R128). -/

namespace Sys2Proof.Machine

open Sys2Proof

section mark
variable {s : State}

theorem mem_addrsFrom {a n x : Nat} : x ∈ addrsFrom a n ↔ a ≤ x ∧ x < a + n := by
  induction n generalizing a with
  | zero => simp [addrsFrom]
  | succ n ih =>
    rw [addrsFrom, List.mem_cons, ih]
    omega

theorem nodup_addrsFrom (a n : Nat) : (addrsFrom a n).Nodup := by
  induction n generalizing a with
  | zero => exact List.nodup_nil
  | succ n ih => exact List.nodup_cons.mpr ⟨fun h => by have := mem_addrsFrom.mp h; omega, ih _⟩

theorem addrsFrom_length (a n : Nat) : (addrsFrom a n).length = n := by
  induction n generalizing a with
  | zero => rfl
  | succ n ih => rw [addrsFrom, List.length_cons, ih]

/-- The little-endian bytes of a value made of bytes are these (20_memory.md R120). -/
theorem bytesOf_ofBytes (bs : List Byte) : bytesOf bs.length (ofBytes bs) = bs := by
  induction bs with
  | nil => rfl
  | cons b bs ih =>
    have low := b.isLt
    have rest : (b.toNat + 256 * ofBytes bs) / 256 = ofBytes bs := by omega
    rw [List.length_cons, ofBytes, bytesOf, rest, ih]
    congr 1
    apply BitVec.eq_of_toNat_eq
    rw [BitVec.toNat_ofNat]
    omega

/-- Setting bits in the lowest byte of a value made of bytes. -/
theorem bytesOf_ofBytes_or (b : Byte) (bs : List Byte) {m : Nat} (hm : m < 256) :
    bytesOf (bs.length + 1) (ofBytes (b :: bs) ||| m) = (b ||| BitVec.ofNat 8 m) :: bs := by
  have hb := b.isLt
  have low : ofBytes (b :: bs) % 2 ^ 8 = b.toNat := by rw [ofBytes]; omega
  have high : ofBytes (b :: bs) / 2 ^ 8 = ofBytes bs := by rw [ofBytes]; omega
  have rest : (ofBytes (b :: bs) ||| m) / 256 = ofBytes bs := by
    rw [show 256 = 2 ^ 8 from rfl, Nat.or_div_two_pow, high, Nat.div_eq_of_lt hm, Nat.or_zero]
  rw [bytesOf, rest, bytesOf_ofBytes]
  congr 1
  apply BitVec.eq_of_toNat_eq
  rw [BitVec.toNat_ofNat, BitVec.toNat_or, BitVec.toNat_ofNat, Nat.or_mod_two_pow, low]

/-- A write that stores a function of the address leaves it at the addresses written and nothing elsewhere. -/
theorem cellByte_setCells_map {m : List Host.Cell} (hm : Memory.wf m = true) {as : List Nat} (hn : as.Nodup)
    {g : Nat → Byte} (outside : ∀ x, x ∉ as → g x = cellByte m x) (x : Nat) :
    cellByte (setCells m as (as.map g)) x = g x := by
  by_cases hx : x ∈ as
  · exact List.map_inj_left.mp (map_cellByte_setCells hn hm (List.length_map _)) x hx
  · rw [cellByte_setCells_other _ _ _ _ hx, outside x hx]

/-- The bits that marks set in the byte at an address. -/
def markBits : List (Nat × Nat) → Nat → Byte
  | [], _ => 0
  | (a, bits) :: rest, x => (if x = a then BitVec.ofNat 8 bits else 0) ||| markBits rest x

theorem markBits_append (xs ys : List (Nat × Nat)) (a : Nat) :
    markBits (xs ++ ys) a = markBits xs a ||| markBits ys a := by
  induction xs with
  | nil => exact BitVec.zero_or.symm
  | cons x xs ih =>
    obtain ⟨b, bits⟩ := x
    rw [List.cons_append, markBits, markBits, ih, BitVec.or_assoc]

/-- Setting bits in the lowest byte of an entry (22_paging.md R279). -/
theorem cellByte_mark {m : List Host.Cell} (hm : Memory.wf m = true) {bits : Nat} (hb : bits < 256) (a x : Nat) :
    cellByte (setCells m (addrsFrom a 4) (bytesOf 4 (ofBytes ((addrsFrom a 4).map (cellByte m)) ||| bits))) x =
      cellByte m x ||| (if x = a then BitVec.ofNat 8 bits else 0) := by
  have rest : (addrsFrom (a + 1) 3).map (fun x => cellByte m x ||| (if x = a then BitVec.ofNat 8 bits else 0)) =
      (addrsFrom (a + 1) 3).map (cellByte m) := List.map_congr_left fun y hy => by
    have above := mem_addrsFrom.mp hy
    rw [if_neg (by omega)]
    exact BitVec.or_zero
  have bytes : bytesOf 4 (ofBytes ((addrsFrom a 4).map (cellByte m)) ||| bits) =
      (addrsFrom a 4).map fun x => cellByte m x ||| (if x = a then BitVec.ofNat 8 bits else 0) := by
    have low := bytesOf_ofBytes_or (cellByte m a) ((addrsFrom (a + 1) 3).map (cellByte m)) hb
    rw [List.length_map, addrsFrom_length] at low
    rw [addrsFrom, List.map_cons, List.map_cons, rest, if_pos rfl, low]
  rw [bytes]
  refine cellByte_setCells_map hm (nodup_addrsFrom a 4) (fun y outside => ?_) x
  have other : y ≠ a := fun same => outside (mem_addrsFrom.mpr (by omega))
  rw [if_neg other]
  exact BitVec.or_zero

/-- With memory everywhere, marking entries sets the bits of the marks and changes nothing else. -/
theorem applyMarks_ok {ms : List (Nat × Nat)} (hb : ∀ x ∈ ms, x.2 < 256) {s : State} (hmap : s.params.physMap = [])
    (hm : Memory.wf s.mem = true) : ∃ m, applyMarks ms s = .ok () { s with mem := m } ∧
      ∀ x, cellByte m x = s.byteAt x ||| markBits ms x := by
  induction ms generalizing s with
  | nil => exact ⟨s.mem, rfl, fun x => BitVec.or_zero.symm⟩
  | cons y ms ih =>
    obtain ⟨a, bits⟩ := y
    have small : bits < 256 := hb _ List.mem_cons_self
    obtain ⟨m, run, bytes⟩ := ih (fun x hx => hb x (List.mem_cons_of_mem _ hx))
      (s := { s with mem := setCells s.mem (addrsFrom a 4) (bytesOf 4 (s.entry a 4 ||| bits)) }) hmap (wf_setCells _ _ _ hm)
    refine ⟨m, ?_, fun x => ?_⟩
    · rw [applyMarks, run_read_bind hmap, run_bind, physWrite, physWriteAt_ram (allRam_of_empty hmap _), addrsFrom_length]
      exact run
    · have marked := cellByte_mark hm small a x
      rw [bytes x, markBits, ← BitVec.or_assoc]
      exact congrArg (· ||| markBits ms x) marked

/-- A byte that has the bits of a mask is left as it was by setting them. -/
theorem or_eq_self {b m : Byte} (h : ∀ k < 8, m.getLsbD k = true → b.getLsbD k = true) : b ||| m = b := by
  refine BitVec.eq_of_getLsbD_eq fun k hk => ?_
  rw [BitVec.getLsbD_or, Bool.or_eq_left_iff_imp]
  exact h k hk

/-- The low bits of an entry are those of its first byte (20_memory.md R120). -/
theorem testBit_entry (s : State) (a n : Nat) {k : Nat} (hk : k < 8) :
    (s.entry a (n + 1)).testBit k = (s.byteAt a).getLsbD k := by
  have low : s.entry a (n + 1) % 2 ^ 8 = (s.byteAt a).toNat := by
    have hb := (s.byteAt a).isLt
    rw [State.entry, addrsFrom, List.map_cons, ofBytes]
    omega
  rw [BitVec.getLsbD, ← low, Nat.testBit_mod_two_pow]
  simp [hk]

end mark

section marks
variable {s : State} {acc : Acc}

/-- What two masks do to a byte together is known from what each does to it alone. -/
theorem or_or_congr {b p q p' q' : Byte} (hp : b ||| p = b ||| p') (hq : b ||| q = b ||| q') :
    b ||| (p ||| q) = b ||| p' ||| q' := calc
  b ||| (p ||| q) = b ||| p ||| q := (BitVec.or_assoc ..).symm
  _ = b ||| q ||| p' := by rw [hp]; ac_rfl
  _ = b ||| p' ||| q' := by rw [hq]; ac_rfl

/-- A mark made only where its bits are missing leaves the byte with them, whether they were missing or not. -/
theorem byteAt_or_markBits {a : Nat} {bits : Nat} {missing : Bool}
    (h : missing = false → s.byteAt a ||| BitVec.ofNat 8 bits = s.byteAt a) (x : Nat) :
    s.byteAt x ||| markBits (if missing then [(a, bits)] else []) x =
      s.byteAt x ||| (if x = a then BitVec.ofNat 8 bits else 0) := by
  cases missing with
  | true => exact congrArg (s.byteAt x ||| ·) BitVec.or_zero
  | false =>
    refine BitVec.or_zero.trans ?_
    split
    · next same => rw [same, h rfl]
    · exact BitVec.or_zero.symm

/-- Its mark leaves a directory entry Accessed, whether it was or not (22_paging.md R279). -/
theorem byteAt_or_dirMark (s : State) (a n x : Nat) :
    s.byteAt x ||| markBits (dirMark a (s.entry a (n + 1))) x = s.byteAt x ||| (if x = a then 0x20 else 0) := by
  have mask : ∀ k < 8, (0x20 : Byte).getLsbD k = true → k = 5 := by decide
  have marks : dirMark a (s.entry a (n + 1)) = if !(s.entry a (n + 1)).testBit 5 then [(a, 0x20)] else [] := by
    unfold dirMark
    cases (s.entry a (n + 1)).testBit 5 <;> rfl
  rw [marks]
  refine byteAt_or_markBits (bits := 0x20) (fun accessed => or_eq_self fun k hk set => ?_) x
  rwa [mask k hk set, ← testBit_entry s a n (by decide), ← Bool.not_eq_false']

/-- Its mark leaves a last-level entry Accessed and, on a write, Dirty, whether it was or not (22_paging.md R279). -/
theorem byteAt_or_leafMark (s : State) (acc : Acc) (a n x : Nat) :
    s.byteAt x ||| markBits (leafMark a (s.entry a (n + 1)) acc) x =
      s.byteAt x ||| (if x = a then (if acc.write then 0x60 else 0x20) else 0) := by
  have read : ∀ k < 8, (0x20 : Byte).getLsbD k = true → k = 5 := by decide
  have write : ∀ k < 8, (0x60 : Byte).getLsbD k = true → k = 5 ∨ k = 6 := by decide
  have accessed := testBit_entry s a n (k := 5) (by decide)
  have dirty := testBit_entry s a n (k := 6) (by decide)
  unfold leafMark
  cases acc.write with
  | false =>
    refine byteAt_or_markBits (bits := 0x20) (fun marked => or_eq_self fun k hk set => ?_) x
    rw [read k hk set, ← accessed]
    simpa using marked
  | true =>
    refine byteAt_or_markBits (bits := 0x60) (fun marked => or_eq_self fun k hk set => ?_) x
    have both : (s.entry a (n + 1)).testBit 5 = true ∧ (s.entry a (n + 1)).testBit 6 = true := by simpa using marked
    rcases write k hk set with rfl | rfl
    · exact accessed.symm.trans both.1
    · exact dirty.symm.trans both.2

end marks

section translation
variable {s t u : State} {la : Word32} {n : Nat} {acc : Acc} {x : Xlat}

/-- With nothing recorded the TLB answers nothing, whatever its policy (22_paging.md R300). -/
theorem tlbLookup_empty (h : s.tlb = []) : tlbLookup la acc s = .ok none s := by
  rw [tlbLookup, run_get_bind, run_bind, h, List.filter_nil, chooseTlb, run_get_bind]
  cases s.params.tlbPolicy <;> rfl

/-- Under the policy `ideal` the one recorded translation that covers the address is used, unless it has to be walked again to
be marked dirty (22_paging.md R300, R301). -/
theorem tlbLookup_one {e : TlbEntry} (policy : s.params.tlbPolicy = .ideal) (h : s.tlb = [e]) (hc : covers e la = true)
    (hd : acc.write = true → e.dirty = true) : tlbLookup la acc s = .ok (some e) s := by
  have usable : [e].filter (fun e => covers e la) = [e] := by simp [hc]
  have clean : ¬(acc.write && !e.dirty) = true := by simpa using hd
  rw [tlbLookup, run_get_bind, run_bind, h, usable, chooseTlb, run_get_bind, policy]
  exact (run_ite ..).trans (if_neg clean)

/-- With nothing recorded a translation is the walk of the format in force (22_paging.md R270, R312). -/
theorem translate_walked (hpg : s.pg = true) (h : s.tlb = []) :
    translate la acc s = if s.cr4Pae then walkPae la acc s else walk32 la acc s := by
  rw [translate, run_get_bind, hpg, ← run_ite]
  exact (run_bind ..).trans (by rw [tlbLookup_empty h])

/-- A recorded translation is used with its own rights (22_paging.md R283, R300). -/
theorem translate_recorded {e : TlbEntry} (hpg : s.pg = true) (h : tlbLookup la acc s = .ok (some e) s) :
    translate la acc s =
      if rightsRefused e.us e.rw acc s.wp then pageFault la acc true false s
      else .ok ⟨e.frame + la.toNat % 2 ^ e.size.shift, [], none⟩ s := by
  rw [translate, run_get_bind, hpg]
  refine (run_bind ..).trans ?_
  rw [h]
  exact run_checkRights_bind _

/-- Within a page one translation is made and completed (20_memory.md R128). -/
theorem linAddrs_onePage (hpg : s.pg = true) (hn : la.toNat % 4096 + n ≤ 4096) (first : translate la acc s = .ok x t)
    (done : commitXlat x t = .ok () u) : linAddrs la n acc s = .ok (addrsFrom x.phys n) u := by
  have room : n ≤ 4096 - la.toNat % 4096 := by omega
  simp [linAddrs, hpg, room, first, done]

/-- Both pages of an access are translated before either translation is completed (20_memory.md R128). -/
theorem linAddrs_twoPages (hpg : s.pg = true) {room : Nat} (hr : room = 4096 - la.toNat % 4096) (hn : room < n)
    (first : translate la acc s = .ok x t) : linAddrs la n acc s = (do
      let y ← translate (la + BitVec.ofNat 32 room) acc
      commitXlat x
      commitXlat y
      pure (addrsFrom x.phys room ++ addrsFrom y.phys (n - room)) : M (List Nat)) t := by
  subst hr
  simp only [linAddrs, run_get_bind, hpg, Bool.not_true, Bool.false_eq_true, if_false, Nat.not_le.mpr hn]
  rw [run_bind, first]

/-- Recording a translation changes nothing but the TLB (22_paging.md R300). -/
theorem recordXlat_ok (o : Option TlbEntry) (s : State) : ∃ tlb, recordXlat o s = .ok () { s with tlb := tlb } := by
  cases o with
  | none => exact ⟨s.tlb, rfl⟩
  | some e =>
    rw [recordXlat, run_modify, State.recordTlb]
    cases s.params.tlbPolicy <;> exact ⟨_, rfl⟩

/-- With memory everywhere, completing a translation marks its entries and changes, beside them, the TLB alone. -/
theorem commitXlat_ok (hb : ∀ m ∈ x.marks, m.2 < 256) (hmap : s.params.physMap = []) (hm : Memory.wf s.mem = true) :
    ∃ t, commitXlat x s = .ok () t ∧ t = { s with mem := t.mem, tlb := t.tlb } ∧
      ∀ a, t.byteAt a = s.byteAt a ||| markBits x.marks a := by
  obtain ⟨mem, marked, bytes⟩ := applyMarks_ok hb hmap hm
  obtain ⟨tlb, recorded⟩ := recordXlat_ok x.entry { s with mem := mem }
  refine ⟨{ s with mem := mem, tlb := tlb }, ?_, rfl, bytes⟩
  rw [commitXlat, run_bind, marked]
  exact recorded

end translation

section levels
variable {w : Levels} {n : Nat} {s : State} {la : Word32} {acc : Acc} {x : Xlat}

/-- The entries of the two levels are those that stand in memory at their addresses, of at least one byte. -/
def Levels.StandIn (w : Levels) (s : State) : Prop :=
  ∃ k, w.pde = s.entry w.dir (k + 1) ∧ w.pte = s.entry w.table (k + 1)

/-- The entry that maps the page: that of the page table or, of a large page, that of the directory (22_paging.md R270, R290). -/
def Levels.leaf (w : Levels) : Nat := if !w.large then w.table else w.dir

theorem levels32_standIn (s : State) (la : Word32) : (s.levels32 la).StandIn s := ⟨3, rfl, rfl⟩

theorem levelsPae_standIn (s : State) (la : Word32) : (s.levelsPae la).StandIn s := ⟨7, rfl, rfl⟩

/-- A walk with 64-bit entries completes only past a page-directory-pointer entry that is present. -/
theorem pointer_of_walkPae_ok {t : State} (h : s.params.physMap = []) (ok : walkPae la acc s = .ok x t) :
    (s.pointerPae la).testBit 0 = true := by
  cases pointer : (s.pointerPae la).testBit 0 with
  | true => rfl
  | false =>
    obtain ⟨code, stop, -⟩ := walkPae_absent (acc := acc) h pointer
    cases stop.symm.trans ok

theorem lt_of_mem_dirMark {a entry : Nat} : ∀ m ∈ dirMark a entry, m.2 < 256 := by
  unfold dirMark
  split <;> simp

theorem lt_of_mem_leafMark {a entry : Nat} : ∀ m ∈ leafMark a entry acc, m.2 < 256 := by
  unfold leafMark
  split
  · cases acc.write <;> simp
  · simp

theorem Levels.xlat_marks (w : Levels) (s : State) (la : Word32) (acc : Acc) : (w.xlat s la acc).marks =
    if w.large then leafMark w.dir w.pde acc else dirMark w.dir w.pde ++ leafMark w.table w.pte acc := by
  rw [Levels.xlat]
  split <;> rfl

/-- The marks of a walk set bits of the lowest byte of an entry. -/
theorem Levels.lt_of_mem_marks : ∀ m ∈ (w.xlat s la acc).marks, m.2 < 256 := by
  rw [Levels.xlat_marks]
  split
  · exact lt_of_mem_leafMark
  · exact fun m hm => (List.mem_append.mp hm).elim (lt_of_mem_dirMark m) (lt_of_mem_leafMark m)

/-- What the marks of a walk leave: the directory entry Accessed where there is a page table, the entry that maps the page
Accessed and, on a write, Dirty (22_paging.md R279). -/
theorem Levels.byteAt_or_marks (h : w.StandIn s) (a : Nat) : s.byteAt a ||| markBits (w.xlat s la acc).marks a =
    s.byteAt a ||| (if (!w.large) = true ∧ a = w.dir then 0x20 else 0) |||
      (if a = w.leaf then (if acc.write then 0x60 else 0x20) else 0) := by
  obtain ⟨k, hpde, hpte⟩ := h
  rw [Levels.xlat_marks, Levels.leaf, hpde, hpte]
  cases w.large with
  | true =>
    rw [if_pos rfl, byteAt_or_leafMark]
    simp
  | false =>
    rw [if_neg nofun, markBits_append, or_or_congr (byteAt_or_dirMark ..) (byteAt_or_leafMark ..)]
    simp

/-- An access within a page that is walked: the bytes of the frame, and the marks in the entries of the walk. -/
theorem Levels.access (hpg : s.pg = true) (hmap : s.params.physMap = []) (hm : Memory.wf s.mem = true) (h : w.StandIn s)
    (hn : la.toNat % 4096 + n ≤ 4096) (hx : x = w.xlat s la acc) (walk : translate la acc s = .ok x s) :
    ∃ t, linAddrs la n acc s = .ok (addrsFrom x.phys n) t ∧ t = { s with mem := t.mem, tlb := t.tlb } ∧
      (∀ a, t.byteAt a = s.byteAt a ||| (if (!w.large) = true ∧ a = w.dir then 0x20 else 0) |||
        (if a = w.leaf then (if acc.write then 0x60 else 0x20) else 0)) ∧
      linRead la n acc s = .ok (ofBytes ((addrsFrom x.phys n).map t.byteAt)) t ∧
      ∀ v, linWrite la n v acc s = .ok () { t with mem := setCells t.mem (addrsFrom x.phys n) (bytesOf n v) } := by
  subst hx
  obtain ⟨t, done, frame, bytes⟩ := commitXlat_ok w.lt_of_mem_marks hmap hm
  have addrs := linAddrs_onePage hpg hn walk done
  have params : t.params = s.params := by rw [frame]
  have ram : AllRam t.params (addrsFrom (w.xlat s la acc).phys n) := allRam_of_empty (params ▸ hmap) _
  refine ⟨t, addrs, frame, fun a => (bytes a).trans (Levels.byteAt_or_marks h a), ?_, fun v => ?_⟩
  · rw [linRead, run_bind, addrs]
    exact physReadAt_ram ram
  · rw [linWrite, run_bind, addrs]
    exact (physWriteAt_ram ram v).trans (by rw [addrsFrom_length])

end levels

/-- Settles O52: a walk that completes is one of its two levels, whose marks are known; the TLB answers none or its one entry. -/
theorem pagedAccess : Obligations.PagedAccess := by
  intro la n acc s hpg hmap hm
  refine ⟨?onePage, ?twoPages, ?recorded⟩
  case onePage =>
    intro x small dir leaf hempty hn walk
    have walked := translate_walked (la := la) (acc := acc) hpg hempty
    rcases walk with ⟨format, hdir, hsmall, hleaf, ok⟩ | ⟨format, hdir, hsmall, hleaf, ok⟩
    · rw [hleaf, hsmall, hdir]
      rw [format, if_neg nofun] at walked
      have answer := (Levels.run_eq_ok ((walk32_eq hmap).symm.trans ok)).1
      exact Levels.access (w := s.levels32 la) hpg hmap hm (levels32_standIn s la) hn answer (walked.trans ok)
    · rw [hleaf, hsmall, hdir]
      rw [format, if_pos rfl] at walked
      have answer := (Levels.run_eq_ok ((walkPae_eq hmap (pointer_of_walkPae_ok hmap ok)).symm.trans ok)).1
      exact Levels.access (w := s.levelsPae la) hpg hmap hm (levelsPae_standIn s la) hn answer (walked.trans ok)
  case twoPages =>
    intro x y e u v w z room hr hn first
    rw [linAddrs_twoPages hpg hr hn first]
    exact ⟨fun second => by rw [run_bind, second],
      fun second marked marked' => by rw [run_bind, second]; simp [marked, marked']⟩
  case recorded =>
    intro e policy hone hc hd
    rw [translate_recorded hpg (tlbLookup_one policy hone hc hd)]
    refine ⟨fun allowed => if_neg fun refused => rightsRefused_iff.mp refused allowed, fun refused => ?_⟩
    rw [rightsRefused_iff.mpr refused]
    exact pageFaults_pageFault

end Sys2Proof.Machine
end

section
/-! Decoding what was encoded: the fields of a ModR/M byte, displacements and operands read back from their bytes
(30_encoding.md R344 to R351), then the row of an opcode, and with them every instruction but the rows of prefixes (R360). -/

namespace Sys2Proof

open Machine Laws

section fields

/-- The eight codes a three-bit field can hold (30_encoding.md R345). -/
theorem code_cases : ∀ n : BitVec 3, n = 0 ∨ n = 1 ∨ n = 2 ∨ n = 3 ∨ n = 4 ∨ n = 5 ∨ n = 6 ∨ n = 7 := by decide

@[simp] theorem modrmByte_mod : ∀ (md : BitVec 2) (reg rm : BitVec 3), (modrmByte md reg rm).extractLsb' 6 2 = md := by
  decide

@[simp] theorem modrmByte_reg : ∀ (md : BitVec 2) (reg rm : BitVec 3), (modrmByte md reg rm).extractLsb' 3 3 = reg := by
  decide

@[simp] theorem modrmByte_rm : ∀ (md : BitVec 2) (reg rm : BitVec 3), (modrmByte md reg rm).extractLsb' 0 3 = rm := by
  decide

@[simp] theorem Reg.ofCode_code (r : Reg) : Reg.ofCode r.code = r := by cases r <;> rfl

@[simp] theorem Base16.ofCode_code (b : Base16) : Base16.ofCode b.code = b := by cases b <;> rfl

@[simp] theorem Prefix.ofByte?_byte (x : Prefix) : Prefix.ofByte? x.byte = some x := by cases x <;> rfl

/-- Code 100B is ESP alone, the escape to a SIB byte (30_encoding.md R346). -/
theorem Reg.code_eq_four {r : Reg} : r.code = 4#3 ↔ r = .esp := by cases r <;> decide

/-- Code 101B is EBP alone, which with mod = 00B stands for no base (30_encoding.md R346). -/
theorem Reg.code_eq_five {r : Reg} : r.code = 5#3 ↔ r = .ebp := by cases r <;> decide

/-- Code 110B is BP alone, which with mod = 00B stands for a displacement alone (30_encoding.md R347). -/
theorem Base16.code_eq_six {b : Base16} : b.code = 6#3 ↔ b = .bp := by cases b <;> decide

end fields

section operand

theorem read16_bytesOf (d : BitVec 16) (rest : List Byte) : read16 (bytesOf 2 d.toNat ++ rest) = some (d, rest) := by
  have value : BitVec.ofNat 16 (ofBytes (bytesOf 2 d.toNat)) = d := by
    rw [ofBytes_bytesOf, Nat.mod_eq_of_lt (show d.toNat < 256 ^ _ from d.isLt), BitVec.ofNat_toNat, BitVec.setWidth_eq]
  exact congrArg (fun x => some (x, rest)) value

theorem read32_bytesOf (d : BitVec 32) (rest : List Byte) : read32 (bytesOf 4 d.toNat ++ rest) = some (d, rest) := by
  have value : BitVec.ofNat 32 (ofBytes (bytesOf 4 d.toNat)) = d := by
    rw [ofBytes_bytesOf, Nat.mod_eq_of_lt (show d.toNat < 256 ^ _ from d.isLt), BitVec.ofNat_toNat, BitVec.setWidth_eq]
  exact congrArg (fun x => some (x, rest)) value

/-- A memory operand reads back from its bytes, of which the first is a ModR/M byte whose mod is not 11B (30_encoding.md R345 to
R347). -/
theorem encodeMem_reads {a32 : Bool} {m : MemOp} (wf : m.wf a32 = true) (reg : BitVec 3) :
    ∃ (b : Byte) (bs : List Byte), encodeMem reg m = b :: bs ∧ b.extractLsb' 3 3 = reg ∧
      ∀ rest, readRm a32 b (bs ++ rest) = some (.mem m, rest) := by
  cases m with
  | direct16 d =>
    simp only [MemOp.wf, Bool.not_eq_true'] at wf
    exact ⟨_, _, rfl, by simp, fun rest => by simp [readRm, readMem16, read16_bytesOf, wf]⟩
  | based16 b d =>
    simp only [MemOp.wf, Bool.and_eq_true, Bool.not_eq_true'] at wf
    obtain ⟨rfl, based⟩ := wf
    cases d with
    | none =>
      have bare : b ≠ .bp := by rintro rfl; exact absurd based (by decide)
      exact ⟨_, _, rfl, by simp, fun rest => by simp [readRm, readMem16, readDisp16, Base16.code_eq_six, bare]⟩
    | d8 d => exact ⟨_, _, rfl, by simp, fun rest => by simp [readRm, readMem16, readDisp16]⟩
    | d16 d => exact ⟨_, _, rfl, by simp, fun rest => by simp [readRm, readMem16, readDisp16, read16_bytesOf]⟩
  | direct32 d =>
    simp only [MemOp.wf] at wf
    exact ⟨_, _, rfl, by simp, fun rest => by simp [readRm, readMem32, read32_bytesOf, wf]⟩
  | based32 b d =>
    simp only [MemOp.wf, wfBased32, Bool.and_eq_true, Bool.not_eq_true', decide_eq_false_iff_not] at wf
    obtain ⟨rfl, noSib, based⟩ := wf
    cases d with
    | none =>
      have bare : b ≠ .ebp := by rintro rfl; exact absurd based (by decide)
      exact ⟨_, _, rfl, by simp, fun rest => by
        simp [readRm, readMem32, readDisp32, Reg.code_eq_four, Reg.code_eq_five, noSib, bare]⟩
    | d8 d => exact ⟨_, _, rfl, by simp, fun rest => by simp [readRm, readMem32, readDisp32, Reg.code_eq_four, noSib]⟩
    | d32 d =>
      exact ⟨_, _, rfl, by simp, fun rest => by
        simp [readRm, readMem32, readDisp32, Reg.code_eq_four, noSib, read32_bytesOf]⟩
  | sib s i b d =>
    simp only [MemOp.wf, wfSib, Bool.and_eq_true] at wf
    obtain ⟨rfl, based⟩ := wf
    cases d with
    | none =>
      have bare : b ≠ .ebp := by rintro rfl; exact absurd based (by decide)
      exact ⟨_, _, rfl, by simp, fun rest => by
        simp [readRm, readMem32, readSib, readDisp32, Reg.code_eq_five, bare]⟩
    | d8 d => exact ⟨_, _, rfl, by simp, fun rest => by simp [readRm, readMem32, readSib, readDisp32]⟩
    | d32 d => exact ⟨_, _, rfl, by simp, fun rest => by simp [readRm, readMem32, readSib, readDisp32, read32_bytesOf]⟩
  | sibNoBase s i d =>
    simp only [MemOp.wf] at wf
    exact ⟨_, _, rfl, by simp, fun rest => by simp [readRm, readMem32, readSib, read32_bytesOf, wf]⟩

/-- An r/m operand reads back from its bytes (30_encoding.md R345). -/
theorem encodeRm_reads {a32 : Bool} {rm : Rm} (wf : rm.wf a32 = true) (reg : BitVec 3) :
    ∃ (b : Byte) (bs : List Byte), encodeRm reg rm = b :: bs ∧ b.extractLsb' 3 3 = reg ∧
      ∀ rest, readRm a32 b (bs ++ rest) = some (rm, rest) := by
  cases rm with
  | reg r => exact ⟨_, [], rfl, by simp, fun rest => by simp [readRm]⟩
  | mem m => exact encodeMem_reads wf reg

end operand

section row
variable {db : Bool} {p : Prefixes} {op : List Byte}

/-- A row with an r/m operand reads its instruction back. -/
theorem runRow_modrm {f : BitVec 3 → Option (Rm → Instr)} {g : Rm → Instr} {reg : BitVec 3} {rm : Rm}
    (wf : rm.wf (addrSize32 db p) = true) (hf : f reg = some g) (rest : List Byte) :
    runRow db p op (.modrm f) (encodeRm reg rm ++ rest) = .instr (g rm) rest := by
  obtain ⟨b, bs, bytes, field, reads⟩ := encodeRm_reads wf reg
  simp [bytes, runRow, field, hf, reads]

/-- A row with a relative displacement reads its instruction back (30_encoding.md R351). -/
theorem runRow_rel {f : Rel → Instr} {d : Rel} (wf : d.wf (opSize32 db p) = true) (rest : List Byte) :
    runRow db p op (.rel f) (encodeRel d ++ rest) = .instr (f d) rest := by
  cases d with
  | w16 d =>
    have narrow : opSize32 db p = false := by simpa [Rel.wf] using wf
    simp [runRow, narrow, encodeRel, read16_bytesOf]
  | w32 d =>
    have wide : opSize32 db p = true := wf
    simp [runRow, wide, encodeRel, read32_bytesOf]

/-- A row with a far pointer reads its instruction back: offset first, then selector (30_encoding.md R351). -/
theorem runRow_far {f : FarPtr → Instr} {t : FarPtr} (wf : t.wf (opSize32 db p) = true) (rest : List Byte) :
    runRow db p op (.far f) (encodeFar t ++ rest) = .instr (f t) rest := by
  cases t with
  | p16 off sel =>
    have narrow : opSize32 db p = false := by simpa [FarPtr.wf] using wf
    simp [runRow, narrow, encodeFar, read16_bytesOf]
  | p32 off sel =>
    have wide : opSize32 db p = true := wf
    simp [runRow, wide, encodeFar, read32_bytesOf, read16_bytesOf]

end row

section opcode
variable {p : Prefixes} {op : List Byte} {row : Row}

/-- The bytes of an opcode, with the row the decoder finds for them: one byte, not 0F and not one of the prefixes, or 0F and a byte
(30_encoding.md R344). -/
inductive OpcodeRow (p : Prefixes) : List Byte → Row → Prop
  | one {b : Byte} (escape : b ≠ 0x0F) (stray : Prefix.ofByte? b = none) : OpcodeRow p [b] (oneByteRow p b)
  | two {c : Byte} : OpcodeRow p [0x0F, c] (twoByteRow p c)

theorem decodeBody_opcode (h : OpcodeRow p op row) (db : Bool) (bs : List Byte) :
    decodeBody db p (op ++ bs) = runRow db p op row bs := by
  cases h with
  | one escape stray => exact if_neg escape
  | two => rfl

/-- The prefixes end where the opcode begins. -/
theorem takePrefixes_opcode (h : OpcodeRow p op row) (q : Prefixes) (bs : List Byte) :
    takePrefixes (pb q ++ (op ++ bs)) = (q, op ++ bs) := by
  induction q with
  | nil =>
    cases h with
    | one escape stray => simp [pb, takePrefixes, stray]
    | two => rfl
  | cons x xs ih =>
    have tail : takePrefixes (xs.map Prefix.byte ++ (op ++ bs)) = (xs, op ++ bs) := ih
    simp [pb, takePrefixes, tail]

variable {db : Bool} {i : Instr} {tail : List Byte}

/-- The instruction's bytes, followed by any others, decode to it, and of the others is left what fits in fifteen bytes
(30_encoding.md R338). -/
def ReadsBack (db : Bool) (i : Instr) : Prop :=
  ∀ rest, decode db (encode i ++ rest) = .instr i (rest.take (15 - (encode i).length))

/-- An instruction of at most fifteen bytes reads back where its row reads it back from the bytes after its opcode. -/
theorem readsBack_of_runRow (h : OpcodeRow p op row) (bytes : encode i = pb p ++ (op ++ tail))
    (len : wfLen p (op.length + tail.length) = true)
    (reads : ∀ rest, runRow db p op row (tail ++ rest) = .instr i rest) : ReadsBack db i := by
  intro rest
  have short : (encode i).length ≤ 15 := by simpa [bytes, wfLen] using len
  have cut : (encode i ++ rest).take 15 = pb p ++ (op ++ (tail ++ rest.take (15 - (encode i).length))) := by
    rw [List.take_append, List.take_of_length_le short, bytes]
    simp only [List.append_assoc]
  rw [decode, cut, decode15, takePrefixes_opcode h]
  simp only [decodeBody_opcode h, reads]

end opcode

section shapes
variable {db : Bool} {p : Prefixes} {op : List Byte} {i : Instr}

/-- An instruction that is its opcode alone reads back. -/
theorem readsBack_plain (bytes : encode i = pb p ++ op) (h : OpcodeRow p op (.plain i))
    (wf : wfPlain p op.length = true) : ReadsBack db i :=
  readsBack_of_runRow (tail := []) h (by rw [bytes, List.append_nil]) wf fun _ => rfl

/-- An instruction with an immediate byte reads back. -/
theorem readsBack_imm8 {f : BitVec 8 → Instr} {x : BitVec 8} (bytes : encode i = pb p ++ (op ++ [x]))
    (h : OpcodeRow p op (.imm8 f)) (hf : f x = i) (wf : wfPlain p (op.length + 1) = true) : ReadsBack db i :=
  readsBack_of_runRow h bytes wf fun rest => by simp [runRow, hf]

/-- An instruction with an immediate word reads back. -/
theorem readsBack_imm16 {f : BitVec 16 → Instr} {x : BitVec 16} (bytes : encode i = pb p ++ (op ++ bytesOf 2 x.toNat))
    (h : OpcodeRow p op (.imm16 f)) (hf : f x = i) (wf : wfPlain p (op.length + 2) = true) : ReadsBack db i :=
  readsBack_of_runRow h bytes wf fun rest => by simp [runRow, read16_bytesOf, hf]

/-- An instruction with a relative displacement reads back. -/
theorem readsBack_rel {f : Rel → Instr} {d : Rel} (bytes : encode i = pb p ++ (op ++ encodeRel d))
    (h : OpcodeRow p op (.rel f)) (hf : f d = i)
    (wf : (d.wf (opSize32 db p) && wfLen p (op.length + d.size)) = true) : ReadsBack db i := by
  obtain ⟨width, len⟩ := Bool.and_eq_true_iff.mp wf
  exact readsBack_of_runRow h bytes (by rwa [encodeRel_length]) (hf ▸ runRow_rel width)

/-- An instruction with a far pointer reads back. -/
theorem readsBack_far {f : FarPtr → Instr} {t : FarPtr} (bytes : encode i = pb p ++ (op ++ encodeFar t))
    (h : OpcodeRow p op (.far f)) (hf : f t = i)
    (wf : (t.wf (opSize32 db p) && wfLen p (op.length + t.size)) = true) : ReadsBack db i := by
  obtain ⟨width, len⟩ := Bool.and_eq_true_iff.mp wf
  exact readsBack_of_runRow h bytes (by rwa [encodeFar_length]) (hf ▸ runRow_far width)

/-- An instruction with an r/m operand reads back, whether the reg field of its ModR/M byte selects it or is an operand. -/
theorem readsBack_rm {f : BitVec 3 → Option (Rm → Instr)} {g : Rm → Instr} {reg : BitVec 3} {rm : Rm}
    (bytes : encode i = pb p ++ (op ++ encodeRm reg rm)) (h : OpcodeRow p op (.modrm f)) (hf : f reg = some g)
    (hg : g rm = i) (wf : wfRm db p op.length rm = true) : ReadsBack db i := by
  obtain ⟨operand, len⟩ := Bool.and_eq_true_iff.mp wf
  exact readsBack_of_runRow h bytes (by rwa [encodeRm_length]) (hg ▸ runRow_modrm operand hf)

/-- An instruction with a register and an r/m operand reads back. -/
theorem readsBack_reg_rm {f : Reg → Rm → Instr} {r : Reg} {rm : Rm}
    (bytes : encode i = pb p ++ (op ++ encodeRm r.code rm))
    (h : OpcodeRow p op (.modrm fun reg => some (f (Reg.ofCode reg)))) (hf : f r rm = i)
    (wf : wfRm db p op.length rm = true) : ReadsBack db i :=
  readsBack_rm bytes h rfl (by rw [Reg.ofCode_code, hf]) wf

/-- A move to or from a special register reads back. -/
theorem readsBack_special {f : BitVec 3 → Reg → Instr} {x : BitVec 3} {r : Reg}
    (bytes : encode i = pb p ++ (op ++ [modrmByte 3 x r.code])) (h : OpcodeRow p op (.special f)) (hf : f x r = i)
    (wf : wfPlain p (op.length + 1) = true) : ReadsBack db i :=
  readsBack_of_runRow h bytes wf fun rest => by simp [runRow, hf]

/-- The eight ESC opcodes, D8 to DF, share one row, but for the operation number (30_encoding.md R360). -/
theorem opcodeRow_esc (p : Prefixes) (op : BitVec 3) :
    OpcodeRow p [(0x1B#5 ++ op : BitVec 8)] (.modrm fun reg => some (escRow p op reg)) := by
  have row : oneByteRow p (0x1B#5 ++ op) = .modrm fun reg => some (escRow p op reg) := by
    rcases code_cases op with rfl | rfl | rfl | rfl | rfl | rfl | rfl | rfl <;> rfl
  have other : ∀ op : BitVec 3, (0x1B#5 ++ op : BitVec 8) ≠ 0x0F ∧ Prefix.ofByte? (0x1B#5 ++ op) = none := by decide
  exact row ▸ .one (other op).1 (other op).2

/-- An ESC encoding that has no row of its own is an ESC instruction (30_encoding.md R360). -/
theorem escRow_of_no_own_row {op reg : BitVec 3} {rm : Rm} (h : escHasOwnRow op reg rm = false) :
    escRow p op reg rm = .esc p op reg rm := by
  cases rm with
  | reg r =>
    simp only [escHasOwnRow, Bool.or_eq_false_iff, Bool.and_eq_false_iff, decide_eq_false_iff_not] at h
    simp only [escRow]
    rw [if_neg, if_neg, if_neg] <;> tauto
  | mem m =>
    simp only [escHasOwnRow, Bool.or_eq_false_iff, Bool.and_eq_false_iff, decide_eq_false_iff_not] at h
    simp only [escRow]
    rw [if_neg, if_neg, if_neg, if_neg] <;> tauto

end shapes

/-- Every well-formed instruction but the rows of prefixes reads back, shape by shape (30_encoding.md R360). -/
theorem readsBack_of_wf {db : Bool} {i : Instr} (wf : i.wf db = true) (row : isPrefixRow i = false) : ReadsBack db i := by
  cases i with
  | clts p | invd p | wbinvd p | wrmsr p | rdtsc p | rdmsr p | rdpmc p | rsm p | popFs p | popGs p | pushFs p | pushGs p
  | reserved0F07 p | reserved0F10 p | reserved0F11 p | reserved0F12 p | reserved0F13 p =>
    exact readsBack_plain rfl .two wf
  | hlt p | popEs p | popSs p | popDs p | pushEs p | pushCs p | pushSs p | pushDs p | ret p | retFar p | inAlDx p | inAxDx p
  | outDxAl p | outDxAx p | insb p | insv p | outsb p | outsv p | cli p | sti p | pushf p | popf p | int3 p | into p | iret p
  | wait p | reserved82 p | reservedD6 p | reservedF1 p =>
    exact readsBack_plain rfl (.one (by decide) rfl) wf
  | inAlImm p x | inAxImm p x | outImmAl p x | outImmAx p x | intImm p x | jmpRel8 p x =>
    exact readsBack_imm8 (op := [_]) rfl (.one (by decide) rfl) rfl wf
  | retImm p x | retFarImm p x => exact readsBack_imm16 (List.append_assoc ..) (.one (by decide) rfl) rfl wf
  | jmpRel p d | callRel p d => exact readsBack_rel (List.append_assoc ..) (.one (by decide) rfl) rfl wf
  | jmpFar p t | callFar p t => exact readsBack_far (List.append_assoc ..) (.one (by decide) rfl) rfl wf
  | movFromCr p r x | movFromDr p r x | movToCr p x r | movToDr p x r | movFromTr p r x | movToTr p x r =>
    exact readsBack_special (op := [_, _]) rfl .two rfl wf
  | sldt p rm | str p rm | lldt p rm | ltr p rm | verr p rm | verw p rm | undef0F00r6 p rm | undef0F00r7 p rm
  | sgdt p rm | sidt p rm | lgdt p rm | lidt p rm | smsw p rm | undef0F01r5 p rm | lmsw p rm | invlpg p rm =>
    exact readsBack_rm (List.append_assoc ..) .two rfl rfl wf
  | lar p r rm | lsl p r rm | lss p r rm | lfs p r rm | lgs p r rm => exact readsBack_reg_rm (List.append_assoc ..) .two rfl wf
  | les p r rm | lds p r rm | bound p r rm =>
    exact readsBack_reg_rm (List.append_assoc ..) (.one (by decide) rfl) rfl wf
  | arpl p rm r =>
    exact readsBack_reg_rm (f := fun r rm => .arpl p rm r) (List.append_assoc ..) (.one (by decide) rfl) rfl wf
  | movToSeg p x rm | movFromSeg p rm x | callRm p rm | callFarMem p rm | jmpRm p rm | jmpFarMem p rm
  | reservedF6r1 p rm | reservedF7r1 p rm | reservedC0r6 p rm | reservedC1r6 p rm | reservedD0r6 p rm | reservedD1r6 p rm
  | reservedD2r6 p rm | reservedD3r6 p rm =>
    exact readsBack_rm (List.append_assoc ..) (.one (by decide) rfl) rfl rfl wf
  | esc p op reg rm =>
    obtain ⟨free, wf⟩ := Bool.and_eq_true_iff.mp wf
    exact readsBack_rm (List.append_assoc ..) (opcodeRow_esc p op) rfl (escRow_of_no_own_row (by simpa using free)) wf
  | fninit p => exact readsBack_rm (reg := 4) (rm := .reg .ebx) rfl (opcodeRow_esc p 3) rfl rfl wf
  | fnclex p => exact readsBack_rm (reg := 4) (rm := .reg .edx) rfl (opcodeRow_esc p 3) rfl rfl wf
  | fnstswAx p => exact readsBack_rm (reg := 4) (rm := .reg .eax) rfl (opcodeRow_esc p 7) rfl rfl wf
  | fnstswMem p m => exact readsBack_rm (rm := .mem m) (List.append_assoc ..) (opcodeRow_esc p 5) rfl rfl wf
  | fnstcw p m => exact readsBack_rm (rm := .mem m) (List.append_assoc ..) (opcodeRow_esc p 1) rfl rfl wf
  | fnstenv p m => exact readsBack_rm (rm := .mem m) (List.append_assoc ..) (opcodeRow_esc p 1) rfl rfl wf
  | fnsave p m => exact readsBack_rm (rm := .mem m) (List.append_assoc ..) (opcodeRow_esc p 5) rfl rfl wf
  | _ => nomatch row

/-- Settles O55: the row of every instruction's opcode reads its operands back from their own bytes. -/
theorem decodeEncode : Obligations.DecodeEncode := fun _ _ rest wf row => readsBack_of_wf wf row rest

/-- Bytes that are the encoding of a well-formed instruction decode to it. -/
theorem decode_of_encode {db : Bool} {bs : List Byte} {i : Instr} (bytes : encode i = bs) (wf : i.wf db = true)
    (row : isPrefixRow i = false) : decode db bs = .instr i [] := by
  simpa [bytes] using decodeEncode db i [] wf row

/-- Settles O54: each of the words is the encoding of its instruction. -/
theorem decodeWords : Obligations.DecodeWords := by
  and_intros <;> exact decode_of_encode rfl rfl rfl

end Sys2Proof
end

section
/-! The offset of a memory operand: how a displacement is read and what it is worth, the registers an operand sums, and the
operand read from a ModR/M byte and what follows it (30_encoding.md R346, R347). -/

namespace Sys2Proof.Machine

open Sys2Proof

section displacement

/-- The three values of mod that name a memory operand (30_encoding.md R345). -/
theorem mod_cases : ∀ {md : BitVec 2}, md ≠ 3 → md = 0 ∨ md = 1 ∨ md = 2 := by decide

variable {md : BitVec 2} {b0 b1 b2 b3 : Byte} {rest : List Byte}

theorem read16_cons (b0 b1 : Byte) (rest : List Byte) : read16 (b0 :: b1 :: rest) = some (b1 ++ b0, rest) := by
  have value : BitVec.ofNat 16 (ofBytes [b0, b1]) = b1 ++ b0 := by
    apply BitVec.eq_of_toNat_eq
    simp only [BitVec.toNat_ofNat, toNat_append_eq_add, ofBytes]
    omega
  exact congrArg (fun x => some (x, rest)) value

theorem read32_cons (b0 b1 b2 b3 : Byte) (rest : List Byte) :
    read32 (b0 :: b1 :: b2 :: b3 :: rest) = some (b3 ++ b2 ++ b1 ++ b0, rest) := by
  have value : BitVec.ofNat 32 (ofBytes [b0, b1, b2, b3]) = b3 ++ b2 ++ b1 ++ b0 := by
    apply BitVec.eq_of_toNat_eq
    simp only [BitVec.toNat_ofNat, toNat_append_eq_add, ofBytes]
    omega
  exact congrArg (fun x => some (x, rest)) value

/-- The displacement a mod other than 11B asks for, with 32-bit addressing (30_encoding.md R346). -/
theorem readDisp32_cons (hmd : md ≠ 3) :
    ∃ d : Disp32, Disp32.value d = (if md = 1 then b0.signExtend 32 else if md = 2 then b3 ++ b2 ++ b1 ++ b0 else 0) ∧
      readDisp32 md (b0 :: b1 :: b2 :: b3 :: rest) =
        some (d, (b0 :: b1 :: b2 :: b3 :: rest).drop (if md = 1 then 1 else if md = 2 then 4 else 0)) := by
  rcases mod_cases hmd with rfl | rfl | rfl
  · exact ⟨.none, rfl, rfl⟩
  · exact ⟨.d8 b0, rfl, rfl⟩
  · exact ⟨.d32 (b3 ++ b2 ++ b1 ++ b0), rfl, by simp [readDisp32, read32_cons]⟩

/-- The displacement a mod other than 11B asks for, with 16-bit addressing (30_encoding.md R347). -/
theorem readDisp16_cons (hmd : md ≠ 3) :
    ∃ d : Disp16, Disp16.value d = (if md = 1 then b0.signExtend 16 else if md = 2 then b1 ++ b0 else 0) ∧
      readDisp16 md (b0 :: b1 :: rest) =
        some (d, (b0 :: b1 :: rest).drop (if md = 1 then 1 else if md = 2 then 2 else 0)) := by
  rcases mod_cases hmd with rfl | rfl | rfl
  · exact ⟨.none, rfl, rfl⟩
  · exact ⟨.d8 b0, rfl, rfl⟩
  · exact ⟨.d16 (b1 ++ b0), rfl, by simp [readDisp16, read16_cons]⟩

end displacement

section registers

/-- The general registers in the order of their codes (30_encoding.md R345). -/
theorem ofCode_eq_getD : ∀ n : BitVec 3,
    Reg.ofCode n = [Reg.eax, .ecx, .edx, .ebx, .esp, .ebp, .esi, .edi].getD n.toNat .eax := by decide

theorem ofCode_eq_esp : ∀ {n : BitVec 3}, Reg.ofCode n = .esp ↔ n = 4 := by decide

/-- A scaled index is the register times a power of two, and nothing for index 100B (30_encoding.md R346). -/
theorem scaledIndex_ofCode (s : State) (scale : BitVec 2) (index : BitVec 3) :
    s.scaledIndex scale (Reg.ofCode index) =
      if index = 4 then 0 else s.reg (Reg.ofCode index) * BitVec.ofNat 32 (2 ^ scale.toNat) := by
  have shift (x : Word32) (n : Nat) : x <<< n = x * BitVec.ofNat 32 (2 ^ n) := by
    apply BitVec.eq_of_toNat_eq
    simp [Nat.shiftLeft_eq, BitVec.toNat_mul]
  simp only [State.scaledIndex, ofCode_eq_esp, shift]

theorem lo16_toNat (v : Word32) : (lo16 v).toNat = v.toNat % 2 ^ 16 := by simp [lo16]

/-- The registers that an rm value sums with 16-bit addressing (30_encoding.md R347). -/
theorem base16_ofCode (s : State) (rm : BitVec 3) :
    let low := fun (r : Reg) => (s.reg r).toNat % 2 ^ 16
    (s.base16 (Base16.ofCode rm)).toNat =
      [low .ebx + low .esi, low .ebx + low .edi, low .ebp + low .esi, low .ebp + low .edi, low .esi, low .edi, low .ebp,
        low .ebx].getD rm.toNat 0 % 2 ^ 16 := by
  rcases code_cases rm with rfl | rfl | rfl | rfl | rfl | rfl | rfl | rfl <;>
    simp [Base16.ofCode, State.base16, lo16_toNat]

theorem ea_direct16 (s : State) (d : BitVec 16) : (s.ea (.direct16 d)).toNat = d.toNat % 2 ^ 16 :=
  (BitVec.toNat_setWidth_of_le (by decide)).trans (Nat.mod_eq_of_lt d.isLt).symm

/-- With 16-bit addressing the sum wraps around at 64 Kbytes (30_encoding.md R347). -/
theorem ea_based16 (s : State) (b : Base16) (d : Disp16) :
    (s.ea (.based16 b d)).toNat = ((s.base16 b).toNat + (Disp16.value d).toNat) % 2 ^ 16 := by
  rw [State.ea, BitVec.toNat_setWidth_of_le (by decide), BitVec.toNat_add]

end registers

section operand
variable {md : BitVec 2} {reg rm : BitVec 3} {a32 : Bool} {m : MemOp} {bs rest : List Byte}

/-- A ModR/M byte whose mod is not 11B names a memory operand (30_encoding.md R345). -/
theorem readRm_mem (hmd : md ≠ 3) (h : (if a32 then readMem32 md rm bs else readMem16 md rm bs) = some (m, rest)) :
    readRm a32 (md ++ reg ++ rm) bs = some (.mem m, rest) := by
  have mod_eq := modrmByte_mod md reg rm
  have rm_eq := modrmByte_rm md reg rm
  rw [modrmByte] at mod_eq rm_eq
  simp only [readRm, mod_eq, rm_eq, if_neg hmd, h, Option.map_some]

end operand

/-- Settles O49: the operand is the form its mod and rm, or base, select, with the displacement its mod asks for. -/
theorem effectiveAddresses : Obligations.EffectiveAddresses := by
  intro md reg rm b0 b1 b2 b3 b4 rest s hmd general low bytes operand
  have general_eq (n : BitVec 3) : general n = s.reg (Reg.ofCode n) := by rw [ofCode_eq_getD]
  refine ⟨?noSib, ?sib, ?narrow⟩
  case noSib =>
    intro bare hbare hrm
    cases bare with
    | true =>
      obtain ⟨rfl, rfl⟩ := hbare.mp rfl
      exact ⟨.direct32 (b3 ++ b2 ++ b1 ++ b0), by simp [State.ea], readRm_mem hmd (by simp [readMem32, bytes, read32_cons])⟩
    | false =>
      have based : ¬(md = 0 ∧ rm = 5) := fun h => nomatch hbare.mpr h
      obtain ⟨d, value, read⟩ := readDisp32_cons (b0 := b0) (b1 := b1) (b2 := b2) (b3 := b3) (rest := b4 :: rest) hmd
      refine ⟨.based32 (Reg.ofCode rm) d, by simp [State.ea, value, general_eq], readRm_mem hmd ?_⟩
      simp only [if_true, readMem32, if_neg hrm, if_neg based, bytes, read]
      simp
  case sib =>
    intro scale index base hb0 hrm bare hbare
    have scale_eq : b0.extractLsb' 6 2 = scale := hb0 ▸ modrmByte_mod scale index base
    have index_eq : b0.extractLsb' 3 3 = index := hb0 ▸ modrmByte_reg scale index base
    have base_eq : b0.extractLsb' 0 3 = base := hb0 ▸ modrmByte_rm scale index base
    cases bare with
    | true =>
      obtain ⟨rfl, rfl⟩ := hbare.mp rfl
      refine ⟨.sibNoBase scale (Reg.ofCode index) (b4 ++ b3 ++ b2 ++ b1), ?_, readRm_mem hmd ?_⟩
      · simp [State.ea, scaledIndex_ofCode, general_eq]
      · simp [readMem32, hrm, readSib, bytes, scale_eq, index_eq, base_eq, read32_cons]
    | false =>
      have based : ¬(md = 0 ∧ base = 5) := fun h => nomatch hbare.mpr h
      obtain ⟨d, value, read⟩ := readDisp32_cons (b0 := b1) (b1 := b2) (b2 := b3) (b3 := b4) (rest := rest) hmd
      refine ⟨.sib scale (Reg.ofCode index) (Reg.ofCode base) d, ?_, readRm_mem hmd ?_⟩
      · simp [State.ea, scaledIndex_ofCode, general_eq, value]
      · simp only [if_true, readMem32, if_pos hrm, readSib, bytes, scale_eq, index_eq, base_eq, if_neg based, read]
        rcases mod_cases hmd with rfl | rfl | rfl <;> rfl
  case narrow =>
    intro bare hbare
    cases bare with
    | true =>
      obtain ⟨rfl, rfl⟩ := hbare.mp rfl
      exact ⟨.direct16 (b1 ++ b0), by simp [ea_direct16], readRm_mem hmd (by simp [readMem16, bytes, read16_cons])⟩
    | false =>
      have based : ¬(md = 0 ∧ rm = 6) := fun h => nomatch hbare.mpr h
      obtain ⟨d, value, read⟩ := readDisp16_cons (b0 := b0) (b1 := b1) (rest := b2 :: b3 :: b4 :: rest) hmd
      refine ⟨.based16 (Base16.ofCode rm) d, ?_, readRm_mem hmd ?_⟩
      · simp [ea_based16, base16_ofCode, value, low]
      · simp only [readMem16, if_neg based, bytes, read]
        simp

end Sys2Proof.Machine
end

section
/-! Encodings that only trap or stop: the rows of prefixes and the reserved rows (30_encoding.md R338, R355, R356, R360), and what the
checks of every instruction's prefixes and mode stop (R339, R340; 40_system_registers.md R371). -/

namespace Sys2Proof.Machine

open Sys2Proof

section outcomes
variable {m : M Done} {s t : State} {e : Exc} {code : Option Word32}

/-- An instruction whose effect raises an exception is the exception's delivery, a next state where its handler is entered
(60_exceptions.md R756, R800). -/
theorem runInstr_raised (h : m s.begin = .error (.exn ⟨e, code, false⟩) s.begin) :
    runInstr m s = raised s s.begin e code ∧ ∀ u, enters s s.begin e code u → runInstr m s = .next u := by
  have stops : runInstr m s = raised s s.begin e code := runInstr_error h
  exact ⟨stops, fun u entered => stops.trans (raised_enters entered)⟩

/-- An instruction whose effect is refused is the refusal. -/
theorem runInstr_refused {r : Refusal} (h : m s.begin = .error (.refuse r) t) : runInstr m s = .refused r :=
  runInstr_error h

end outcomes

section prefixRow
variable {s : State} {p : Prefixes}

theorem exec_prefixInstr (x : Prefix) (p : Prefixes) (t : PrefixTail) (s : State) :
    exec (prefixInstr x p t) s = runInstr (strayPrefix (x :: p) t) s := by cases x <;> rfl

/-- What begins an instruction does not bear on which encodings are undefined. -/
theorem undefinedForm_begin (s : State) (lock : Bool) (i : Instr) :
    undefinedForm s.begin lock i = undefinedForm s lock i := by
  simp only [undefinedForm, State.drUndefined, State.cr4De, State.begin_protectedMode, State.begin_params, State.begin_cr4]

/-- Each of the eight readings of the bytes is an undefined form. -/
theorem undefinedSoFar_iff (s : State) (p : Prefixes) (bs : List Byte) : undefinedSoFar s p bs = true ↔
    ∀ k < 8, ∃ j rest, decodeBody s.cs.attr.db p (bs ++ BitVec.ofNat 8 (8 * k) :: List.replicate 12 0) = .instr j rest ∧
      undefinedForm s (p.has .lock) j = true := by
  simp only [undefinedSoFar, beginnings, List.all_map, List.all_eq_true, List.mem_range, Function.comp_apply]
  refine forall₂_congr fun k _ => ?_
  generalize decodeBody s.cs.attr.db p (bs ++ BitVec.ofNat 8 (8 * k) :: List.replicate 12 0) = d
  cases d <;> simp

theorem undefinedSoFar_begin (s : State) (p : Prefixes) (bs : List Byte) :
    undefinedSoFar s.begin p bs = undefinedSoFar s p bs := by
  simp only [undefinedSoFar, undefinedForm_begin, State.begin_cs]

/-- A string that is too long raises `#UD` where its bytes settle that already, and otherwise `#GP(0)` (60_exceptions.md R790). -/
theorem strayPrefix_overlong (p : Prefixes) (bs : List Byte) (s : State) : strayPrefix p (.overlong bs) s =
    if undefinedSoFar s p bs = true then .error (.exn ⟨.ud, none, false⟩) s else .error (.exn ⟨.gp, some 0, false⟩) s := by
  simp [strayPrefix]

end prefixRow

/-- Settles O36: each row of prefixes tests its eight readings; a reserved row is a refusal. -/
theorem prefixAndReservedRows : Obligations.PrefixAndReservedRows := by
  intro p rm bs s
  refine ⟨fun i hi invalid hinvalid => ?_, ?_⟩
  · have row : i.2 = prefixInstr i.1 p := by fin_cases hi <;> rfl
    have settled : invalid ↔ undefinedSoFar s (i.1 :: p) bs = true := hinvalid.trans (undefinedSoFar_iff s _ bs).symm
    have stops := strayPrefix_overlong (i.1 :: p) bs s.begin
    rw [undefinedSoFar_begin] at stops
    simp only [row, exec_prefixInstr]
    exact ⟨fun valid => runInstr_raised (stops.trans (if_neg (valid ∘ settled.mpr))),
      fun undefined => runInstr_raised (stops.trans (if_pos (settled.mp undefined))), runInstr_refused rfl⟩
  · have stops : runInstr (refuse .reservedOpcode) s = .refused .reservedOpcode := runInstr_refused rfl
    simp only [List.forall_mem_cons, List.not_mem_nil, false_implies, implies_true, and_true]
    and_intros <;> exact stops

section checks
variable {p : Prefixes} {i : Instr} {s : State} {check : M Unit} {e : Exc} {code : Option Word32}

/-- The instruction makes a check before it does anything else. -/
def BeginsWith (check : M Unit) (i : Instr) : Prop := ∃ body : M Done, ∀ s, exec i s = runInstr (do check; body) s

theorem BeginsWith.raised (h : BeginsWith check i) (stops : check s.begin = .error (.exn ⟨e, code, false⟩) s.begin) :
    exec i s = raised s s.begin e code := by
  obtain ⟨body, meaning⟩ := h
  exact (meaning s).trans (runInstr_raised (by rw [run_bind, stops])).1

theorem BeginsWith.refused {r : Refusal} (h : BeginsWith check i) (stops : check s.begin = .error (.refuse r) s.begin) :
    exec i s = .refused r := by
  obtain ⟨body, meaning⟩ := h
  exact (meaning s).trans (runInstr_refused (by rw [run_bind, stops]))

theorem noLock_stops (h : p.has .lock = true) (s : State) : noLock p s = .error (.exn ⟨.ud, none, false⟩) s := by
  simp [noLock, h]

/-- LOCK stops an instruction that cannot be locked (30_encoding.md R340). -/
theorem plainPrefixes_lock (h : p.has .lock = true) (s : State) :
    plainPrefixes p s = .error (.exn ⟨.ud, none, false⟩) s := by simp [plainPrefixes, noLock_stops h]

/-- REP or REPNE stops an instruction that does not repeat (30_encoding.md R339, U17). -/
theorem plainPrefixes_rep (lock : p.has .lock = false) (rep : p.hasRep = true) (s : State) :
    plainPrefixes p s = .error (.refuse .repeatPrefix) s := by simp [plainPrefixes, noLock_ok lock, rep]

/-- With its prefixes in order, an instruction that checks the mode next takes `#UD` outside protected mode (40_system_registers.md
R371). -/
theorem raised_of_requireProtected {body : M Done} (plain : Prefixes.plain p = true) (mode : s.protectedMode = false) :
    runInstr (do plainPrefixes p; requireProtected; body) s = raised s s.begin .ud none :=
  (runInstr_raised (by simp [plainPrefixes_ok plain, mode, requireProtected_no])).1

end checks

/-- Settles O37: each of the instructions begins with the check of its prefixes, and then some with that of the mode. -/
theorem invalidOpcodeTraps : Obligations.InvalidOpcodeTraps := by
  intro p r rm m c o d rel far n s repeats others
  have checksPrefixes : ∀ i ∈ others, BeginsWith (plainPrefixes p) i := by
    simp only [others, List.forall_mem_cons, List.not_mem_nil, false_implies, implies_true, and_true]
    and_intros <;> exact ⟨_, fun _ => rfl⟩
  have checksLock : ∀ i ∈ repeats, BeginsWith (noLock p) i := by
    simp only [repeats, List.forall_mem_cons, List.not_mem_nil, false_implies, implies_true, and_true]
    and_intros <;> exact ⟨_, fun _ => rfl⟩
  refine ⟨?undefined, fun plain mode => ?protectedOnly, fun lock i hi => ?locked, fun lock rep i hi => ?repeated,
    fun plain family => ?register⟩
  case undefined =>
    simp only [List.forall_mem_cons, List.not_mem_nil, false_implies, implies_true, and_true]
    exact ⟨runInstr_raised rfl, runInstr_raised rfl, runInstr_raised rfl, runInstr_raised rfl⟩
  case protectedOnly =>
    simp only [List.forall_mem_cons, List.not_mem_nil, false_implies, implies_true, and_true]
    and_intros <;> exact raised_of_requireProtected plain mode
  case locked =>
    rcases List.mem_append.mp hi with other | repeating
    · exact (checksPrefixes i other).raised (plainPrefixes_lock lock _)
    · exact (checksLock i repeating).raised (noLock_stops lock _)
  case repeated => exact (checksPrefixes i hi).refused (plainPrefixes_rep lock rep _)
  case register =>
    exact (runInstr_raised (by simp [plainPrefixes_ok plain, requireI486, requireMem, family])).1

end Sys2Proof.Machine
end

section
/-! How the instructions of 40_system_registers.md run: what the checks they begin with answer, in the order the instructions make
them, and how an instruction completes. -/

namespace Sys2Proof.Machine

open Sys2Proof

/-- What holds of two things holds of both members of their list. -/
theorem forall_mem_pair {α : Type} {a b : α} {P : α → Prop} (ha : P a) (hb : P b) : ∀ x ∈ [a, b], P x := by
  simpa using ⟨ha, hb⟩

section checks
variable {p : Prefixes} {s : State} {n : Nat}

/-- The effect leads to the end of the instruction, and the instruction is retired. -/
theorem runInstr_retire {m : M Done} {u : State} (h : m s.begin = advance p n u) : runInstr m s = .next (u.retire p n) :=
  runInstr_ok h

/-- A check that passes leaves the rest of the instruction to be done. -/
theorem runInstr_passes {α : Type} {check : M α} {a : α} {k : α → M Done} (h : check s.begin = .ok a s.begin) :
    runInstr (check >>= k) s = runInstr (k a) s := by simp [runInstr, h]

/-- What an operation that an instruction begins with raises is the instruction's. -/
theorem runInstr_stops {α : Type} {m : M α} {k : α → M Done} {e : Err} {u : State} (h : m s.begin = .error e u) :
    runInstr (m >>= k) s = failed s e u := runInstr_error (by simp [h])

theorem runInstr_plain {k : M Done} (plain : Prefixes.plain p = true) :
    runInstr (do plainPrefixes p; k) s = runInstr k s := runInstr_passes (plainPrefixes_ok plain _)

theorem requireCpl0_begin (level : s.cpl = 0) : requireCpl0 s.begin = .ok () s.begin :=
  requireCpl0_ok ((State.begin_cpl s).trans level)

theorem requireCpl0_begin_no (level : s.cpl ≠ 0) : requireCpl0 s.begin = .error (.exn ⟨.gp, some 0, false⟩) s.begin :=
  requireCpl0_no (by rwa [State.begin_cpl])

theorem requireProtected_begin (mode : s.protectedMode = true) : requireProtected s.begin = .ok () s.begin :=
  requireProtected_ok ((State.begin_protectedMode s).trans mode)

theorem requireI486_ok (family : s.params.family ≠ .i386) : requireI486 s = .ok () s := by simp [requireI486, family]

theorem requireI486_no (family : s.params.family = .i386) : requireI486 s = .error (.exn ⟨.ud, none, false⟩) s := by
  simp [requireI486, family]

theorem requireI486_begin (family : s.params.family ≠ .i386) : requireI486 s.begin = .ok () s.begin :=
  requireI486_ok (by rwa [State.begin_params])

theorem requireI486_begin_no (family : s.params.family = .i386) :
    requireI486 s.begin = .error (.exn ⟨.ud, none, false⟩) s.begin := requireI486_no (by rwa [State.begin_params])

/-- A privileged instruction at another level than 0 (40_system_registers.md R370). -/
theorem raised_of_level {k : M Done} (plain : Prefixes.plain p = true) (level : s.cpl ≠ 0) :
    runInstr (do plainPrefixes p; requireCpl0; k) s = raised s s.begin .gp (some 0) :=
  (runInstr_plain plain).trans (runInstr_stops (requireCpl0_begin_no level))

/-- A privileged instruction that makes one more check first, which passes. -/
theorem raised_of_level_after {α : Type} {check : M α} {a : α} {k : α → M Done} (plain : Prefixes.plain p = true)
    (passes : check s.begin = .ok a s.begin) (level : s.cpl ≠ 0) :
    runInstr (do plainPrefixes p; let x ← check; requireCpl0; k x) s = raised s s.begin .gp (some 0) :=
  (runInstr_plain plain).trans ((runInstr_passes passes).trans (runInstr_stops (requireCpl0_begin_no level)))

end checks

section frame
variable {s t u : State}

theorem sameBytes_of_mem (h : t.mem = s.mem) (stored : List Nat) : sameBytes s t stored := by
  intro a _
  rw [State.byteAt, State.byteAt, h]

@[simp] theorem State.retire_mem (t : State) (p : Prefixes) (n : Nat) : (t.retire p n).mem = t.mem := rfl

@[simp] theorem State.freeFlags_mem (t : State) : t.freeFlags.mem = t.mem := rfl

@[simp] theorem State.putWord_mem (t : State) (p : Prefixes) (r : Reg) (v : Word16) : (t.putWord p r v).mem = t.mem := by
  unfold State.putWord
  split <;> rfl

end frame

section plain
variable {p : Prefixes} {s : State}

/-- CLTS at level 0 (40_system_registers.md R386). -/
theorem exec_clts (plain : Prefixes.plain p = true) (level : s.cpl = 0) :
    exec (.clts p) s = .next (State.retire { s.begin with cr0 := s.cr0 &&& 0xFFFFFFF7 } p 2) := by
  have cleared : setBit s.cr0 3 false = s.cr0 &&& 0xFFFFFFF7 := rfl
  exact runInstr_retire (by simp [plainPrefixes_ok plain, requireCpl0_begin level, cleared])

/-- HLT at level 0 (40_system_registers.md R405). -/
theorem exec_hlt (plain : Prefixes.plain p = true) (level : s.cpl = 0) :
    exec (.hlt p) s = .next (State.retire { s.begin with run := .halted } p 1) :=
  runInstr_retire (by simp [plainPrefixes_ok plain, requireCpl0_begin level])

/-- INVD and WBINVD have no effect on what the model holds (20_memory.md R161, D37; log entry 37). -/
theorem exec_invd (plain : Prefixes.plain p = true) (family : s.params.family ≠ .i386) (level : s.cpl = 0) :
    exec (.invd p) s = .next (s.begin.retire p 2) ∧ exec (.wbinvd p) s = .next (s.begin.retire p 2) :=
  have done := runInstr_retire (by simp [plainPrefixes_ok plain, requireI486_begin family, requireCpl0_begin level])
  ⟨done, done⟩

theorem raised_of_i386 {k : M Done} (plain : Prefixes.plain p = true) (family : s.params.family = .i386) :
    runInstr (do plainPrefixes p; requireI486; k) s = raised s s.begin .ud none :=
  (runInstr_plain plain).trans (runInstr_stops (requireI486_begin_no family))

end plain

/-- Settles O1: at level 0 each completes with its one update, and each check before it stops the instruction. -/
theorem privilegedPlainResults : Obligations.PrivilegedPlainResults := by
  intro p s plain
  have keeps : ∀ {u : State} {n : Nat}, u.mem = s.begin.mem → sameBytes s (u.retire p n) [] :=
    fun h => sameBytes_of_mem (by simp [h]) _
  refine ⟨fun level => ⟨⟨_, exec_clts plain level, rfl, keeps rfl⟩, ⟨_, exec_hlt plain level, rfl, keeps rfl⟩,
      fun family => ?done⟩,
    fun level => forall_mem_pair (raised_of_level plain level) (raised_of_level plain level),
    forall_mem_pair ⟨raised_of_i386 plain, raised_of_level_after plain ∘ requireI486_begin⟩
      ⟨raised_of_i386 plain, raised_of_level_after plain ∘ requireI486_begin⟩⟩
  case done =>
    obtain ⟨invd, wbinvd⟩ := exec_invd plain family level
    exact ⟨⟨_, invd, rfl, keeps rfl⟩, ⟨_, wbinvd, rfl, keeps rfl⟩⟩

end Sys2Proof.Machine
end

section
/-! The moves from and to control, debug and test registers (40_system_registers.md R380 to R383, R390, R394): one shape of
instruction, and the registers each number names. -/

namespace Sys2Proof.Machine

open Sys2Proof

section shape
variable {p : Prefixes} {undefined : State → Bool} {move : M Unit} {s u : State}

/-- The shape of a move from or to a special register: a register that is not there, the level, the move itself, and flags that are
free (40_system_registers.md R380, U20). -/
def specialMove (p : Prefixes) (undefined : State → Bool) (move : M Unit) : M Done := do
  plainPrefixes p
  if undefined (← get) then raiseUd else pure ()
  requireCpl0
  move
  freeArithFlags
  advance p 3

theorem freeArithFlags_ok (s : State) : freeArithFlags s = .ok () s.freeFlags := rfl

/-- A register that is not there takes `#UD` at every level. -/
theorem specialMove_undefined (plain : Prefixes.plain p = true) (absent : undefined s.begin = true) :
    runInstr (specialMove p undefined move) s = raised s s.begin .ud none :=
  (runInstr_raised (by simp [specialMove, plainPrefixes_ok plain, absent])).1

theorem specialMove_otherLevel (plain : Prefixes.plain p = true) (defined : undefined s.begin = false) (level : s.cpl ≠ 0) :
    runInstr (specialMove p undefined move) s = raised s s.begin .gp (some 0) :=
  (runInstr_raised (by simp [specialMove, plainPrefixes_ok plain, defined, requireCpl0_begin_no level])).1

theorem specialMove_ok (plain : Prefixes.plain p = true) (defined : undefined s.begin = false) (level : s.cpl = 0)
    (moved : move s.begin = .ok () u) :
    runInstr (specialMove p undefined move) s = .next (u.freeFlags.retire p 3) :=
  runInstr_retire (by
    simp [specialMove, plainPrefixes_ok plain, defined, requireCpl0_begin level, moved, freeArithFlags_ok])

theorem specialMove_error {e : Err} (plain : Prefixes.plain p = true) (defined : undefined s.begin = false)
    (level : s.cpl = 0) (stops : move s.begin = .error e u) : runInstr (specialMove p undefined move) s = failed s e u :=
  runInstr_error (by simp [specialMove, plainPrefixes_ok plain, defined, requireCpl0_begin level, stops])

end shape

section instructions
variable (p : Prefixes) (r : Reg) (n : BitVec 3) (s : State)

theorem exec_movFromCr : exec (.movFromCr p r n) s =
    runInstr (specialMove p (fun s => !crExists s.params n) (modify fun s => s.setReg r (s.cr n))) s := rfl

theorem exec_movFromDr : exec (.movFromDr p r n) s =
    runInstr (specialMove p (fun s => s.drUndefined n) (modify fun s => s.setReg r (s.dr n))) s := rfl

theorem exec_movToDr : exec (.movToDr p n r) s =
    runInstr (specialMove p (fun s => s.drUndefined n) (modify fun s => s.setDr n (s.reg r))) s := rfl

theorem exec_movFromTr : exec (.movFromTr p r n) s =
    runInstr (specialMove p (fun s => !trExists s.params n) (modify fun s => s.setReg r (s.testReg n))) s := rfl

theorem exec_movToTr : exec (.movToTr p n r) s =
    runInstr (specialMove p (fun s => !trExists s.params n) (modify fun s => s.setTestReg n (s.reg r))) s := rfl

/-- What MOV to a control register does with the value of its source (40_system_registers.md R380). -/
def writeCr (n : BitVec 3) (v : Word32) : M Unit :=
  match n.toNat with
  | 0 => writeCr0 v
  | 2 => modify (fun s => { s with cr2 := v })
  | 3 => writeCr3 v
  | _ => writeCr4 v

theorem exec_movToCr : exec (.movToCr p n r) s =
    runInstr (specialMove p (fun s => !crExists s.params n) (do writeCr n ((← get).reg r))) s := by
  rcases code_cases n with rfl | rfl | rfl | rfl | rfl | rfl | rfl | rfl <;> rfl

end instructions

section control
variable {s u : State} {v : Word32} {e : Err}

@[simp] theorem State.begin_pe (s : State) : s.begin.pe = s.pe := by simp [State.pe]
@[simp] theorem State.begin_pg (s : State) : s.begin.pg = s.pg := by simp [State.pg]
@[simp] theorem State.begin_cr4Pae (s : State) : s.begin.cr4Pae = s.cr4Pae := by simp [State.cr4Pae]

/-- The control registers there are (40_system_registers.md R380). -/
theorem crExists_iff (q : Params) (n : BitVec 3) :
    crExists q n = true ↔ n ∈ [0, 2, 3] ++ if q.hasCR4 then [4#3] else [] := by
  unfold crExists
  cases q.hasCR4 <;> revert n <;> decide

/-- The numbers that name no control register (40_system_registers.md R380). -/
theorem crExists_eq_false {q : Params} {n : BitVec 3} (h : n ∈ [1#3, 5#3, 6#3, 7#3] ++ if q.hasCR4 then [] else [4#3]) :
    crExists q n = false := by
  unfold crExists
  cases has : q.hasCR4 <;> rw [has] at h <;> revert n <;> decide

/-- Entering protected mode with an even CS, or not entering it (21_segmentation.md R214, D80). -/
theorem requireEvenCs_ok {b : Bool} (h : b = true → s.pe = true ∨ rpl s.cs.sel = 0) : requireEvenCs b s = .ok () s := by
  cases b with
  | false => simp [requireEvenCs]
  | true => rcases h rfl with pe | even <;> simp [requireEvenCs, *]

theorem requireEvenCs_no (pe : s.pe = false) (odd : rpl s.cs.sel ≠ 0) :
    requireEvenCs true s = .error (.refuse .protectionFromOddCs) s := by
  have refuses : (true && !s.pe && decide (rpl s.cs.sel ≠ 0)) = true := by rw [pe, decide_eq_true odd]; rfl
  simp only [requireEvenCs, run_bind, run_get, run_ite, if_pos refuses, run_refuse]

/-- PG without PE (40_system_registers.md R381). -/
theorem writeCr0_pgWithoutPe (pg : bit v 31 = true) (pe : bit v 0 = false) :
    writeCr0 v s = .error (.exn ⟨.gp, some 0, false⟩) s := by simp [writeCr0, pg, pe]

theorem writeCr0_oddCs (sets : bit v 0 = true) (pe : s.pe = false) (odd : rpl s.cs.sel ≠ 0) :
    writeCr0 v s = .error (.refuse .protectionFromOddCs) s := by simp [writeCr0, sets, requireEvenCs_no pe odd]

theorem pg_without_pe_eq_false (paging : bit v 31 = true → bit v 0 = true) : (bit v 31 && !bit v 0) = false := by
  cases pg : bit v 31 with
  | false => rfl
  | true => rw [paging pg]; rfl

section admitted
variable (paging : bit v 31 = true → bit v 0 = true) (even : bit v 0 = true → s.pe = true ∨ rpl s.cs.sel = 0)
include paging even

/-- A value of CR0 that is admitted: the page-directory-pointer entries are checked, and then the family's bits are written
(40_system_registers.md R381, 22_paging.md R313). -/
theorem writeCr0_ok
    (checked : checkPdpt (s.params.hasPAE && bit (cr0Value s.params.family v) 31 && s.cr4Pae) s.cr3 s = .ok () u) :
    writeCr0 v s = .ok () { u with cr0 := cr0Value s.params.family v } := by
  simp [writeCr0, pg_without_pe_eq_false paging, requireEvenCs_ok even, checked]

theorem writeCr0_error
    (stops : checkPdpt (s.params.hasPAE && bit (cr0Value s.params.family v) 31 && s.cr4Pae) s.cr3 s = .error e u) :
    writeCr0 v s = .error e u := by
  simp [writeCr0, pg_without_pe_eq_false paging, requireEvenCs_ok even, stops]

end admitted

@[simp] theorem touches_checkPdpt (b : Bool) (c : Word32) : Touches (checkPdpt b c) := by
  simp (maxDischargeDepth := 99) [checkPdpt]

theorem checkPdpt_accessed {b : Bool} {c : Word32} (h : checkPdpt b c s = .ok () u) : Accessed s u := by
  have touched := touches_checkPdpt b c s
  rwa [h] at touched

/-- A load of CR3: the check of the entries, that of the reserved bits, and then the update (40_system_registers.md R382). -/
theorem writeCr3_ok (checked : checkPdpt (s.params.hasPAE && s.cr4Pae && s.pg) (cr3Value s.cr4Pae v) s = .ok () u)
    (admitted : admitsCr3 s v) : writeCr3 v s = .ok () (State.flushTlb { u with cr3 := cr3Value s.cr4Pae v }) := by
  have asRead : requireAsRead (cr3AsRead s.cr4Pae v) u = .ok () u :=
    requireAsRead_ok (by rw [(checkPdpt_accessed checked).params]; exact (cr3AsRead_iff s v).mpr admitted)
  simp [writeCr3, checked, asRead]

theorem writeCr3_refused (checked : checkPdpt (s.params.hasPAE && s.cr4Pae && s.pg) (cr3Value s.cr4Pae v) s = .ok () u)
    (refused : ¬admitsCr3 s v) : writeCr3 v s = .error (.refuse .reservedBits) u := by
  rw [← cr3AsRead_iff, not_or, Bool.not_eq_true] at refused
  obtain ⟨treatment, reserved⟩ := refused
  have notAsRead : requireAsRead (cr3AsRead s.cr4Pae v) u = .error (.refuse .reservedBits) u :=
    requireAsRead_no (by rwa [(checkPdpt_accessed checked).params]) reserved
  simp [writeCr3, checked, notAsRead]

theorem writeCr3_error (stops : checkPdpt (s.params.hasPAE && s.cr4Pae && s.pg) (cr3Value s.cr4Pae v) s = .error e u) :
    writeCr3 v s = .error e u := by simp [writeCr3, stops]

theorem admitsCr3_begin (s : State) (v : Word32) : admitsCr3 s.begin v = admitsCr3 s v := by simp [admitsCr3]

/-- A load of CR3 keeps the global translations, while CR4.PGE is set (22_paging.md R302, R305). -/
theorem mem_flushTlb (s : State) (x : TlbEntry) : x ∈ s.flushTlb.tlb ↔ x ∈ s.tlb ∧ x.global = true ∧ s.cr4Pge = true := by
  simp [State.flushTlb]

/-- A bit of CR4 whose feature is absent (40_system_registers.md R383). -/
theorem writeCr4_absent (h : v &&& ~~~(cr4Present s.params) ≠ 0) :
    writeCr4 v s = .error (.exn ⟨.gp, some 0, false⟩) s := by
  simp only [writeCr4, run_bind, run_get, run_ite, if_pos h, run_raiseGp0]

theorem writeCr4_ok (h : v &&& ~~~(cr4Present s.params) = 0)
    (checked : checkPdpt (s.params.hasPAE && bit v 5 && s.pg) s.cr3 s = .ok () u) :
    writeCr4 v s = .ok () { u with cr4 := v } := by simp [writeCr4, h, checked]

theorem writeCr4_error (h : v &&& ~~~(cr4Present s.params) = 0)
    (stops : checkPdpt (s.params.hasPAE && bit v 5 && s.pg) s.cr3 s = .error e u) :
    writeCr4 v s = .error e u := by simp [writeCr4, h, stops]

end control

section moves
variable {p : Prefixes} {r : Reg} {n : BitVec 3} {s u : State} {e : Err}

/-- A move to a control register that is there, at level 0, is its write (40_system_registers.md R380). -/
theorem exec_movToCr_ok (plain : Prefixes.plain p = true) (level : s.cpl = 0) (there : crExists s.params n = true)
    (written : writeCr n (s.reg r) s.begin = .ok () u) :
    exec (.movToCr p n r) s = .next (u.freeFlags.retire p 3) :=
  (exec_movToCr p r n s).trans (specialMove_ok plain (by simp [there]) level (by simp [written]))

theorem exec_movToCr_error (plain : Prefixes.plain p = true) (level : s.cpl = 0) (there : crExists s.params n = true)
    (stops : writeCr n (s.reg r) s.begin = .error e u) : exec (.movToCr p n r) s = failed s e u :=
  (exec_movToCr p r n s).trans (specialMove_error plain (by simp [there]) level (by simp [stops]))

theorem exec_movToCr_absent (plain : Prefixes.plain p = true) (absent : crExists s.params n = false) :
    exec (.movToCr p n r) s = raised s s.begin .ud none :=
  (exec_movToCr p r n s).trans (specialMove_undefined plain (by simp [absent]))

end moves

/-- Settles O9: the register a number names is loaded, and a number that names none is the first check of the move. -/
theorem movFromControlRegister : Obligations.MovFromControlRegister := by
  intro p r s plain
  refine ⟨fun level x hx => ?loaded, fun n hn => ?absent⟩
  case absent => exact (exec_movFromCr ..).trans (specialMove_undefined plain (by simp [crExists_eq_false hn]))
  case loaded =>
    have named : crExists s.params x.1 = true ∧ s.begin.cr x.1 = x.2 := by
      rw [crExists_iff]
      cases has : s.params.hasCR4 <;> rw [has] at hx <;> fin_cases hx <;> simp [State.cr]
    obtain ⟨there, value⟩ := named
    have moved := specialMove_ok (undefined := fun s => !crExists s.params x.1) (move := modify fun s => s.setReg r (s.cr x.1))
      plain (by simp [there]) level (by rw [run_modify, value])
    exact ⟨_, (exec_movFromCr ..).trans moved, rfl, sameBytes_of_mem (by simp) _⟩

/-- Settles O10: each write of a control register is its checks in their order and then one update. -/
theorem movToControlRegister : Obligations.MovToControlRegister := by
  intro p r s u plain level
  have stops : ∀ {n : BitVec 3} {e v}, crExists s.params n = true → writeCr n (s.reg r) s.begin = .error e v →
      exec (.movToCr p n r) s = failed s e v := exec_movToCr_error plain level
  have moves : ∀ {n : BitVec 3} {v}, crExists s.params n = true → writeCr n (s.reg r) s.begin = .ok () v →
      exec (.movToCr p n r) s = .next (v.freeFlags.retire p 3) := exec_movToCr_ok plain level
  refine ⟨fun n hn => exec_movToCr_absent plain (crExists_eq_false hn),
    fun pg pe => stops (n := 0) rfl (writeCr0_pgWithoutPe pg pe),
    fun sets pe odd => stops (n := 0) rfl (writeCr0_oddCs sets (by rwa [State.begin_pe]) (by rwa [State.begin_cs])), ?cr0,
    ⟨_, moves (n := 2) rfl rfl, sameBytes_of_mem (by simp) _, rfl⟩, ?cr3, fun has => ?cr4⟩
  case cr0 =>
    rintro paging even new rfl
    have evenBegin : bit (s.reg r) 0 = true → s.begin.pe = true ∨ rpl s.begin.cs.sel = 0 := by
      rwa [State.begin_pe, State.begin_cs]
    have ok := writeCr0_ok (s := s.begin) (u := u) paging evenBegin
    have error := fun e => writeCr0_error (s := s.begin) (u := u) (e := e) paging evenBegin
    simp only [State.begin_params, State.begin_cr3, State.begin_cr4Pae] at ok error
    exact ⟨fun checked => ⟨_, moves rfl (ok checked), sameBytes_of_mem rfl _, rfl⟩,
      fun e fails => stops rfl (error e fails)⟩
  case cr3 =>
    intro b hb
    have value : b = cr3Value s.cr4Pae (s.reg r) := hb.trans (by unfold cr3Value; split <;> rfl)
    subst value
    have ok := writeCr3_ok (s := s.begin) (v := s.reg r) (u := u)
    have refused := writeCr3_refused (s := s.begin) (v := s.reg r) (u := u)
    have error := fun e => writeCr3_error (s := s.begin) (v := s.reg r) (u := u) (e := e)
    simp only [State.begin_params, State.begin_pg, State.begin_cr4Pae, admitsCr3_begin] at ok refused error
    refine ⟨fun checked => ⟨fun admitted => ⟨_, moves rfl (ok checked admitted), sameBytes_of_mem rfl _, rfl, fun e => ?_⟩,
      fun reserved => stops (n := 3) rfl (refused checked reserved)⟩, fun e fails => stops rfl (error e fails)⟩
    have pge : u.cr4Pge = s.cr4Pge := by simp [State.cr4Pge, (checkPdpt_accessed checked).cr4]
    exact pge ▸ mem_flushTlb _ e
  case cr4 =>
    have there : crExists s.params 4 = true := by simp [crExists_iff, has]
    have absent := writeCr4_absent (s := s.begin) (v := s.reg r)
    have ok := writeCr4_ok (s := s.begin) (v := s.reg r) (u := u)
    have error := fun e => writeCr4_error (s := s.begin) (v := s.reg r) (u := u) (e := e)
    simp only [State.begin_params, State.begin_cr3, State.begin_pg] at absent ok error
    exact ⟨fun reserved => stops there (absent reserved), fun present =>
      ⟨fun checked => ⟨_, moves there (ok present checked), sameBytes_of_mem rfl _, rfl⟩,
        fun e fails => stops there (error e present fails)⟩⟩

section debug
variable {p : Prefixes} {r : Reg} {n : BitVec 3} {s : State}

/-- DR4 and DR5, while CR4.DE is set (40_system_registers.md R390). -/
theorem drUndefined_iff (s : State) (n : BitVec 3) :
    s.drUndefined n = true ↔ (n = 4 ∨ n = 5) ∧ (s.params.hasDE && s.cr4De) = true := by
  simp [State.drUndefined, and_assoc]

theorem drUndefined_begin (s : State) (n : BitVec 3) : s.begin.drUndefined n = s.drUndefined n := by
  simp [State.drUndefined, State.cr4De]

theorem dr_begin (s : State) (n : BitVec 3) : s.begin.dr n = s.dr n := by simp [State.dr]

theorem exec_movDr_undefined (plain : Prefixes.plain p = true) (undefined : s.drUndefined n = true) :
    exec (.movFromDr p r n) s = raised s s.begin .ud none ∧ exec (.movToDr p n r) s = raised s s.begin .ud none :=
  have absent := (drUndefined_begin s n).trans undefined
  ⟨specialMove_undefined plain absent, specialMove_undefined plain absent⟩

theorem exec_movDr_otherLevel (plain : Prefixes.plain p = true) (defined : s.drUndefined n = false) (level : s.cpl ≠ 0) :
    exec (.movFromDr p r n) s = raised s s.begin .gp (some 0) ∧ exec (.movToDr p n r) s = raised s s.begin .gp (some 0) :=
  have there := (drUndefined_begin s n).trans defined
  ⟨specialMove_otherLevel plain there level, specialMove_otherLevel plain there level⟩

theorem exec_movFromDr_ok (plain : Prefixes.plain p = true) (defined : s.drUndefined n = false) (level : s.cpl = 0) :
    exec (.movFromDr p r n) s = .next ((s.begin.setReg r (s.dr n)).freeFlags.retire p 3) :=
  (exec_movFromDr p r n s).trans (specialMove_ok plain ((drUndefined_begin s n).trans defined) level (by simp [dr_begin]))

theorem exec_movToDr_ok (plain : Prefixes.plain p = true) (defined : s.drUndefined n = false) (level : s.cpl = 0) :
    exec (.movToDr p n r) s = .next ((s.begin.setDr n (s.reg r)).freeFlags.retire p 3) :=
  (exec_movToDr p r n s).trans (specialMove_ok plain ((drUndefined_begin s n).trans defined) level (by simp))

/-- The numbers that name a debug register (40_system_registers.md R390). -/
theorem drUndefined_eq_false (h : n ∈ [0#3, 1#3, 2#3, 3#3, 6#3, 7#3] ++ if s.params.hasDE && s.cr4De then [] else [4#3, 5#3]) :
    s.drUndefined n = false := by
  rw [← Bool.not_eq_true, drUndefined_iff]
  cases de : (s.params.hasDE && s.cr4De) with
  | false => simp
  | true =>
    rw [de] at h
    revert n
    decide

end debug

section test
variable {p : Prefixes} {r : Reg} {n : BitVec 3} {s : State}

theorem testReg_begin (s : State) (n : BitVec 3) : s.begin.testReg n = s.testReg n := by simp [State.testReg]

theorem exec_movTr_undefined (plain : Prefixes.plain p = true) (absent : trExists s.params n = false) :
    exec (.movFromTr p r n) s = raised s s.begin .ud none ∧ exec (.movToTr p n r) s = raised s s.begin .ud none :=
  have undefined : (!trExists s.begin.params n) = true := by simp [absent]
  ⟨specialMove_undefined plain undefined, specialMove_undefined plain undefined⟩

theorem exec_movTr_otherLevel (plain : Prefixes.plain p = true) (there : trExists s.params n = true) (level : s.cpl ≠ 0) :
    exec (.movFromTr p r n) s = raised s s.begin .gp (some 0) ∧ exec (.movToTr p n r) s = raised s s.begin .gp (some 0) :=
  have defined : (!trExists s.begin.params n) = false := by simp [there]
  ⟨specialMove_otherLevel plain defined level, specialMove_otherLevel plain defined level⟩

theorem exec_movFromTr_ok (plain : Prefixes.plain p = true) (there : trExists s.params n = true) (level : s.cpl = 0) :
    exec (.movFromTr p r n) s = .next ((s.begin.setReg r (s.testReg n)).freeFlags.retire p 3) :=
  (exec_movFromTr p r n s).trans (specialMove_ok plain (by simp [there]) level (by simp [testReg_begin]))

theorem exec_movToTr_ok (plain : Prefixes.plain p = true) (there : trExists s.params n = true) (level : s.cpl = 0) :
    exec (.movToTr p n r) s = .next ((s.begin.setTestReg n (s.reg r)).freeFlags.retire p 3) :=
  (exec_movToTr p r n s).trans (specialMove_ok plain (by simp [there]) level (by simp))

/-- The test registers an i386 has, and those an i486 has (10_state.md R102). -/
theorem trExists_iff {q : Params} (has : q.hasTestRegs = true) (family : q.family = .i386 ∨ q.family = .i486) (n : BitVec 3) :
    trExists q n = true ↔ n ∈ [6, 7] ++ if q.family = .i386 then [] else [3#3, 4#3, 5#3] := by
  unfold trExists
  rw [has]
  rcases family with h | h <;> rw [h] <;> revert n <;> decide

theorem trExists_without {q : Params} (h : q.hasTestRegs = false) (n : BitVec 3) : trExists q n = false := by
  simp [trExists, h]

theorem trExists_later {q : Params} (h : q.family = .pentium ∨ q.family = .p6) (n : BitVec 3) : trExists q n = false := by
  rcases h with h | h <;> simp [trExists, h]

end test

/-- Settles O11: the registers the numbers name, and the checks of the moves in their order. -/
theorem movDebugAndTestRegisters : Obligations.MovDebugAndTestRegisters := by
  intro p r s plain
  refine ⟨fun level => ⟨fun x hx => ?fromDr, fun x hx => ?toDr⟩, fun has de n hn => ?dr45,
    fun level n hn => exec_movDr_otherLevel plain (drUndefined_eq_false hn) level,
    fun later n => exec_movTr_undefined plain (trExists_later later n),
    fun without n => exec_movTr_undefined plain (trExists_without without n),
    fun has family => ⟨fun x hx => ?tr, fun n hn => exec_movTr_undefined plain ?noTr⟩⟩
  case fromDr =>
    have named : s.drUndefined x.1 = false ∧ s.dr x.1 = x.2 := by
      cases de : (s.params.hasDE && s.cr4De) <;> rw [de] at hx <;> fin_cases hx <;>
        exact ⟨drUndefined_eq_false (by simp [de]), rfl⟩
    obtain ⟨defined, value⟩ := named
    exact ⟨_, exec_movFromDr_ok plain defined level, sameBytes_of_mem (by simp) _, by rw [value]⟩
  case toDr =>
    have named : s.drUndefined x.1 = false ∧ s.begin.setDr x.1 (s.reg r) = x.2 := by
      cases de : (s.params.hasDE && s.cr4De) <;> rw [de] at hx <;> fin_cases hx <;>
        exact ⟨drUndefined_eq_false (by simp [de]), rfl⟩
    obtain ⟨defined, written⟩ := named
    exact ⟨_, exec_movToDr_ok plain defined level, sameBytes_of_mem (by simp) _, by rw [written]⟩
  case dr45 =>
    exact exec_movDr_undefined plain ((drUndefined_iff s n).mpr ⟨by simpa using hn, by simp [has, de]⟩)
  case tr =>
    have named : trExists s.params x.1 = true ∧ s.testReg x.1 = x.2.1 ∧
        s.begin.setTestReg x.1 (s.reg r) = { s.begin with testRegs := x.2.2 } := by
      rw [trExists_iff has family]
      rcases family with h | h <;> rw [h] at hx ⊢ <;> fin_cases hx <;> simp [State.testReg, State.setTestReg]
    obtain ⟨there, value, written⟩ := named
    exact ⟨fun level => ⟨⟨_, exec_movFromTr_ok plain there level, sameBytes_of_mem (by simp) _, by rw [value]⟩,
      ⟨_, exec_movToTr_ok plain there level, sameBytes_of_mem (by simp) _, by rw [written]⟩⟩,
      exec_movTr_otherLevel plain there⟩
  case noTr =>
    rw [← Bool.not_eq_true, trExists_iff has family]
    rcases family with h | h <;> rw [h] at hn ⊢ <;> revert n <;> decide

end Sys2Proof.Machine
end

section
/-! The instructions that store or read a word (40_system_registers.md R377, R379, R384, R385; 42_control_transfer.md R464), INVLPG
(R399), the counters and model-specific registers (R412 to R415), and the level at which all of these may run (R370). -/

namespace Sys2Proof.Machine

open Sys2Proof

section store
variable {p : Prefixes} {r : Reg} {m : MemOp} {w : Word16} {s u : State} {x : Slot}

/-- A word stored in a register (40_system_registers.md R377, U21). -/
theorem storeRm16_reg (p : Prefixes) (r : Reg) (w : Word16) (s : State) :
    storeRm16 p (.reg r) w s = .ok () (s.putWord p r w) := by
  cases wide : s.op32 p <;> simp [storeRm16, State.putWord, wide]

/-- A word stored in memory that is there (40_system_registers.md R420, 20_memory.md R127). -/
theorem storeRm16_mem (probed : memProbe (operandSeg p m) (s.ea m) 2 2 true s = .ok x u) (ram : x.isRam u = true)
    (w : Word16) : storeRm16 p (.mem m) w s = .ok () (u.stored x w.toNat) := by
  simp [storeRm16, writeMem, memWrite_ram probed ram]

/-- The four instructions that store a word store it wherever the store completes. -/
theorem exec_storeWord {rm : Rm} {after : Word16 → State} (plain : Prefixes.plain p = true)
    (stored : ∀ w, storeRm16 p rm w s.begin = .ok () (after w)) :
    (s.protectedMode = true →
      exec (.sldt p rm) s = .next ((after s.ldtr.sel).retire p (2 + rm.size)) ∧
      exec (.str p rm) s = .next ((after s.tr.sel).retire p (2 + rm.size))) ∧
    exec (.smsw p rm) s = .next ((after (lo16 s.cr0)).retire p (2 + rm.size)) ∧
    ∀ c g, SegReg.ofCode? c = some g → exec (.movFromSeg p rm c) s = .next ((after (s.seg g).sel).retire p (1 + rm.size)) := by
  refine ⟨fun mode => ⟨runInstr_retire ?sldt, runInstr_retire ?str⟩, runInstr_retire ?smsw,
    fun c g named => runInstr_retire ?mov⟩
  case sldt => simp [plainPrefixes_ok plain, requireProtected_begin mode, stored]
  case str => simp [plainPrefixes_ok plain, requireProtected_begin mode, stored]
  case smsw => simp [plainPrefixes_ok plain, stored]
  case mov => simp [plainPrefixes_ok plain, named, stored]

end store

/-- Settles O2: the four instructions share one store, and it is a register's or memory's. -/
theorem storeWord : Obligations.StoreWord := by
  refine ⟨fun p r s plain => ?register, fun p m s u x plain probed ram => ?memory⟩
  case register =>
    obtain ⟨system, smsw, mov⟩ := exec_storeWord (s := s) plain (storeRm16_reg p r · s.begin)
    have keeps : ∀ {w n}, sameBytes s ((s.begin.putWord p r w).retire p n) [] := sameBytes_of_mem (by simp) _
    refine ⟨fun mode => ?_, ⟨_, smsw, rfl, keeps⟩, fun c g named => ⟨_, mov c g named, rfl, keeps⟩⟩
    obtain ⟨sldt, str⟩ := system mode
    exact forall_mem_pair ⟨_, sldt, rfl, keeps⟩ ⟨_, str, rfl, keeps⟩
  case memory =>
    obtain ⟨system, smsw, mov⟩ := exec_storeWord (s := s) plain (storeRm16_mem (by rwa [State.begin_ea]) ram)
    have frame : ∀ {w : Word16} {n}, sameBytes u ((u.stored x w.toNat).retire p n) x.addrs := sameBytes_stored u x _
    refine ⟨fun mode => ?_, ⟨_, smsw, rfl, frame⟩, fun c g named => ⟨_, mov c g named, rfl, frame⟩⟩
    obtain ⟨sldt, str⟩ := system mode
    exact forall_mem_pair ⟨_, sldt, rfl, frame⟩ ⟨_, str, rfl, frame⟩

section lmsw
variable {p : Prefixes} {rm : Rm} {s v : State} {w : Word16}

theorem readRm16_accessed {e : Err} : (∀ {w}, readRm16 p rm s = .ok w v → Accessed s v) ∧
    (readRm16 p rm s = .error e v → Accessed s v) := by
  have touched := touches_readRm16 p rm s
  exact ⟨fun h => by rwa [h] at touched, fun h => by rwa [h] at touched⟩

/-- What LMSW writes: bits 3 to 1 from the word, and PE set or as it was (40_system_registers.md R384). -/
theorem lmsw_value (c x : Word32) :
    mergeBits 0x0000000E c x ||| (x &&& 1) = (c &&& 0xFFFFFFF1) ||| (x &&& 0x0000000F) := by
  have mask : (0x0000000F : Word32) = 0x0000000E ||| 1 := rfl
  rw [mergeBits, mask, BitVec.and_or_distrib_left, BitVec.or_assoc]
  rfl

end lmsw

/-- Settles O7: the word is read, entering protected mode is checked, and CR0 is written. -/
theorem lmswWritesLowBits : Obligations.LmswWritesLowBits := by
  intro p rm s v w e plain
  refine ⟨raised_of_level plain, fun level stops => ?stops, fun level read => ?_⟩
  case stops =>
    exact (runInstr_plain plain).trans ((runInstr_passes (requireCpl0_begin level)).trans (runInstr_stops stops))
  have touched := readRm16_accessed (e := e).1 read
  have pe : v.pe = s.pe := by simp [State.pe, touched.cr0]
  have cs : v.cs = s.cs := by simp [touched.cs]
  have cr0 : v.cr0 = s.cr0 := by simp [touched.cr0]
  refine ⟨fun even => ?written, fun sets off odd => ?refused⟩
  case written =>
    have passes : requireEvenCs (w.getLsbD 0) v = .ok () v := requireEvenCs_ok (by rwa [pe, cs])
    refine ⟨_, runInstr_retire (u := { v with cr0 := (s.cr0 &&& 0xFFFFFFF1) ||| (w.setWidth 32 &&& 0x0000000F) }) ?_,
      sameBytes_of_mem rfl _, rfl, fun on => ?_⟩
    · simp only [run_bind, plainPrefixes_ok plain, requireCpl0_begin level, read, passes, run_modify, lmsw_value, cr0]
    · show bit _ 0 = true
      have kept : bit ((s.cr0 &&& 0xFFFFFFF1) ||| (w.setWidth 32 &&& 0x0000000F)) 0 = (bit s.cr0 0 || w.getLsbD 0) := by
        simp [bit]
      rw [State.pe] at on
      exact kept.trans (by rw [on]; rfl)
  case refused =>
    have stops : requireEvenCs (w.getLsbD 0) v = .error (.refuse .protectionFromOddCs) v := by
      rw [sets]
      exact requireEvenCs_no (by rwa [pe]) (by rwa [cs])
    exact runInstr_refused (t := v) (by simp only [run_bind, plainPrefixes_ok plain, requireCpl0_begin level, read, stops])

/-- Settles O8: the one update of INVLPG is the filter of the TLB. -/
theorem invlpgDropsOnePage : Obligations.InvlpgDropsOnePage := by
  intro p m s plain level family
  refine ⟨_, runInstr_retire (u := s.begin.invalidatePage ((s.seg (operandSeg p m)).base + s.ea m)) ?_,
    sameBytes_of_mem (by simp [State.invalidatePage]) _, rfl, fun e => ?_⟩
  · simp [plainPrefixes_ok plain, requireI486_begin family, requireMem, requireCpl0_begin level, Rm.size]
  · show e ∈ List.filter _ s.begin.tlb ↔ _
    simp

section msr
variable {n k : Word32} {v old : BitVec 64} {s : State}

theorem msrValue_setMsr_same {ms : List Msr} (h : msrValue ms n = some old) : msrValue (setMsr n v ms) n = some v := by
  induction ms with
  | nil => simp [msrValue] at h
  | cons m ms ih =>
    by_cases same : m.number = n
    · simp [setMsr, msrValue, same]
    · rw [msrValue, if_neg same] at h
      simp [setMsr, msrValue, same, ih h]

theorem msrValue_setMsr_other (h : k ≠ n) (ms : List Msr) : msrValue (setMsr n v ms) k = msrValue ms k := by
  induction ms with
  | nil => rfl
  | cons m ms ih =>
    by_cases same : m.number = n
    · simp [setMsr, msrValue, same, h.symm]
    · simp [setMsr, msrValue, same, ih]

theorem isTscMsr_iff (s : State) (n : Word32) :
    s.isTscMsr n = true ↔ s.params.hasTSC = true ∧ s.params.tscMsr = some n := by simp [State.isTscMsr]

@[simp] theorem State.isTscMsr_setMsr (s : State) (n k : Word32) (v : BitVec 64) :
    (s.setMsr n v).isTscMsr k = s.isTscMsr k := by simp [State.isTscMsr]

/-- A write under the time-stamp counter's number (40_system_registers.md R413; log entry 5). -/
theorem setMsr_counter (h : s.isTscMsr n = true) (v : BitVec 64) :
    (s.setMsr n v).msrs = s.msrs ∧ (s.setMsr n v).tsc = v := by simp [State.setMsr, h]

/-- A write of a register of the file (40_system_registers.md R413). -/
theorem setMsr_file (h : s.isTscMsr n = false) (v : BitVec 64) :
    (s.setMsr n v).msrs = setMsr n v s.msrs ∧ (s.setMsr n v).tsc = s.tsc := by simp [State.setMsr, h]

/-- The register just written. -/
theorem msr_setMsr_same (h : s.msr n = some old) : (s.setMsr n v).msr n = some v := by
  unfold State.msr at h ⊢
  rw [State.isTscMsr_setMsr]
  cases counter : s.isTscMsr n with
  | true => simp [setMsr_counter counter v]
  | false =>
    rw [counter] at h
    simp [setMsr_file counter v, msrValue_setMsr_same h]

/-- Another register. -/
theorem msr_setMsr_other (h : k ≠ n) : (s.setMsr n v).msr k = s.msr k := by
  unfold State.msr
  rw [State.isTscMsr_setMsr]
  cases counter : s.isTscMsr n with
  | true =>
    have other : s.isTscMsr k = false := by
      rw [← Bool.not_eq_true, isTscMsr_iff, ((isTscMsr_iff s n).mp counter).2]
      simp [h.symm]
    simp [other, setMsr_counter counter v]
  | false => simp [setMsr_file counter v, msrValue_setMsr_other h]

/-- WRMSR changes the counter or the file, and nothing else. -/
theorem setMsr_eq (s : State) (n : Word32) (v : BitVec 64) :
    s.setMsr n v = { s with msrs := (s.setMsr n v).msrs, tsc := (s.setMsr n v).tsc } := by
  unfold State.setMsr
  split <;> rfl

end msr

section counters
variable {p : Prefixes} {s : State} {v : BitVec 64}

theorem requireFeature_ok {has : Bool} (h : has = true) (s : State) : requireFeature has s = .ok () s := by
  simp [requireFeature, h]

theorem requireFeature_no {has : Bool} (h : has = false) (s : State) :
    requireFeature has s = .error (.exn ⟨.ud, none, false⟩) s := by simp [requireFeature, h]

@[simp] theorem State.begin_cr4Tsd (s : State) : s.begin.cr4Tsd = s.cr4Tsd := by simp [State.cr4Tsd]
@[simp] theorem State.begin_cr4Pce (s : State) : s.begin.cr4Pce = s.cr4Pce := by simp [State.cr4Pce]

section msrs
variable (plain : Prefixes.plain p = true) (has : s.params.hasMSR = true)
include plain has

theorem exec_rdmsr (level : s.cpl = 0) (found : s.begin.msr (s.reg .ecx) = some v) :
    exec (.rdmsr p) s = .next ((s.begin.setEdxEax v).retire p 2) :=
  runInstr_retire (by simp [plainPrefixes_ok plain, requireFeature_ok has, requireCpl0_begin level, found])

theorem exec_wrmsr (level : s.cpl = 0) (found : s.begin.msr (s.reg .ecx) = some v) :
    exec (.wrmsr p) s = .next ((s.begin.setMsr (s.reg .ecx) (s.reg .edx ++ s.reg .eax)).retire p 2) :=
  runInstr_retire (by simp [plainPrefixes_ok plain, requireFeature_ok has, requireCpl0_begin level, found])

/-- A number that names no register (40_system_registers.md R412, R413). -/
theorem exec_msr_none (level : s.cpl = 0) (missing : s.begin.msr (s.reg .ecx) = none) :
    exec (.rdmsr p) s = raised s s.begin .gp (some 0) ∧ exec (.wrmsr p) s = raised s s.begin .gp (some 0) :=
  ⟨(runInstr_raised (by simp [plainPrefixes_ok plain, requireFeature_ok has, requireCpl0_begin level, missing])).1,
    (runInstr_raised (by simp [plainPrefixes_ok plain, requireFeature_ok has, requireCpl0_begin level, missing])).1⟩

theorem exec_msr_otherLevel (level : s.cpl ≠ 0) :
    exec (.rdmsr p) s = raised s s.begin .gp (some 0) ∧ exec (.wrmsr p) s = raised s s.begin .gp (some 0) :=
  have feature := requireFeature_ok (has := s.begin.params.hasMSR) (by rwa [State.begin_params]) s.begin
  ⟨raised_of_level_after (check := do requireFeature (← get).params.hasMSR) plain feature level,
    raised_of_level_after (check := do requireFeature (← get).params.hasMSR) plain feature level⟩

end msrs

/-- An instruction whose feature is absent (30_encoding.md R355). -/
theorem raised_of_feature {feature : State → Bool} {k : M Done} (plain : Prefixes.plain p = true)
    (absent : feature s.begin = false) :
    runInstr (do plainPrefixes p; requireFeature (feature (← get)); k) s = raised s s.begin .ud none :=
  (runInstr_raised (by simp [plainPrefixes_ok plain, requireFeature_no absent])).1

theorem exec_rdtsc (plain : Prefixes.plain p = true) (has : s.params.hasTSC = true) (may : s.cr4Tsd = false ∨ s.cpl = 0) :
    exec (.rdtsc p) s = .next ((s.begin.setEdxEax s.begin.tsc).retire p 2) := by
  refine runInstr_retire ?_
  rcases may with free | level
  · simp [plainPrefixes_ok plain, requireFeature_ok has, free]
  · simp [plainPrefixes_ok plain, requireFeature_ok has, requireCpl0_begin level]

theorem exec_rdtsc_otherLevel (plain : Prefixes.plain p = true) (has : s.params.hasTSC = true) (tsd : s.cr4Tsd = true)
    (level : s.cpl ≠ 0) : exec (.rdtsc p) s = raised s s.begin .gp (some 0) :=
  (runInstr_raised (by simp [plainPrefixes_ok plain, requireFeature_ok has, tsd, requireCpl0_begin_no level])).1

theorem exec_rdpmc_otherLevel (plain : Prefixes.plain p = true) (has : s.params.hasPMC = true) (pce : s.cr4Pce = false)
    (level : s.cpl ≠ 0) : exec (.rdpmc p) s = raised s s.begin .gp (some 0) :=
  (runInstr_raised (by simp [plainPrefixes_ok plain, requireFeature_ok has, pce, requireCpl0_begin_no level])).1

/-- Once RDPMC may run, its number decides (40_system_registers.md R415). -/
def rdpmcRead (p : Prefixes) : M Done := do
  let s ← get
  if s.reg .ecx = 0 then set (s.setEdxEax (s.pmc0.setWidth 64))
  else if s.reg .ecx = 1 then set (s.setEdxEax (s.pmc1.setWidth 64))
  else raiseGp0
  advance p 2

theorem exec_rdpmc (plain : Prefixes.plain p = true) (has : s.params.hasPMC = true) (may : s.cr4Pce = true ∨ s.cpl = 0) :
    exec (.rdpmc p) s = runInstr (rdpmcRead p) s := by
  show runInstr _ s = _
  unfold runInstr
  rcases may with free | level
  · simp [plainPrefixes_ok plain, requireFeature_ok has, free, rdpmcRead]
  · simp [plainPrefixes_ok plain, requireFeature_ok has, requireCpl0_begin level, rdpmcRead]

end counters

/-- Settles O12: the checks of each instruction in their order, and what a write of a model-specific register leaves alone. -/
theorem countersAndModelRegisters : Obligations.CountersAndModelRegisters := by
  intro p s v plain
  have keeps : ∀ {w : BitVec 64} {n}, sameBytes s ((s.begin.setEdxEax w).retire p n) [] := sameBytes_of_mem (by simp) _
  refine ⟨fun has level found => ⟨⟨_, exec_rdmsr plain has level found, rfl, keeps⟩, ?wrmsr⟩,
    fun has level missing => exec_msr_none plain has level missing,
    fun has may => ⟨_, exec_rdtsc plain has may, rfl, keeps⟩, fun absent => raised_of_feature plain (by simpa using absent),
    fun has tsd level => exec_rdtsc_otherLevel plain has tsd level,
    fun has may => ⟨fun x hx ecx => ?rdpmc, fun large => ?noCounter⟩,
    fun has pce level => exec_rdpmc_otherLevel plain has pce level,
    fun absent => raised_of_feature plain (by simpa using absent), ?msrStops⟩
  case wrmsr =>
    refine ⟨_, exec_wrmsr plain has level found, congrArg (State.retire · p 2) (setMsr_eq s.begin _ _),
      sameBytes_of_mem (by simp) _, msr_setMsr_same found, fun n other => msr_setMsr_other other, fun counter names => ?_⟩
    have tscMsr : counter ↔ s.begin.isTscMsr (s.reg .ecx) = true := by rw [names, isTscMsr_iff, State.begin_params]
    rw [tscMsr, Bool.not_eq_true]
    refine ⟨fun h => ?_, fun h => (setMsr_file h _).2⟩
    obtain ⟨msrs, tsc⟩ := setMsr_counter h (s.reg .edx ++ s.reg .eax)
    exact ⟨msrs.trans (State.begin_msrs s), tsc⟩
  case rdpmc =>
    rw [exec_rdpmc plain has may]
    fin_cases hx <;> exact ⟨_, runInstr_retire (by simp [rdpmcRead, ecx]), rfl, keeps⟩
  case noCounter =>
    have not0 : s.reg .ecx ≠ 0 := fun h => by simp [h] at large
    have not1 : s.reg .ecx ≠ 1 := fun h => by simp [h] at large
    rw [exec_rdpmc plain has may]
    refine (runInstr_raised ?_).1
    simp only [rdpmcRead, run_bind, run_get, run_ite, State.begin_reg, if_neg not0, if_neg not1, run_raiseGp0]
  case msrStops =>
    have level := exec_msr_otherLevel (p := p) (s := s) plain
    exact forall_mem_pair ⟨fun absent => raised_of_feature plain (by simpa using absent), fun has other => (level has other).1⟩
      ⟨fun absent => raised_of_feature plain (by simpa using absent), fun has other => (level has other).2⟩

/-- Settles O38: the check of the level comes before the instruction's effect, after the checks that the hypotheses let pass. -/
theorem privilegedTraps : Obligations.PrivilegedTraps := by
  intro p r rm m s plain level
  have fromCr : ∀ {n}, crExists s.params n = true → exec (.movFromCr p r n) s = raised s s.begin .gp (some 0) :=
    fun there => specialMove_otherLevel plain (by simp [there]) level
  have toCr : ∀ {n}, crExists s.params n = true → exec (.movToCr p n r) s = raised s s.begin .gp (some 0) :=
    fun there => (exec_movToCr ..).trans (specialMove_otherLevel plain (by simp [there]) level)
  obtain ⟨fromDr7, toDr7⟩ := exec_movDr_otherLevel (r := r) (n := 7) plain (drUndefined_eq_false (by simp)) level
  simp only [List.forall_mem_cons, List.not_mem_nil, false_implies, implies_true, and_true]
  refine ⟨⟨raised_of_level plain level, raised_of_level plain level, raised_of_level plain level, raised_of_level plain level,
    raised_of_level plain level, fromCr rfl, fromCr rfl, fromCr rfl, toCr rfl, toCr rfl, toCr rfl, fromDr7, toDr7⟩,
    fun mode => ?protectedMode, fun family => ?i486, fun has => ?cr4, fun has family => ?test,
    fun has => exec_msr_otherLevel plain has level, fun has tsd => exec_rdtsc_otherLevel plain has tsd level,
    fun has pce => exec_rdpmc_otherLevel plain has pce level⟩
  case protectedMode =>
    have mode := requireProtected_begin mode
    exact ⟨raised_of_level_after plain mode level, raised_of_level_after plain mode level⟩
  case i486 =>
    have family := requireI486_begin family
    exact ⟨raised_of_level_after plain family level, raised_of_level_after plain family level,
      raised_of_level_after plain family level⟩
  case cr4 =>
    have there : crExists s.params 4 = true := by simp [crExists_iff, has]
    exact ⟨fromCr there, toCr there⟩
  case test => exact exec_movTr_otherLevel plain ((trExists_iff has family 6).mpr (by simp)) level

end Sys2Proof.Machine
end

section
/-! The loads and stores of GDTR and IDTR (40_system_registers.md R372 to R375): one operand of two parts. -/

namespace Sys2Proof.Machine

open Sys2Proof

section pseudo
variable {p : Prefixes} {m : MemOp} {s u w : State} {x y : Slot} {lim base : Nat}

theorem probeMem_accessed {i n a : Nat} (h : probeMem p m i n a s = .ok x u) : Accessed s u := by
  have touched := touches_probeMem p m i n a s
  rwa [h] at touched

theorem readMem_accessed {i n a v : Nat} (h : readMem p m i n a s = .ok v u) : Accessed s u := by
  have touched := touches_readMem p m i n a s
  rwa [h] at touched

/-- The operand size is that of CS, which no access changes. -/
theorem op32_of_accessed (h : Accessed s u) (p : Prefixes) : u.op32 p = s.op32 p := by simp [State.op32, h.cs]

@[simp] theorem Slot.isRam_stored (x y : Slot) (t : State) (v : Nat) : x.isRam (t.stored y v) = x.isRam t := rfl

@[simp] theorem Slot.isRam_setFree (x : Slot) (t : State) (n : Nat) : x.isRam { t with free := n } = x.isRam t := rfl

/-- The state once a pseudo-descriptor is stored in two checked slots: with a 16-bit operand size the last byte is free
(40_system_registers.md R373, R375, U19). -/
def State.storedPseudo (w : State) (wide : Bool) (x y : Slot) (t : TableReg) : State :=
  if wide then State.stored (w.stored x t.limit.toNat) y t.base.toNat
  else State.stored (State.stored { w with free := w.free + 1 } x t.limit.toNat) y
    ((Config.freeWord w.free).extractLsb' 24 8 ++ t.base.extractLsb' 0 24).toNat

/-- Both parts of a pseudo-descriptor are checked, and then both are stored (40_system_registers.md R373). -/
theorem storePseudo_ok (extent : segOk s.protectedMode (s.seg (operandSeg p m)) (s.ea m) 6 true = true)
    (limit : probeMem p m 0 2 2 s = .ok x u) (base : probeMem p m 2 4 4 u = .ok y w) (ramX : x.isRam w = true)
    (ramY : y.isRam w = true) (t : TableReg) :
    storePseudo p m t s = .ok () (w.storedPseudo (s.op32 p) x y t) := by
  have size : w.op32 p = s.op32 p := op32_of_accessed ((probeMem_accessed limit).trans (probeMem_accessed base)) p
  cases wide : s.op32 p <;>
    simp [storePseudo, State.storedPseudo, checkExtent_ok extent, limit, base, size, wide, slotWrite_ok, ramX, ramY]

/-- Two stores change no byte outside their slots. -/
theorem sameBytes_twoStores (t : State) (x y : Slot) (a b : Nat) :
    sameBytes t ((t.stored x a).stored y b) (x.addrs ++ y.addrs) := by
  intro i hi
  rw [List.mem_append, not_or] at hi
  exact (sameBytes_stored _ y b i hi.2).trans (sameBytes_stored t x a i hi.1)

theorem sameBytes_storedPseudo (w : State) (wide : Bool) (x y : Slot) (t : TableReg) :
    sameBytes w (w.storedPseudo wide x y t) (x.addrs ++ y.addrs) := by
  cases wide with
  | true => exact sameBytes_twoStores w x y _ _
  | false => exact sameBytes_twoStores { w with free := w.free + 1 } x y _ _

/-- The limit and the base are read one after the other, of one operand (40_system_registers.md R372). -/
theorem loadPseudo_ok (extent : segOk s.protectedMode (s.seg (operandSeg p m)) (s.ea m) 6 false = true)
    (limit : readMem p m 0 2 2 s = .ok lim u) (read : readMem p m 2 4 4 u = .ok base w) :
    loadPseudo p m s = .ok ⟨if s.op32 p then BitVec.ofNat 32 base else BitVec.ofNat 32 base &&& 0x00FFFFFF,
      BitVec.ofNat 16 lim⟩ w := by
  have size : w.op32 p = s.op32 p := op32_of_accessed ((readMem_accessed limit).trans (readMem_accessed read)) p
  simp only [loadPseudo, run_bind, checkExtent_ok extent, limit, read, run_get, run_pure, size]

end pseudo

section instructions
variable {p : Prefixes} {m : MemOp} {s w : State}

/-- A register operand is no operand of the four instructions (30_encoding.md R355). -/
theorem raised_of_register {k : MemOp → M Done} {r : Reg} (plain : Prefixes.plain p = true) :
    runInstr (do plainPrefixes p; let m ← requireMem (.reg r); k m) s = raised s s.begin .ud none :=
  (runInstr_plain plain).trans (runInstr_stops rfl)

/-- The extent of the operand does not pass the segment's checks (21_segmentation.md R234, R237). -/
theorem checkExtent_begin_no {n : Nat} {write : Bool}
    (h : segOk s.protectedMode (s.seg (operandSeg p m)) (s.ea m) n write = false) : checkExtent p m n write s.begin =
      .error (.exn ⟨if operandSeg p m = .ss then .ss else .gp, some 0, false⟩) s.begin :=
  checkExtent_no (by simpa using h)

theorem exec_storePseudo {after : TableReg → State} (plain : Prefixes.plain p = true)
    (stored : ∀ t, storePseudo p m t s.begin = .ok () (after t)) :
    exec (.sgdt p (.mem m)) s = .next ((after s.gdtr).retire p (2 + m.size)) ∧
      exec (.sidt p (.mem m)) s = .next ((after s.idtr).retire p (2 + m.size)) :=
  ⟨runInstr_retire (by simp [plainPrefixes_ok plain, requireMem, stored, Rm.size]),
    runInstr_retire (by simp [plainPrefixes_ok plain, requireMem, stored, Rm.size])⟩

theorem exec_loadPseudo {t : TableReg} (plain : Prefixes.plain p = true) (level : s.cpl = 0)
    (loaded : loadPseudo p m s.begin = .ok t w) :
    exec (.lgdt p (.mem m)) s = .next (State.retire { w with gdtr := t } p (2 + m.size)) ∧
      exec (.lidt p (.mem m)) s = .next (State.retire { w with idtr := t } p (2 + m.size)) :=
  ⟨runInstr_retire (by simp [plainPrefixes_ok plain, requireMem, requireCpl0_begin level, loaded, Rm.size]),
    runInstr_retire (by simp [plainPrefixes_ok plain, requireMem, requireCpl0_begin level, loaded, Rm.size])⟩

end instructions

/-- Settles O6: a store of both parts is two stores in checked slots, a load of both parts two reads, and the extent of the operand
is checked before either. -/
theorem descriptorTableRegisters : Obligations.DescriptorTableRegisters := by
  intro p m r s u w x y lim base plain
  refine ⟨?register, fun bad => ?store, fun level bad => ?load, fun extent limit read ramX ramY => ?stored,
    fun level extent limit read b hb => ?loaded⟩
  case register =>
    simp only [List.forall_mem_cons, List.not_mem_nil, false_implies, implies_true, and_true]
    exact ⟨raised_of_register plain, raised_of_register plain, raised_of_register plain, raised_of_register plain⟩
  case store =>
    have stops : ∀ t, storePseudo p m t s.begin =
        .error (.exn ⟨if operandSeg p m = .ss then .ss else .gp, some 0, false⟩) s.begin := by
      simp [storePseudo, checkExtent_begin_no bad]
    exact forall_mem_pair (runInstr_raised (by simp [plainPrefixes_ok plain, requireMem, stops])).1
      (runInstr_raised (by simp [plainPrefixes_ok plain, requireMem, stops])).1
  case load =>
    have stops : loadPseudo p m s.begin =
        .error (.exn ⟨if operandSeg p m = .ss then .ss else .gp, some 0, false⟩) s.begin := by
      simp [loadPseudo, checkExtent_begin_no bad]
    exact forall_mem_pair (runInstr_raised (by simp [plainPrefixes_ok plain, requireMem, requireCpl0_begin level, stops])).1
      (runInstr_raised (by simp [plainPrefixes_ok plain, requireMem, requireCpl0_begin level, stops])).1
  case stored =>
    obtain ⟨sgdt, sidt⟩ := exec_storePseudo plain (storePseudo_ok (s := s.begin) (by simpa using extent) limit read ramX ramY)
    rw [State.begin_op32] at sgdt sidt
    have frame : ∀ t n, sameBytes w ((w.storedPseudo (s.op32 p) x y t).retire p n) (x.addrs ++ y.addrs) :=
      fun t _ => sameBytes_storedPseudo w _ x y t
    exact forall_mem_pair ⟨_, sgdt, frame _ _, rfl⟩ ⟨_, sidt, frame _ _, rfl⟩
  case loaded =>
    subst hb
    have loaded := loadPseudo_ok (s := s.begin) (by simpa using extent) limit read
    rw [State.begin_op32] at loaded
    obtain ⟨lgdt, lidt⟩ := exec_loadPseudo plain level loaded
    exact ⟨⟨_, lgdt, sameBytes_of_mem rfl _, rfl⟩, ⟨_, lidt, sameBytes_of_mem rfl _, rfl⟩⟩

end Sys2Proof.Machine
end

section
/-! The loads of LDTR and TR (40_system_registers.md R376, R378): the selector and its descriptor, the loads, and the mark LTR
makes in the table. -/

namespace Sys2Proof.Machine

open Sys2Proof

section descriptor
variable {sel : Word16} {d : Desc} {s u w : State} {e : Err} {a : List Nat}

/-- A selector of an LDT, or one beyond the limit of the GDT (40_system_registers.md R376, R378). -/
theorem gdtDescriptor_outside (h : selTi sel = true ∨ s.gdtr.limit.toNat < selIndex sel * 8 + 7) :
    gdtDescriptor sel s = .error (.exn ⟨.gp, some (selectorErrorCode sel false), false⟩) s := by
  cases ti : selTi sel with
  | true => simp [gdtDescriptor, ti]
  | false =>
    have beyond := h.resolve_left (by simp [ti])
    simp [gdtDescriptor, ti, tableRead_none (.inr beyond)]

/-- The types of an available TSS (43_tasks.md R526). -/
theorem availableTss_iff : ∀ type : BitVec 4, type.toNat ∈ [1, 9] ↔ type = 1 ∨ type = 9 := by decide

section ldtr

theorem loadLdtr_error (read : gdtDescriptor sel s = .error e w) : loadLdtr sel s = .error e w := by simp [loadLdtr, read]

variable (read : gdtDescriptor sel s = .ok d w)
include read

theorem loadLdtr_unsuited (h : descS d = true ∨ descType d ≠ 2) :
    loadLdtr sel s = .error (.exn ⟨.gp, some (selectorErrorCode sel false), false⟩) w := by
  have unsuited : (descS d || decide (descType d ≠ 2)) = true := by simpa using h
  simp only [loadLdtr, run_bind, read, run_ite, if_pos unsuited, run_raiseSel]

theorem loadLdtr_notPresent (system : descS d = false) (ldt : descType d = 2) (absent : descP d = false) :
    loadLdtr sel s = .error (.exn ⟨.np, some (selectorErrorCode sel false), false⟩) w := by
  simp [loadLdtr, read, system, ldt, absent]

theorem loadLdtr_ok (system : descS d = false) (ldt : descType d = 2) (present : descP d = true) :
    loadLdtr sel s = .ok () { w with ldtr := ⟨sel, descBase d, descLimit d, descAttr d, true⟩ } := by
  simp [loadLdtr, read, system, ldt, present]

end ldtr

section tr

theorem loadTr_error (read : gdtDescriptor sel s = .error e w) : loadTr sel s = .error e w := by simp [loadTr, read]

/-- The byte of the descriptor that LTR changes, once it is read (40_system_registers.md R378). -/
theorem updateByte_ram (ram : AllRam u.params a) (set : Nat) : updateByte a 0 set u =
    .ok () { u with mem := setCells u.mem a (bytesOf a.length ((ofBytes (a.map u.byteAt) &&& 255) ||| set)) } := by
  simp [updateByte, physReadAt_ram ram, physWriteAt_ram ram]

variable (read : gdtDescriptor sel s = .ok d w)
include read

theorem loadTr_unsuited (h : descS d = true ∨ descType d ≠ 1 ∧ descType d ≠ 9) :
    loadTr sel s = .error (.exn ⟨.gp, some (selectorErrorCode sel false), false⟩) w := by
  have unsuited : (descS d || !decide ((descType d).toNat ∈ [1, 9])) = true := by
    simpa only [Bool.or_eq_true, Bool.not_eq_true', decide_eq_false_iff_not, availableTss_iff, not_or] using h
  simp only [loadTr, run_bind, read, run_ite, if_pos unsuited, run_raiseSel]

variable (system : descS d = false) (tss : descType d = 1 ∨ descType d = 9)
include system tss

theorem loadTr_notPresent (absent : descP d = false) :
    loadTr sel s = .error (.exn ⟨.np, some (selectorErrorCode sel false), false⟩) w := by
  simp only [loadTr, run_bind, read, run_ite, system, (availableTss_iff _).mpr tss, absent, run_raiseSel]
  rfl

variable (present : descP d = true)
include present

theorem loadTr_probeError (probed : linAddrs (w.descAddr sel 5) 1 Acc.supWrite w = .error e u) :
    loadTr sel s = .error e u := by
  simp only [loadTr, run_bind, read, run_ite, run_get, system, (availableTss_iff _).mpr tss, present, probed]
  rfl

theorem loadTr_ok (probed : linAddrs (w.descAddr sel 5) 1 Acc.supWrite w = .ok a u) (ram : AllRam u.params a) :
    loadTr sel s = .ok () { u with
      tr := ⟨sel, descBase d, descLimit d, tssAttr d, true⟩
      mem := setCells u.mem a (bytesOf a.length ((ofBytes (a.map u.byteAt) &&& 255) ||| 2)) } := by
  simp only [loadTr, run_bind, read, run_ite, run_get, run_modify, system, (availableTss_iff _).mpr tss, present, probed,
    updateByte_ram ram]
  rfl

end tr

/-- Reading a byte just written that is not 0, which needs no canonical form. -/
theorem cellByte_setCell_of_ne_zero (m : List Host.Cell) (x : Nat) {v : Byte} (h : v ≠ 0) :
    cellByte (setCell m x v) x = v := by
  induction m with
  | nil => simp only [setCell, if_neg h, cellByte, if_true]
  | cons c cs ih =>
    obtain ⟨b, y⟩ := c
    by_cases below : x < b
    · simp only [setCell, if_pos below, if_neg h, cellByte, if_true]
    by_cases same : x = b
    · simp only [setCell, if_neg below, if_pos same, if_neg h, cellByte, if_true]
    · simp only [setCell, if_neg below, if_neg same, cellByte, ih]

/-- The busy bit is set in the one byte that is written (40_system_registers.md R378). -/
theorem cellByte_markBusy (u : State) (x : Nat) :
    cellByte (setCells u.mem [x] (bytesOf 1 ((ofBytes [u.byteAt x] &&& 255) ||| 2))) x = u.byteAt x ||| 2 := by
  have low : ofBytes [u.byteAt x] &&& 255 = ofBytes [u.byteAt x] := by
    rw [show 255 = 2 ^ 8 - 1 from rfl, Nat.and_two_pow_sub_one_eq_mod]
    exact Nat.mod_eq_of_lt (ofBytes_lt [u.byteAt x])
  have busy : u.byteAt x ||| 2 ≠ 0 := fun h => by
    have set := congrArg (·.getLsbD 1) h
    simp at set
  have byte : bytesOf 1 (ofBytes [u.byteAt x] ||| 2) = [u.byteAt x ||| 2] := bytesOf_ofBytes_or (u.byteAt x) [] (by decide)
  rw [low, byte]
  exact cellByte_setCell_of_ne_zero u.mem x busy

end descriptor

section shape
variable {p : Prefixes} {rm : Rm} {null load : Word16 → M Unit} {act : M Unit} {s v t : State} {sel : Word16} {e : Err}

/-- The shape of LLDT and LTR: a selector is read at level 0, and what is done with it depends on whether it is null. -/
def loadSystem (p : Prefixes) (rm : Rm) (null load : Word16 → M Unit) : M Done := do
  plainPrefixes p
  requireProtected
  requireCpl0
  let sel ← readRm16 p rm
  if isNull sel then null sel else load sel
  advance p (2 + rm.size)

theorem exec_lldt (p : Prefixes) (rm : Rm) (s : State) : exec (.lldt p rm) s =
    runInstr (loadSystem p rm (fun sel => modify fun s => { s with ldtr := { s.ldtr with sel := sel, valid := false } })
      loadLdtr) s := rfl

theorem exec_ltr (p : Prefixes) (rm : Rm) (s : State) :
    exec (.ltr p rm) s = runInstr (loadSystem p rm (fun _ => raiseGp0) loadTr) s := rfl

variable (plain : Prefixes.plain p = true) (mode : s.protectedMode = true) (level : s.cpl = 0)
include plain mode level

theorem loadSystem_readError (stops : readRm16 p rm s.begin = .error e v) :
    runInstr (loadSystem p rm null load) s = failed s e v :=
  runInstr_error (by simp [loadSystem, plainPrefixes_ok plain, requireProtected_begin mode, requireCpl0_begin level, stops])

variable (read : readRm16 p rm s.begin = .ok sel v)
include read

/-- Once the selector is read, what is left is the case it chooses. -/
theorem loadSystem_read : loadSystem p rm null load s.begin =
    ((if isNull sel then null sel else load sel) >>= fun _ => advance p (2 + rm.size)) v := by
  simp only [loadSystem, run_bind, plainPrefixes_ok plain, requireProtected_begin mode, requireCpl0_begin level, read]
  split <;> exact run_bind ..

variable (chosen : (if isNull sel then null sel else load sel) = act)
include chosen

theorem loadSystem_ok (done : act v = .ok () t) :
    runInstr (loadSystem p rm null load) s = .next (t.retire p (2 + rm.size)) :=
  runInstr_retire (by rw [loadSystem_read plain mode level read, chosen, run_bind, done])

theorem loadSystem_error (stops : act v = .error e t) : runInstr (loadSystem p rm null load) s = failed s e t :=
  runInstr_error (by rw [loadSystem_read plain mode level read, chosen, run_bind, stops])

end shape

/-- Settles O3: with the selector read, LLDT and LTR are the loads of LDTR and TR, check by check. -/
theorem lldtLtrResults : Obligations.LldtLtrResults := by
  intro p rm s v w u sel d a e plain mode level
  refine ⟨fun stops => forall_mem_pair (loadSystem_readError plain mode level stops)
    (loadSystem_readError plain mode level stops), fun read => ⟨fun null => ?lldtNull, fun null => ?ltrNull,
    fun notNull found system present => ⟨fun ldt => ?lldt, fun tss probed ram => ?ltr⟩, fun notNull => ?refused⟩⟩
  case lldtNull =>
    exact ⟨_, (exec_lldt p rm s).trans (loadSystem_ok plain mode level read (if_pos null) rfl), rfl, sameBytes_of_mem rfl _⟩
  case ltrNull => exact (exec_ltr p rm s).trans (loadSystem_error plain mode level read (if_pos null) rfl)
  all_goals rw [← Bool.not_eq_true] at notNull
  case lldt =>
    have loaded := loadLdtr_ok found system ldt present
    exact ⟨_, (exec_lldt p rm s).trans (loadSystem_ok plain mode level read (if_neg notNull) loaded), rfl,
      sameBytes_of_mem rfl _⟩
  case ltr =>
    have loaded := loadTr_ok found system tss present probed (Slot.allRam ram)
    refine ⟨_, (exec_ltr p rm s).trans (loadSystem_ok plain mode level read (if_neg notNull) loaded),
      fun i hi => cellByte_setCells_other _ _ _ i hi, rfl, rfl, ?_⟩
    rintro x rfl
    exact cellByte_markBusy u x
  case refused =>
    have lldt : ∀ {x t}, loadLdtr sel v = .error x t → exec (.lldt p rm) s = failed s x t :=
      fun h => (exec_lldt p rm s).trans (loadSystem_error plain mode level read (if_neg notNull) h)
    have ltr : ∀ {x t}, loadTr sel v = .error x t → exec (.ltr p rm) s = failed s x t :=
      fun h => (exec_ltr p rm s).trans (loadSystem_error plain mode level read (if_neg notNull) h)
    have both : ∀ {x t}, gdtDescriptor sel v = .error x t → ∀ i ∈ [Instr.lldt p rm, .ltr p rm], exec i s = failed s x t :=
      fun h => forall_mem_pair (lldt (loadLdtr_error h)) (ltr (loadTr_error h))
    exact ⟨fun outside => both (gdtDescriptor_outside outside), both,
      fun found => ⟨fun bad => lldt (loadLdtr_unsuited found bad), fun bad => ltr (loadTr_unsuited found bad),
        fun system absent => ⟨fun type => lldt (loadLdtr_notPresent found system type absent),
          fun tss => ltr (loadTr_notPresent found system tss absent)⟩,
        fun system present tss fails => ltr (loadTr_probeError found system tss present fails)⟩⟩

end Sys2Proof.Machine
end

section
/-! A machine that waits (40_system_registers.md R405, 47_fpu_system.md R722, 61_exceptions_by_vector.md R851): the events that
wake it, in their order, and the passing of time. -/

namespace Sys2Proof.Machine

open Sys2Proof

section step
variable {s : State}

/-- Without RESET a step is what the run state says, once the NMI input is sampled (60_exceptions.md R760). -/
theorem step_eq_boundary (reset : s.resetLine = false) : step s = boundary s.sampleNmi := by simp [step, reset]

/-- An edge is latched before anything else, also while NMI is blocked (60_exceptions.md R770). -/
theorem step_latches (reset : s.resetLine = false) (edge : s.nmiEdge = true) :
    step s = step { s with nmiEdge := false, nmiPending := true } := by
  rw [step_eq_boundary reset, step_eq_boundary (s := { s with nmiEdge := false, nmiPending := true }) reset]
  simp [State.sampleNmi, edge]

theorem sampleNmi_noEdge (edge : s.nmiEdge = false) : s.sampleNmi = s := by
  unfold State.sampleNmi
  rw [edge, Bool.or_false, ← edge]

theorem step_of_run (reset : s.resetLine = false) (edge : s.nmiEdge = false) : step s = boundary s := by
  rw [step_eq_boundary reset, sampleNmi_noEdge edge]

theorem fpuErrorPending_eq_false {f : FpuState} (h : f.status &&& ~~~f.control &&& 0x3F = 0) : fpuErrorPending f = false :=
  decide_eq_false (not_not.mpr h)

theorem boundary_of_frozen (frozen : s.run = .fpFrozen) : boundary s = frozenBoundary s := by
  unfold boundary
  rw [frozen]

theorem boundary_of_halted (halted : s.run = .halted) : boundary s = haltedBoundary s := by
  unfold boundary
  rw [halted]

theorem boundary_of_shutdown (shut : s.run = .shutdown) : boundary s = shutdownBoundary s := by
  unfold boundary
  rw [shut]

/-- A frozen machine goes on once its error has gone or IGNNE# is active (47_fpu_system.md R722). -/
theorem step_thaws (reset : s.resetLine = false) (frozen : s.run = .fpFrozen)
    (gone : s.fpu.status &&& ~~~s.fpu.control &&& 0x3F = 0 ∨ s.ignne = true) : step s = step { s with run := .running } := by
  have goes : (!fpuErrorPending s.fpu || s.ignne) = true := by
    rcases gone with noError | ignored
    · rw [fpuErrorPending_eq_false noError]; rfl
    · rw [ignored, Bool.or_true]
  rw [step_eq_boundary reset, step_eq_boundary (s := { s with run := .running }) reset]
  rw [boundary_of_frozen (s := s.sampleNmi) frozen]
  exact if_pos goes

/-- Time passes by a positive amount, of at most 2 to the power 32, where there is a counter (10_state.md R108; log entry 5). -/
theorem tick_advances (s : State) : s.tick = { s with tsc := s.tick.tsc, free := s.tick.free } ∧
    (s.params.hasTSC = false → s.tick = s) ∧
    (s.params.hasTSC = true → ∃ d, 0 < d ∧ d ≤ 2 ^ 32 ∧ s.tick.tsc = s.tsc + BitVec.ofNat 64 d) := by
  cases has : s.params.hasTSC with
  | false => simp [State.tick, has]
  | true =>
    refine ⟨by simp [State.tick, has], by simp, fun _ => ⟨1 + Config.tscTicks s.free % 2 ^ 32, by omega, by omega, ?_⟩⟩
    simp [State.tick, has]

end step

section waiting
variable {s : State} {v : Byte}

/-- The interrupt that wakes a waiting machine: one that IF admits, but for a machine in shutdown (60_exceptions.md R760,
61_exceptions_by_vector.md R851). -/
def State.wakingIntr (s : State) : Option Byte := if s.run = .shutdown then none else intrReady s

/-- What a waiting machine does: it takes an NMI, then an interrupt, or else time passes (60_exceptions.md R760). -/
def waitStep (s : State) : Out :=
  if nmiReady s then takeNmi s
  else
    match s.wakingIntr with
    | some v => takeIntr v s
    | none => .next s.tick

/-- A halted machine without a debug trap (40_system_registers.md R405). -/
theorem haltedBoundary_eq (halted : s.run = .halted) (quiet : s.dbPending.reports = false) :
    haltedBoundary s = waitStep s := by
  have waking : s.wakingIntr = intrReady s := if_neg (by rw [halted]; decide)
  unfold haltedBoundary waitStep
  rw [quiet, waking]
  rfl

/-- A machine frozen by an error that is pending and not ignored (47_fpu_system.md R722). -/
theorem frozenBoundary_eq (frozen : s.run = .fpFrozen) (error : fpuErrorPending s.fpu = true) (active : s.ignne = false) :
    frozenBoundary s = waitStep s := by
  have waking : s.wakingIntr = intrReady s := if_neg (by rw [frozen]; decide)
  unfold frozenBoundary waitStep
  rw [error, active, waking]
  rfl

/-- A machine in shutdown (61_exceptions_by_vector.md R851). -/
theorem shutdownBoundary_eq (shut : s.run = .shutdown) : shutdownBoundary s = waitStep s := by
  have waking : s.wakingIntr = none := if_pos shut
  unfold shutdownBoundary waitStep
  rw [waking]

theorem waitStep_nmi (pending : s.nmiPending = true) (free : s.nmiBlocked = false) : waitStep s = takeNmi s :=
  if_pos (by simp [nmiReady, pending, free])

/-- With no NMI to take, the interrupt decides. -/
theorem waitStep_intr (noNmi : s.nmiPending = false ∨ s.nmiBlocked = true) (waking : s.wakingIntr = some v) :
    waitStep s = takeIntr v s := by
  have notReady : nmiReady s = false := by rcases noNmi with h | h <;> simp [nmiReady, h]
  simp [waitStep, notReady, waking]

theorem waitStep_idle (noNmi : s.nmiPending = false ∨ s.nmiBlocked = true) (waking : s.wakingIntr = none) :
    waitStep s = .next s.tick := by
  have notReady : nmiReady s = false := by rcases noNmi with h | h <;> simp [nmiReady, h]
  simp [waitStep, notReady, waking]

theorem wakingIntr_none (h : s.run = .shutdown ∨ s.ifl = false ∨ s.intr = none) : s.wakingIntr = none := by
  rcases h with h | h | h <;> simp [State.wakingIntr, intrReady, h]

theorem wakingIntr_some (awake : s.run ≠ .shutdown) (admits : s.ifl = true) (asserted : s.intr = some v) :
    s.wakingIntr = some v := by simp [State.wakingIntr, intrReady, awake, admits, asserted]

/-- The debug trap of a halted machine (46_debug.md R686, R688). -/
theorem reportDebug_eq (s : State) :
    (s.dbPending.bt = false ∨ s.debugTrapped.ownDebugTask = false → reportDebug s = deliverEvent 1 s.debugTrapped) ∧
    (s.dbPending.bt = true → s.debugTrapped.ownDebugTask = true →
      reportDebug s = settle 5 .benign debugAgain s.debugTrapped) := by
  unfold reportDebug
  refine ⟨fun other => if_neg ?_, fun bt own => if_pos (by rw [bt, own]; rfl)⟩
  rcases other with h | h <;> simp [h]

end waiting

/-- Settles O60: an edge is latched, a machine that no longer waits runs, and one that waits takes the event that wakes it. -/
theorem waitingStates : Obligations.WaitingStates := by
  intro s v reset
  refine ⟨step_latches reset, step_thaws reset, fun edge halted reports b hb => ?trap, fun edge waits => ?waits⟩
  case trap =>
    subst hb
    have trapped : step s = reportDebug s := by
      rw [step_of_run reset edge, boundary_of_halted halted]
      exact if_pos (by simpa [DbPending.reports, or_assoc] using reports)
    rw [trapped]
    exact reportDebug_eq s
  case waits =>
    have waiting : step s = waitStep s := by
      rw [step_of_run reset edge]
      rcases waits with ⟨halted, bs, bt, enabled⟩ | shut | ⟨frozen, error, active⟩
      · exact (boundary_of_halted halted).trans (haltedBoundary_eq halted (by simp [DbPending.reports, bs, bt, enabled]))
      · exact (boundary_of_shutdown shut).trans (shutdownBoundary_eq shut)
      · exact (boundary_of_frozen frozen).trans (frozenBoundary_eq frozen (decide_eq_true error) active)
    rw [waiting]
    refine ⟨waitStep_nmi, fun noNmi => ⟨fun idle => ?_, fun awake admits asserted => ?_⟩⟩
    · obtain ⟨frame, without, advances⟩ := tick_advances s
      exact ⟨_, waitStep_idle noNmi (wakingIntr_none idle), frame, without, advances⟩
    · exact waitStep_intr noNmi (wakingIntr_some awake admits asserted)

end Sys2Proof.Machine
end

section
/-! The pointer-validation instructions (41_pointer_validation.md R430 to R435): the one shape of LAR, LSL, VERR and VERW, what
their tests say of a descriptor, and the two destinations of ARPL. -/

namespace Sys2Proof.Machine

open Sys2Proof

section tests
variable {level : BitVec 2} {sel : Word16} {d : Desc}

/-- A descriptor that can be seen from the numerically greater of CPL and RPL (41_pointer_validation.md R430). -/
theorem dataPrivilegeOk_iff :
    dataPrivilegeOk level sel d = true ↔ max level.toNat (rpl sel).toNat ≤ (descDpl d).toNat := by
  rw [dataPrivilegeOk, Bool.and_eq_true, decide_eq_true_eq, decide_eq_true_eq, max_le_iff]

theorem visibleOrConforming_iff : visibleOrConforming level sel d = true ↔
    conforming (descAttr d) = true ∨ max level.toNat (rpl sel).toNat ≤ (descDpl d).toNat := by
  rw [visibleOrConforming, Bool.or_eq_true, dataPrivilegeOk_iff]

theorem visibleOrConforming_eq_false_iff : visibleOrConforming level sel d = false ↔
    conforming (descAttr d) = false ∧ (descDpl d).toNat < max level.toNat (rpl sel).toNat := by
  rw [← Bool.not_eq_true, visibleOrConforming_iff, not_or, Bool.not_eq_true, not_le]

theorem verrOk_iff : verrOk level sel d = true ↔ readable (descAttr d) = true ∧
    (conforming (descAttr d) = true ∨ max level.toNat (rpl sel).toNat ≤ (descDpl d).toNat) := by
  rw [verrOk, Bool.and_eq_true, visibleOrConforming_iff, and_comm]

theorem verwOk_iff : verwOk level sel d = true ↔
    writable (descAttr d) = true ∧ max level.toNat (rpl sel).toNat ≤ (descDpl d).toNat := by
  rw [verwOk, Bool.and_eq_true, dataPrivilegeOk_iff, and_comm]

theorem larType_iff : larType d = true ↔ descS d = true ∨ (descType d).toNat ∈ [1, 2, 3, 4, 5, 9, 11, 12] := by
  rw [larType, Bool.or_eq_true, decide_eq_true_eq]

theorem lslType_iff : lslType d = true ↔ descS d = true ∨ (descType d).toNat ∈ [1, 2, 3, 9, 11] := by
  rw [lslType, Bool.or_eq_true, decide_eq_true_eq]

theorem larType_eq_false_iff :
    larType d = false ↔ descS d = false ∧ (descType d).toNat ∉ [1, 2, 3, 4, 5, 9, 11, 12] := by
  rw [← Bool.not_eq_true, larType_iff, not_or, Bool.not_eq_true]

theorem lslType_eq_false_iff : lslType d = false ↔ descS d = false ∧ (descType d).toNat ∉ [1, 2, 3, 9, 11] := by
  rw [← Bool.not_eq_true, lslType_iff, not_or, Bool.not_eq_true]

end tests

/-- ZF is kept as the flag it was given: retiring an instruction clears RF alone. -/
theorem retire_setFlag_zf (u : State) (b : Bool) (p : Prefixes) (n : Nat) : ((u.setFlag 6 b).retire p n).zf = b := by
  have written : bit (setBit u.eflags 6 b) 6 = b := by cases b <;> simp [bit, setBit]
  exact (bit_setBit_other _ 16 6 false (by decide)).trans written

section shape
variable {p : Prefixes} {rm : Rm} {found : BitVec 2 → Word16 → Desc → M Done} {s v u : State} {sel : Word16}
  {o : Option Desc} {e : Err}

/-- The end of a pointer check: ZF, and the next instruction. -/
def zfAdvance (p : Prefixes) (rm : Rm) (b : Bool) : M Done := do setZf b; advance p (2 + rm.size)

theorem zfAdvance_eq (b : Bool) (u : State) : zfAdvance p rm b u = advance p (2 + rm.size) (u.setFlag 6 b) := rfl

/-- The shape of LAR, LSL, VERR and VERW: a selector is read and its descriptor looked up; ZF is 0 where there is none
(41_pointer_validation.md R430). -/
def checkSelector (p : Prefixes) (rm : Rm) (found : BitVec 2 → Word16 → Desc → M Done) : M Done := do
  plainPrefixes p
  requireProtected
  let sel ← readRm16 p rm
  let s ← get
  match ← fetchForCheck sel with
  | none => zfAdvance p rm false
  | some d => found s.cpl sel d

/-- The shape of VERR and VERW: ZF is a test of the descriptor (41_pointer_validation.md R433, R434). -/
def verify (p : Prefixes) (rm : Rm) (test : BitVec 2 → Word16 → Desc → Bool) : M Done :=
  checkSelector p rm fun level sel d => zfAdvance p rm (test level sel d)

/-- The shape of LAR and LSL: a visible descriptor of an accepted type is loaded from (41_pointer_validation.md R431, R432). -/
def loadVisible (p : Prefixes) (rm : Rm) (accepts : Desc → Bool) (load : Desc → M Unit) : M Done :=
  checkSelector p rm fun level sel d =>
    if accepts d && visibleOrConforming level sel d then do load d; zfAdvance p rm true else zfAdvance p rm false

theorem exec_verr (p : Prefixes) (rm : Rm) (s : State) : exec (.verr p rm) s = runInstr (verify p rm verrOk) s := rfl

theorem exec_verw (p : Prefixes) (rm : Rm) (s : State) : exec (.verw p rm) s = runInstr (verify p rm verwOk) s := rfl

theorem exec_lar (p : Prefixes) (r : Reg) (rm : Rm) (s : State) : exec (.lar p r rm) s =
    runInstr (loadVisible p rm larType fun d => do
      let f ← freshWord
      modify fun s => s.setRegV p r (larValue d f)) s := rfl

theorem exec_lsl (p : Prefixes) (r : Reg) (rm : Rm) (s : State) : exec (.lsl p r rm) s =
    runInstr (loadVisible p rm lslType fun d => modify fun s => s.setRegV p r (descLimit d)) s := rfl

theorem Accessed.cpl {s t : State} (h : Accessed s t) : t.cpl = s.cpl := by
  rw [State.cpl, State.cpl, State.pe, State.pe, State.vm, State.vm, h.cr0, h.eflags, h.cs]

section checked
variable (plain : Prefixes.plain p = true) (mode : s.protectedMode = true)
include plain mode

theorem checkSelector_readError (stops : readRm16 p rm s.begin = .error e v) :
    runInstr (checkSelector p rm found) s = failed s e v :=
  runInstr_error (by simp [checkSelector, plainPrefixes_ok plain, requireProtected_begin mode, stops])

variable (read : readRm16 p rm s.begin = .ok sel v)
include read

theorem checkSelector_fetchError (stops : fetchForCheck sel v = .error e u) :
    runInstr (checkSelector p rm found) s = failed s e u :=
  runInstr_error (by simp [checkSelector, plainPrefixes_ok plain, requireProtected_begin mode, read, stops])

/-- No descriptor: ZF alone is written. -/
theorem checkSelector_none (fetched : fetchForCheck sel v = .ok none u) :
    runInstr (checkSelector p rm found) s = .next ((u.setFlag 6 false).retire p (2 + rm.size)) :=
  runInstr_retire (by
    simp [checkSelector, plainPrefixes_ok plain, requireProtected_begin mode, read, fetched, zfAdvance_eq])

/-- A descriptor: what is left depends on it, at the level the instruction began with. -/
theorem checkSelector_some {d : Desc} {t : State} (fetched : fetchForCheck sel v = .ok (some d) u)
    (done : found s.cpl sel d u = advance p (2 + rm.size) t) :
    runInstr (checkSelector p rm found) s = .next (t.retire p (2 + rm.size)) := by
  have level : v.cpl = s.cpl := ((readRm16_accessed (e := .shutdown)).1 read).cpl.trans (State.begin_cpl s)
  exact runInstr_retire (by
    simp [checkSelector, plainPrefixes_ok plain, requireProtected_begin mode, read, fetched, level, done])

theorem verify_ok (test : BitVec 2 → Word16 → Desc → Bool) (fetched : fetchForCheck sel v = .ok o u) :
    runInstr (verify p rm test) s = .next ((u.setFlag 6 (o.any (test s.cpl sel))).retire p (2 + rm.size)) := by
  cases o with
  | none => exact checkSelector_none plain mode read fetched
  | some d => exact checkSelector_some plain mode read fetched (zfAdvance_eq _ u)

variable {accepts : Desc → Bool} {load : Desc → M Unit}

theorem loadVisible_ok {d : Desc} {t : State} (fetched : fetchForCheck sel v = .ok (some d) u) (type : accepts d = true)
    (visible : visibleOrConforming s.cpl sel d = true) (loaded : load d u = .ok () t) :
    runInstr (loadVisible p rm accepts load) s = .next ((t.setFlag 6 true).retire p (2 + rm.size)) :=
  checkSelector_some plain mode read fetched (by simp [type, visible, loaded, zfAdvance_eq])

theorem loadVisible_refused (fetched : fetchForCheck sel v = .ok o u)
    (refused : ∀ d, o = some d → visibleOrConforming s.cpl sel d = false ∨ accepts d = false) :
    runInstr (loadVisible p rm accepts load) s = .next ((u.setFlag 6 false).retire p (2 + rm.size)) := by
  cases o with
  | none => exact checkSelector_none plain mode read fetched
  | some d =>
    have fails : (accepts d && visibleOrConforming s.cpl sel d) = false :=
      Bool.and_eq_false_iff.mpr (refused d rfl).symm
    exact checkSelector_some plain mode read fetched (by simp [fails, zfAdvance_eq])

variable {r : Reg} {d : Desc}

/-- LAR of a visible descriptor (41_pointer_validation.md R431, U22). -/
theorem exec_lar_ok (fetched : fetchForCheck sel v = .ok (some d) u) (type : larType d = true)
    (visible : visibleOrConforming s.cpl sel d = true) :
    exec (.lar p r rm) s = .next (State.retire (State.setFlag (State.setRegV { u with free := u.free + 1 } p r
      (larValue d (Config.freeWord u.free))) 6 true) p (2 + rm.size)) :=
  (exec_lar p r rm s).trans (loadVisible_ok plain mode read fetched type visible (by simp))

/-- LSL of a visible descriptor (41_pointer_validation.md R432). -/
theorem exec_lsl_ok (fetched : fetchForCheck sel v = .ok (some d) u) (type : lslType d = true)
    (visible : visibleOrConforming s.cpl sel d = true) :
    exec (.lsl p r rm) s = .next (State.retire (State.setFlag (u.setRegV p r (descLimit d)) 6 true) p (2 + rm.size)) :=
  (exec_lsl p r rm s).trans (loadVisible_ok plain mode read fetched type visible (by simp))

end checked

section verified
variable {i : Instr} {test : BitVec 2 → Word16 → Desc → Bool} {holds : Desc → Prop}

/-- What stops VERR and VERW: the mode, the operand's read, the descriptor's read (41_pointer_validation.md R430). -/
theorem verify_raises (plain : Prefixes.plain p = true) (meaning : exec i s = runInstr (verify p rm test) s) :
    (s.protectedMode = false → exec i s = raised s s.begin .ud none) ∧
    (s.protectedMode = true → readRm16 p rm s.begin = .error e v → exec i s = failed s e v) ∧
    (s.protectedMode = true → readRm16 p rm s.begin = .ok sel v → fetchForCheck sel v = .error e u →
      exec i s = failed s e u) :=
  ⟨fun mode => meaning.trans (raised_of_requireProtected plain mode),
    fun mode stops => meaning.trans (checkSelector_readError plain mode stops),
    fun mode read stops => meaning.trans (checkSelector_fetchError plain mode read stops)⟩

/-- VERR and VERW complete with ZF alone written: whether there is a descriptor that passes the test. -/
theorem verify_answers (plain : Prefixes.plain p = true) (mode : s.protectedMode = true)
    (read : readRm16 p rm s.begin = .ok sel v) (fetched : fetchForCheck sel v = .ok o u)
    (meaning : exec i s = runInstr (verify p rm test) s) (passes : ∀ d, test s.cpl sel d = true ↔ holds d) :
    ∃ t, exec i s = .next t ∧ t = State.retire (u.setFlag 6 t.zf) p (2 + rm.size) ∧ sameBytes u t [] ∧
      (t.zf = true ↔ ∃ d, o = some d ∧ holds d) := by
  refine ⟨_, meaning.trans (verify_ok plain mode read test fetched), by rw [retire_setFlag_zf], sameBytes_of_mem rfl _, ?_⟩
  simp only [retire_setFlag_zf, Option.any_eq_true, passes]

end verified

end shape

/-- Settles O4: both are one check of a selector, which differ in the test that ZF answers. -/
theorem verifySetsZf : Obligations.VerifySetsZf := by
  intro p rm s v u sel o e plain
  have verr := exec_verr p rm s
  have verw := exec_verw p rm s
  exact ⟨fun mode read fetched => ⟨verify_answers plain mode read fetched verr fun _ => verrOk_iff,
      verify_answers plain mode read fetched verw fun _ => verwOk_iff⟩,
    forall_mem_pair (verify_raises plain verr) (verify_raises plain verw)⟩

/-- Settles O5: both load from a visible descriptor of a type they accept, and otherwise write ZF alone. -/
theorem larLslResults : Obligations.LarLslResults := by
  intro p r rm s v u sel o plain mode read fetched
  refine ⟨?loads, fun refused => ?larRefused, fun refused => ?lslRefused⟩
  case loads =>
    rintro d rfl seen
    have visible := visibleOrConforming_iff.mpr seen
    exact ⟨fun type => ⟨_, exec_lar_ok plain mode read fetched (larType_iff.mpr type) visible,
        sameBytes_of_mem (by simp) _, rfl⟩,
      fun type => ⟨_, exec_lsl_ok plain mode read fetched (lslType_iff.mpr type) visible,
        sameBytes_of_mem (by simp) _, rfl⟩⟩
  case larRefused =>
    have skips := (exec_lar p r rm s).trans (loadVisible_refused plain mode read fetched fun d found =>
      (refused d found).imp visibleOrConforming_eq_false_iff.mpr larType_eq_false_iff.mpr)
    exact ⟨_, skips, rfl, sameBytes_of_mem rfl _⟩
  case lslRefused =>
    have skips := (exec_lsl p r rm s).trans (loadVisible_refused plain mode read fetched fun d found =>
      (refused d found).imp visibleOrConforming_eq_false_iff.mpr lslType_eq_false_iff.mpr)
    exact ⟨_, skips, rfl, sameBytes_of_mem rfl _⟩

section arpl
variable {p : Prefixes} {r : Reg} {s u v : State}

/-- A register whose low half is written with what it holds is unchanged (10_state.md R21). -/
theorem State.setReg16_same (s : State) (r : Reg) : s.setReg16 r (lo16 (s.reg r)) = s := by
  have halves : ∀ w : Word32, setLo16 w (lo16 w) = w := fun w =>
    (BitVec.extractLsb'_append_extractLsb'_eq_extractLsb' rfl).trans BitVec.extractLsb'_eq_self
  rw [State.setReg16, halves]
  cases r <;> rfl

/-- A destination that held `old` gets the RPL of the source where its own is below (41_pointer_validation.md R435). -/
theorem adjustRpl_of_lt {old src : Word16} (h : (rpl old).toNat < (rpl src).toNat) :
    adjustRpl old src = withRpl old (rpl src) := if_pos h

theorem adjustRpl_of_not_lt {old src : Word16} (h : ¬(rpl old).toNat < (rpl src).toNat) : adjustRpl old src = old := if_neg h

/-- A register destination, which is written also where its RPL stays (41_pointer_validation.md R435). -/
theorem exec_arpl_reg (plain : Prefixes.plain p = true) (mode : s.protectedMode = true) (d : Reg) :
    exec (.arpl p (.reg d) r) s = .next (State.retire (if (rpl (lo16 (s.reg d))).toNat < (rpl (lo16 (s.reg r))).toNat
      then State.setFlag (s.begin.setReg16 d (withRpl (lo16 (s.reg d)) (rpl (lo16 (s.reg r))))) 6 true
      else s.begin.setFlag 6 false) p 2) := by
  refine runInstr_retire ?_
  simp only [run_bind, plainPrefixes_ok plain, requireProtected_begin mode, run_get, run_modify, setZf, State.begin_reg]
  by_cases raises : (rpl (lo16 (s.reg d))).toNat < (rpl (lo16 (s.reg r))).toNat
  · rw [if_pos raises, adjustRpl_of_lt raises, decide_eq_true raises]
    rfl
  · have same : s.begin.setReg16 d (lo16 (s.reg d)) = s.begin := by simpa using State.setReg16_same s.begin d
    rw [if_neg raises, adjustRpl_of_not_lt raises, decide_eq_false raises, same]
    rfl

/-- A memory destination that is memory: it is checked for writing, read, and written where its RPL is raised. -/
theorem exec_arpl_mem {m : MemOp} {x : Slot} {old : Nat} (plain : Prefixes.plain p = true) (mode : s.protectedMode = true)
    (probed : probeMem p m 0 2 2 s.begin = .ok x u) (read : slotRead x u = .ok old v) (ram : x.isRam v = true) :
    exec (.arpl p (.mem m) r) s = .next (State.retire
      (if (rpl (BitVec.ofNat 16 old)).toNat < (rpl (lo16 (s.reg r))).toNat
        then State.setFlag (v.stored x (withRpl (BitVec.ofNat 16 old) (rpl (lo16 (s.reg r)))).toNat) 6 true
        else v.setFlag 6 false) p (1 + m.size)) := by
  refine runInstr_retire ?_
  simp only [run_bind, plainPrefixes_ok plain, requireProtected_begin mode, run_get, State.begin_reg, probed, read]
  by_cases raises : (rpl (BitVec.ofNat 16 old)).toNat < (rpl (lo16 (s.reg r))).toNat
  · simp [if_pos raises, adjustRpl_of_lt raises, slotWrite_ok ram, setZf, Rm.size]
  · simp [if_neg raises, setZf, Rm.size]

end arpl

/-- Settles O13: the two destinations, each with its RPL raised or only ZF cleared. -/
theorem arplAdjustsRpl : Obligations.ArplAdjustsRpl := by
  intro p d r m s u v x old plain mode
  refine ⟨⟨_, exec_arpl_reg plain mode d, sameBytes_of_mem ?_ _, rfl⟩,
    fun probed read ram => ⟨_, exec_arpl_mem plain mode probed read ram, ?_, rfl⟩⟩
  · split <;> simp
  · split
    · exact sameBytes_stored v x _
    · exact sameBytes_of_mem rfl _

end Sys2Proof.Machine
end

section
/-! Direct loads of a segment register (42_control_transfer.md R455 to R462): what a selector names, the checks of a descriptor in
their order, the loads, and the accessed mark (21_segmentation.md R199). -/

namespace Sys2Proof.Machine

open Sys2Proof

section sequence
variable {α β : Type} {m : M α} {k : α → M β} {s t u : State} {a : α} {b : β} {e : Err}

theorem run_bind_ok (h : m s = .ok a t) : (m >>= k) s = k a t := by rw [run_bind, h]

theorem run_bind_error (h : m s = .error e t) : (m >>= k) s = .error e t := by rw [run_bind, h]

/-- What completes after an operation, the operation completed before it. -/
theorem run_bind_eq_ok : (m >>= k) s = .ok b u ↔ ∃ a t, m s = .ok a t ∧ k a t = .ok b u := by
  rw [run_bind]
  cases m s <;> simp

theorem Touches.accessed (h : Touches m) (run : m s = .ok a t) : Accessed s t := by
  have touched := h s
  rwa [run] at touched

end sequence

section selector
variable {sel : Word16} {l : BitVec 2}

theorem isNull_iff (sel : Word16) : isNull sel = true ↔ sel.toNat / 4 = 0 := by
  rw [isNull, decide_eq_true_eq]
  omega

theorem rpl_toNat (sel : Word16) : (rpl sel).toNat = sel.toNat % 4 := by
  simp [rpl]

@[simp] theorem rpl_withRpl (sel : Word16) (l : BitVec 2) : rpl (withRpl sel l) = l :=
  BitVec.extractLsb'_append_eq_right

/-- A selector whose RPL is replaced by itself is as it was. -/
@[simp] theorem withRpl_rpl (sel : Word16) : withRpl sel (rpl sel) = sel :=
  (BitVec.extractLsb'_append_extractLsb'_eq_extractLsb' rfl).trans BitVec.extractLsb'_eq_self

end selector

section attributes

/-- The types of code segments (21_segmentation.md R198). -/
theorem isCode_iff (g : Attr) : isCode g = true ↔ g.s = true ∧ 8 ≤ g.type.toNat := by
  obtain ⟨type, s, _⟩ := g
  have types : ∀ t : BitVec 4, t.getLsbD 3 = true ↔ 8 ≤ t.toNat := by decide
  cases s <;> simp [isCode, ← types]

/-- The types of conforming code segments (21_segmentation.md R198). -/
theorem conforming_iff (g : Attr) : conforming g = true ↔ g.s = true ∧ 12 ≤ g.type.toNat := by
  obtain ⟨type, s, _⟩ := g
  have types : ∀ t : BitVec 4, (t.getLsbD 3 && t.getLsbD 2) = true ↔ 12 ≤ t.toNat := by decide
  cases s <;> simp [conforming, isCode, ← types]

theorem withAccessed_eq (g : Attr) : withAccessed g = { g with type := (withAccessed g).type } := by
  unfold withAccessed
  split <;> rfl

/-- The accessed bit is the lowest bit of the type of a code or data segment (21_segmentation.md R199). -/
theorem withAccessed_type (g : Attr) :
    (withAccessed g).type.toNat = if g.s = true then g.type.toNat / 2 * 2 + 1 else g.type.toNat := by
  have set : ∀ t : BitVec 4, (t ||| 1).toNat = t.toNat / 2 * 2 + 1 := by decide
  unfold withAccessed
  split
  · exact set g.type
  · rfl

@[simp] theorem withAccessed_dpl (g : Attr) : (withAccessed g).dpl = g.dpl := by rw [withAccessed_eq]

@[simp] theorem withAccessed_db (g : Attr) : (withAccessed g).db = g.db := by rw [withAccessed_eq]

/-- The mark does not make a segment writable or unwritable (21_segmentation.md R198). -/
@[simp] theorem writable_withAccessed (g : Attr) : writable (withAccessed g) = writable g := by
  cases hs : g.s <;> simp [withAccessed, writable, isData, hs]

/-- The effective limit, in bytes or in units of 4096 bytes (21_segmentation.md R196). -/
theorem descLimit_toNat (d : Desc) : (descLimit d).toNat =
    if bit d.hi 23 = true then (descLimit20 d).toNat * 4096 + 4095 else (descLimit20 d).toNat := by
  have small := (descLimit20 d).isLt
  unfold descLimit effLimit
  split
  · rw [toNat_append_eq_add]
    rfl
  · rw [BitVec.toNat_setWidth]
    omega

end attributes

section descriptor
variable {sel : Word16} {lvl : BitVec 2} {x : Exc} {ext : Bool} {s u : State} {d : Desc} {e : Err}

theorem needDescriptor_error (read : readDescriptor sel s = .error e u) : needDescriptor sel x ext s = .error e u :=
  run_bind_error read

theorem needDescriptor_none (read : readDescriptor sel s = .ok none u) :
    needDescriptor sel x ext s = .error (.exn ⟨x, some (selectorErrorCode sel ext), false⟩) u := run_bind_ok read

theorem needDescriptor_some (read : readDescriptor sel s = .ok (some d) u) : needDescriptor sel x ext s = .ok d u :=
  run_bind_ok read

section stack
variable (notNull : isNull sel = false)

theorem checkSs_null (null : isNull sel = true) :
    checkSs sel lvl x ext s = .error (.exn ⟨x, some (selectorErrorCode 0 ext), false⟩) s := by
  simp [checkSs, null]

include notNull

theorem checkSs_error (read : readDescriptor sel s = .error e u) : checkSs sel lvl x ext s = .error e u := by
  simp [checkSs, notNull, needDescriptor_error read]

theorem checkSs_none (read : readDescriptor sel s = .ok none u) :
    checkSs sel lvl x ext s = .error (.exn ⟨x, some (selectorErrorCode sel ext), false⟩) u := by
  simp [checkSs, notNull, needDescriptor_none read]

/-- A stack segment is writable data of the level, named with that RPL (42_control_transfer.md R457, R479, R494). -/
def SuitsStack (lvl : BitVec 2) (sel : Word16) (d : Desc) : Prop :=
  rpl sel = lvl ∧ writable (descAttr d) = true ∧ descDpl d = lvl

variable (read : readDescriptor sel s = .ok (some d) u)
include read

theorem checkSs_unsuited (unsuited : ¬SuitsStack lvl sel d) :
    checkSs sel lvl x ext s = .error (.exn ⟨x, some (selectorErrorCode sel ext), false⟩) u := by
  have some := needDescriptor_some (x := x) (ext := ext) read
  simp only [checkSs, notNull, run_bind, run_ite, some, run_raiseSel]
  by_cases level : rpl sel = lvl
  · by_cases write : writable (descAttr d) = true
    · have dpl : descDpl d ≠ lvl := fun same => unsuited ⟨level, write, same⟩
      simp [level, write, dpl]
    · simp [level, write]
  · simp [level]

theorem checkSs_absent (suits : SuitsStack lvl sel d) (absent : descP d = false) :
    checkSs sel lvl x ext s = .error (.exn ⟨.ss, some (selectorErrorCode sel ext), false⟩) u := by
  obtain ⟨level, write, dpl⟩ := suits
  simp [checkSs, notNull, needDescriptor_some read, level, write, dpl, absent]

theorem checkSs_ok (suits : SuitsStack lvl sel d) (present : descP d = true) : checkSs sel lvl x ext s = .ok d u := by
  obtain ⟨level, write, dpl⟩ := suits
  simp [checkSs, notNull, needDescriptor_some read, level, write, dpl, present]

end stack

section data
variable {level : BitVec 2}

/-- A data-segment register takes data and readable code, unless it is conforming of a DPL that admits the level and the RPL
(42_control_transfer.md R458). -/
def SuitsData (level : BitVec 2) (sel : Word16) (d : Desc) : Prop :=
  readable (descAttr d) = true ∧ (conforming (descAttr d) = true ∨ dataPrivilegeOk level sel d = true)

theorem checkData_error (read : readDescriptor sel s = .error e u) : checkData sel s = .error e u :=
  run_bind_error (needDescriptor_error read)

theorem checkData_none (read : readDescriptor sel s = .ok none u) :
    checkData sel s = .error (.exn ⟨.gp, some (selectorErrorCode sel false), false⟩) u :=
  run_bind_error (needDescriptor_none read)

variable (read : readDescriptor sel s = .ok (some d) u)
include read

theorem checkData_unsuited (unsuited : ¬SuitsData s.cpl sel d) :
    checkData sel s = .error (.exn ⟨.gp, some (selectorErrorCode sel false), false⟩) u := by
  have same : u.cpl = s.cpl := ((touches_readDescriptor sel).accessed read).cpl
  rw [checkData, run_bind_ok (needDescriptor_some read)]
  by_cases reads : readable (descAttr d) = true
  · have privileged : ¬(conforming (descAttr d) = true ∨ dataPrivilegeOk s.cpl sel d = true) := fun ok => unsuited ⟨reads, ok⟩
    simp_all
  · simp [reads]

theorem checkData_absent (suits : SuitsData s.cpl sel d) (absent : descP d = false) :
    checkData sel s = .error (.exn ⟨.np, some (selectorErrorCode sel false), false⟩) u := by
  have same : u.cpl = s.cpl := ((touches_readDescriptor sel).accessed read).cpl
  obtain ⟨reads, conforms | dpl⟩ := suits
  · simp [checkData, needDescriptor_some read, reads, conforms, absent]
  · simp [checkData, needDescriptor_some read, reads, same, dpl, absent]

theorem checkData_ok (suits : SuitsData s.cpl sel d) (present : descP d = true) : checkData sel s = .ok d u := by
  have same : u.cpl = s.cpl := ((touches_readDescriptor sel).accessed read).cpl
  obtain ⟨reads, conforms | dpl⟩ := suits
  · simp [checkData, needDescriptor_some read, reads, conforms, present]
  · simp [checkData, needDescriptor_some read, reads, same, dpl, present]

end data

end descriptor

section suits
variable {level : BitVec 2} {sel : Word16} {d : Desc}

theorem suitsStack_iff : SuitsStack level sel d ↔
    descS d = true ∧ (descType d).toNat ∈ [2, 3, 6, 7] ∧ rpl sel = level ∧ descDpl d = level := by
  rw [SuitsStack, writable_iff]
  show _ ∧ (descS d = true ∧ (descType d).toNat ∈ [2, 3, 6, 7]) ∧ _ ↔ _
  tauto

/-- Conforming code that can be read has type 14 or 15; what else can be read is subject to the levels
(42_control_transfer.md R458). -/
theorem suitsData_iff : SuitsData level sel d ↔ descS d = true ∧ ((descType d).toNat ∈ [14, 15] ∨
    (descType d).toNat ∈ [0, 1, 2, 3, 4, 5, 6, 7, 10, 11] ∧ level.toNat ≤ (descDpl d).toNat ∧
      (rpl sel).toNat ≤ (descDpl d).toNat) := by
  have types : ∀ t : BitVec 4, (t.toNat ∈ [14, 15] ↔
      t.toNat ∈ [0, 1, 2, 3, 4, 5, 6, 7, 10, 11, 14, 15] ∧ 12 ≤ t.toNat) ∧
      (t.toNat ∈ [0, 1, 2, 3, 4, 5, 6, 7, 10, 11] ↔
        t.toNat ∈ [0, 1, 2, 3, 4, 5, 6, 7, 10, 11, 14, 15] ∧ ¬12 ≤ t.toNat) := by decide
  obtain ⟨conforms, others⟩ := types (descType d)
  rw [SuitsData, readable_iff, conforming_iff, dataPrivilegeOk, Bool.and_eq_true, decide_eq_true_eq, decide_eq_true_eq,
    conforms, others]
  show (descS d = true ∧ (descType d).toNat ∈ _) ∧ (descS d = true ∧ 12 ≤ (descType d).toNat ∨ _) ↔ _
  tauto

/-- What a direct load of a segment register takes (42_control_transfer.md R457, R458). -/
def SuitsLoad (r : SegReg) (level : BitVec 2) (sel : Word16) (d : Desc) : Prop :=
  if r = .ss then SuitsStack level sel d else SuitsData level sel d

theorem suitsLoad_iff {r : SegReg} : SuitsLoad r level sel d ↔ descS d = true ∧
    (if r = .ss then (descType d).toNat ∈ [2, 3, 6, 7] ∧ rpl sel = level ∧ descDpl d = level
      else (descType d).toNat ∈ [14, 15] ∨ (descType d).toNat ∈ [0, 1, 2, 3, 4, 5, 6, 7, 10, 11] ∧
        level.toNat ≤ (descDpl d).toNat ∧ (rpl sel).toNat ≤ (descDpl d).toNat) := by
  unfold SuitsLoad
  split
  · exact suitsStack_iff
  · exact suitsData_iff

end suits

section check
variable {r : SegReg} {sel : Word16} {s u : State} {d : Desc} {e : Err}

/-- The check of the descriptor that a direct load of a segment register makes (42_control_transfer.md R457, R458). -/
def checkLoad (r : SegReg) (sel : Word16) (level : BitVec 2) : M Desc :=
  if r = .ss then checkSs sel level .gp false else checkData sel

variable (notNull : isNull sel = false)
include notNull

theorem checkLoad_error (read : readDescriptor sel s = .error e u) : checkLoad r sel s.cpl s = .error e u := by
  unfold checkLoad
  split
  · exact checkSs_error notNull read
  · exact checkData_error read

theorem checkLoad_none (read : readDescriptor sel s = .ok none u) :
    checkLoad r sel s.cpl s = .error (.exn ⟨.gp, some (selectorErrorCode sel false), false⟩) u := by
  unfold checkLoad
  split
  · exact checkSs_none notNull read
  · exact checkData_none read

variable (read : readDescriptor sel s = .ok (some d) u)
include read

theorem checkLoad_unsuited (unsuited : ¬SuitsLoad r s.cpl sel d) :
    checkLoad r sel s.cpl s = .error (.exn ⟨.gp, some (selectorErrorCode sel false), false⟩) u := by
  unfold checkLoad
  unfold SuitsLoad at unsuited
  split_ifs at unsuited ⊢
  · exact checkSs_unsuited notNull read unsuited
  · exact checkData_unsuited read unsuited

theorem checkLoad_absent (suits : SuitsLoad r s.cpl sel d) (absent : descP d = false) : checkLoad r sel s.cpl s =
    .error (.exn ⟨if r = .ss then .ss else .np, some (selectorErrorCode sel false), false⟩) u := by
  unfold checkLoad
  unfold SuitsLoad at suits
  split_ifs at suits ⊢
  · exact checkSs_absent notNull read suits absent
  · exact checkData_absent read suits absent

theorem checkLoad_ok (suits : SuitsLoad r s.cpl sel d) (present : descP d = true) :
    checkLoad r sel s.cpl s = .ok d u := by
  unfold checkLoad
  unfold SuitsLoad at suits
  split_ifs at suits ⊢
  · exact checkSs_ok notNull read suits present
  · exact checkData_ok read suits present

end check

section load
variable {r : SegReg} {sel : Word16} {s u v w : State} {d : Desc} {e : Err} {a : List Nat}

/-- A load without protection (42_control_transfer.md R462). -/
theorem loadSeg_real (mode : s.protectedMode = false) : loadSeg r sel s = .ok () (s.realLoad r sel) := by
  simp [loadSeg, mode]

section protectedMode
variable (mode : s.protectedMode = true)
include mode

theorem loadSeg_null (null : isNull sel = true) (data : r ≠ .ss) :
    loadSeg r sel s = .ok () (s.setSeg r { s.seg r with sel := sel, valid := false }) := by
  simp [loadSeg, mode, null, data]

theorem loadSeg_ss_null (null : isNull sel = true) : loadSeg .ss sel s = .error (.exn ⟨.gp, some 0, false⟩) s := by
  simp [loadSeg, mode, checkSs_null null]
  rfl

/-- A load with a selector that is not null: the check, the mark, the register. -/
theorem loadSeg_notNull (notNull : isNull sel = false) : loadSeg r sel s = (do
    let d ← checkLoad r sel s.cpl
    commitAccessed (← probeAccessed sel d)
    modify fun t => State.setSeg t r (segFrom sel d)) s := by
  by_cases stack : r = .ss
  · subst stack
    simp only [loadSeg, checkLoad, run_bind, run_get, run_ite, mode, notNull, if_true]
    rfl
  · simp only [loadSeg, checkLoad, run_bind, run_get, run_ite, mode, notNull, if_neg stack]
    rfl

variable (notNull : isNull sel = false)
include notNull

theorem loadSeg_refused (stops : checkLoad r sel s.cpl s = .error e u) : loadSeg r sel s = .error e u := by
  rw [loadSeg_notNull mode notNull, run_bind_error stops]

theorem loadSeg_ok (checked : checkLoad r sel s.cpl s = .ok d u) (probed : probeAccessed sel d u = .ok a v)
    (marked : commitAccessed a v = .ok () w) : loadSeg r sel s = .ok () (w.setSeg r (segFrom sel d)) := by
  rw [loadSeg_notNull mode notNull, run_bind_ok checked, run_bind_ok probed, run_bind_ok marked, run_modify]

end protectedMode

end load

section mark
variable {sel : Word16} {d : Desc} {s : State}

/-- Which loads write the accessed bit (21_segmentation.md R199, 20_memory.md R155). -/
theorem marksAccessed_iff (p : Params) (d : Desc) :
    marksAccessed p d = true ↔ descS d = true ∧ (p.family = .i386 ∨ bit d.hi 8 = false) := by
  have low : (descType d).getLsbD 0 = bit d.hi 8 := by simp [descType, bit]
  simp only [marksAccessed, low, Bool.and_eq_true, Bool.or_eq_true, decide_eq_true_eq, Bool.not_eq_true']

theorem probeAccessed_unmarked (unmarked : marksAccessed s.params d = false) : probeAccessed sel d s = .ok [] s := by
  simp [probeAccessed, unmarked]

theorem probeAccessed_marked (marks : marksAccessed s.params d = true) :
    probeAccessed sel d s = linAddrs (s.descAddr sel 5) 1 Acc.supWrite s := by
  simp [probeAccessed, marks]

@[simp] theorem commitAccessed_nil (s : State) : commitAccessed [] s = .ok () s := rfl

/-- The accessed bit is set in the one byte that is written (21_segmentation.md R199). -/
theorem commitAccessed_ram {x : Nat} (ram : physKind s.params x = .ram) :
    commitAccessed [x] s = .ok () { s with mem := setCell s.mem x (s.byteAt x ||| 1) } := by
  have all : AllRam s.params [x] := by simpa [AllRam] using ram
  have byte : bytesOf 1 (ofBytes [s.byteAt x] ||| 1) = [s.byteAt x ||| 1] := bytesOf_ofBytes_or (s.byteAt x) [] (by decide)
  simp only [commitAccessed, run_bind, physReadAt_ram all, physWriteAt_ram all, List.map_cons, List.map_nil,
    List.length_singleton, byte]
  rfl

end mark

/-- Settles O14: a load in each mode, the checks of a descriptor in their order, and the mark. -/
theorem loadSegmentRegister : Obligations.LoadSegmentRegister := by
  intro r sel s u v w d e a
  refine ⟨loadSeg_real, fun mode null => ⟨loadSeg_null mode null, loadSeg_ss_null mode null⟩, ?checked,
    ⟨isNull_iff sel, rpl_toNat sel, rfl, by rw [selTi_eq, decide_eq_true_eq]⟩,
    fun g => ⟨isCode_iff g, conforming_iff g, writable_iff g, readable_iff g, withAccessed_eq g, withAccessed_type g⟩,
    descLimit_toNat d, ?mark, commitAccessed_nil s, fun x ram wf => ?byte⟩
  case checked =>
    intro mode notNull raises type suits
    have same : suits ↔ SuitsLoad r s.cpl sel d := suitsLoad_iff.symm
    exact ⟨fun stops => loadSeg_refused mode notNull (checkLoad_error notNull stops),
      fun none => loadSeg_refused mode notNull (checkLoad_none notNull none),
      fun found => ⟨fun no => loadSeg_refused mode notNull (checkLoad_unsuited notNull found (no ∘ same.mpr)),
        fun yes absent => loadSeg_refused mode notNull (checkLoad_absent notNull found (same.mp yes) absent),
        fun yes present => loadSeg_ok mode notNull (checkLoad_ok notNull found (same.mp yes) present)⟩⟩
  case mark =>
    rintro place rfl marks same
    rw [← marksAccessed_iff] at same
    exact ⟨fun no => probeAccessed_unmarked (Bool.eq_false_iff.mpr fun yes => no (same.mpr yes)),
      fun yes => probeAccessed_marked (same.mp yes), fun pg => linAddrs_unpaged pg _ 1 _⟩
  case byte =>
    exact ⟨_, commitAccessed_ram ram, rfl, cellByte_setCell_same s.mem x _ 0 wf,
      fun y hy => cellByte_setCell_other s.mem x y _ (by simpa using hy)⟩

end Sys2Proof.Machine
end

section
/-! Far transfers (42_control_transfer.md R470 to R486): the frame a CALL pushes, a transfer without protection, a transfer to a code
segment at the level in force, and what is refused first. -/

namespace Sys2Proof.Machine

open Sys2Proof

section accessed
variable {s t u : State}

theorem Accessed.reg (h : Accessed s t) (r : Reg) : t.reg r = s.reg r := by rw [State.reg, State.reg, h.gpr]

theorem Accessed.protectedMode (h : Accessed s t) : t.protectedMode = s.protectedMode := by
  rw [State.protectedMode, State.protectedMode, State.pe, State.pe, State.vm, State.vm, h.cr0, h.eflags]

theorem Accessed.sp (h : Accessed s t) : t.sp = s.sp := by rw [State.sp, State.sp, h.ss, h.reg]

theorem Accessed.opBytes (h : Accessed s t) (p : Prefixes) : t.opBytes p = s.opBytes p := by
  rw [State.opBytes, State.opBytes, op32_of_accessed h]

theorem Accessed.pg (h : Accessed s t) : t.pg = s.pg := by rw [State.pg, State.pg, h.cr0]

@[simp] theorem State.setSp_protectedMode (s : State) (x : Word32) : (s.setSp x).protectedMode = s.protectedMode := rfl

end accessed

section bytes
variable {s t u : State} {as bs : List Nat}

theorem sameBytes.trans (first : sameBytes s t as) (second : sameBytes t u bs) : sameBytes s u (as ++ bs) := by
  intro x hx
  rw [List.mem_append, not_or] at hx
  exact (second x hx.2).trans (first x hx.1)

/-- Whatever stands behind the addresses, a write changes no other byte (20_memory.md R122, R123). -/
theorem sameBytes_afterWrite (s : State) (as : List Nat) (bytes : List Byte) :
    sameBytes s (s.afterWrite (as.zip bytes)) as := by
  intro x hx
  refine cellByte_setCells_other _ _ _ x fun written => hx ?_
  obtain ⟨c, hc, rfl⟩ := List.mem_map.mp written
  exact (List.of_mem_zip (List.mem_of_mem_filter hc)).1

/-- The check that something stands behind the addresses changes nothing. -/
theorem requireMemory_eq_ok {a : Unit} (h : requireMemory as s = .ok a t) : t = s := by
  rw [requireMemory, run_bind_ok (run_get s)] at h
  cases nothing : ofKind s.params .nothing as with
  | nil => rw [nothing] at h; cases h; rfl
  | cons x xs => rw [nothing] at h; cases h

theorem sameBytes_physWriteAt {v : Nat} {a : Unit} (h : physWriteAt as v s = .ok a t) : sameBytes s t as := by
  obtain ⟨_, u, required, rest⟩ := run_bind_eq_ok.mp h
  cases requireMemory_eq_ok required
  rw [run_bind_ok (run_get s)] at rest
  cases rom : ofKind s.params .rom as with
  | nil => rw [rom] at rest; cases rest; exact sameBytes_afterWrite s _ _
  | cons x xs => rw [rom] at rest; cases rest

theorem sameBytes_physReadAt {v : Nat} (h : physReadAt as s = .ok v t) : sameBytes s t [] := by
  obtain ⟨_, u, required, rest⟩ := run_bind_eq_ok.mp h
  cases requireMemory_eq_ok required
  cases rest
  exact sameBytes_of_mem (State.afterRead_mem ..) _

theorem sameBytes_commitAccessed (h : commitAccessed as s = .ok () t) : sameBytes s t as := by
  cases as with
  | nil => cases h; exact fun _ _ => rfl
  | cons a as =>
    obtain ⟨b, u, read, write⟩ := run_bind_eq_ok.mp h
    exact (sameBytes_physReadAt read).trans (sameBytes_physWriteAt write)

theorem sameBytes_slotWrite {x : Slot} {v : Nat} (h : slotWrite x v s = .ok () t) : sameBytes s t x.addrs := by
  obtain ⟨_, u, write, watched⟩ := run_bind_eq_ok.mp h
  cases watched
  exact sameBytes_physWriteAt (t := u) write

theorem sameBytes_writeSlots {xs : List Slot} {vs : List Nat} (h : writeSlots xs vs s = .ok () t) :
    sameBytes s t (xs.flatMap Slot.addrs) := by
  induction xs generalizing s vs with
  | nil => cases h; exact fun _ _ => rfl
  | cons x xs ih =>
    cases vs with
    | nil => cases h; exact fun _ _ => rfl
    | cons v vs =>
      obtain ⟨_, u, write, rest⟩ := run_bind_eq_ok.mp h
      exact (sameBytes_slotWrite write).trans (ih rest)

end bytes

section frame
variable {s t u v : State} {xs : List Slot} {vs : List Nat}

theorem pushOffsets_length (big : Bool) (sp : Word32) (b k : Nat) : (pushOffsets big sp b k).length = k := by
  induction k generalizing sp with
  | zero => rfl
  | succ k ih => rw [pushOffsets, List.length_cons, ih]

theorem probePushes_length {g : SegState} {b : Nat} {user : Bool} {offs : List Word32}
    (h : probePushes g b user offs s = .ok xs t) : xs.length = offs.length := by
  induction offs generalizing s xs with
  | nil => cases h; rfl
  | cons off offs ih =>
    obtain ⟨x, u, -, h⟩ := run_bind_eq_ok.mp h
    obtain ⟨ys, v, rest, h⟩ := run_bind_eq_ok.mp h
    cases h
    rw [List.length_cons, ih rest, List.length_cons]

theorem touches_probeFrame (b k : Nat) : Touches (probeFrame b k) := by simp [probeFrame]

/-- The frame is as long as what is pushed. -/
theorem probeFrame_length {b k : Nat} (h : probeFrame b k s = .ok xs t) : xs.length = k := by
  rw [probeFrame, run_bind, run_get] at h
  rw [probePushes_length h, pushOffsets_length]

/-- Checked pushes are made and the stack pointer moves once (42_control_transfer.md R452). -/
theorem commitFrame_ok {b k : Nat} (same : Accessed s u) (long : xs.length = k) (written : writeSlots xs vs u = .ok () v) :
    commitFrame b xs vs u = .ok () (v.setSp (spAfter s.ss.attr.db (s.reg .esp) b k)) := by
  have after := same.trans ((touches_writeSlots xs vs).accessed written)
  rw [commitFrame, run_bind_ok written, run_modify, after.ss, after.reg, long]

end frame

section target
variable {limit target : Word32} {s : State}

theorem checkTarget_ok {ext : Bool} (within : target.toNat ≤ limit.toNat) : checkTarget limit target ext s = .ok () s := by
  simp [checkTarget, Nat.not_lt.mpr within]

theorem checkTarget_no (beyond : limit.toNat < target.toNat) :
    checkTarget limit target false s = .error (.exn ⟨.gp, some 0, false⟩) s := by
  simp [checkTarget, beyond]
  rfl

/-- What completes after the check of a target goes on from the same state, with a target within the limit. -/
theorem checkTarget_then_eq_ok {β : Type} {ext : Bool} {k : Unit → M β} {b : β} {t : State}
    (h : (checkTarget limit target ext >>= k) s = .ok b t) : target.toNat ≤ limit.toNat ∧ k () s = .ok b t := by
  rcases Nat.lt_or_ge limit.toNat target.toNat with beyond | within
  · simp [checkTarget, beyond] at h
  · exact ⟨within, (run_bind_ok (checkTarget_ok within)).symm.trans h⟩

end target

section real
variable {call : Bool} {p : Prefixes} {b n x c : Nat} {sel : Word16} {off next : Word32} {s u w : State} {xs : List Slot}

theorem farReal_beyond (beyond : s.cs.limit.toNat < off.toNat) :
    farReal call b sel off next s = .error (.exn ⟨.gp, some 0, false⟩) s := by
  rw [farReal, run_bind_ok (run_get s), run_bind_error (checkTarget_no beyond)]

theorem farReal_jump (within : off.toNat ≤ s.cs.limit.toNat) :
    farReal false b sel off next s = .ok .normal { s.realLoad .cs sel with eip := off } := by
  rw [farReal, run_bind_ok (run_get s), run_bind_ok (checkTarget_ok within)]
  rfl

/-- A call without protection: the frame is checked, pushed, and the segment entered (42_control_transfer.md R486). -/
theorem farReal_call (within : off.toNat ≤ s.cs.limit.toNat) (probed : probeFrame b 2 s = .ok xs u)
    (written : writeSlots xs [s.cs.sel.toNat, next.toNat] u = .ok () w) : farReal true b sel off next s =
      .ok .normal { State.realLoad (w.setSp (spAfter s.ss.attr.db (s.reg .esp) b 2)) .cs sel with eip := off } := by
  have pushed := commitFrame_ok (b := b) ((touches_probeFrame b 2).accessed probed) (probeFrame_length probed) written
  rw [farReal, run_bind_ok (run_get s), run_bind_ok (checkTarget_ok within)]
  simp [probed, pushed]

theorem returnFarReal_beyond (offset : readStack s.sp b s = .ok x u)
    (code : readStack (s.sp + BitVec.ofNat 32 b) 2 u = .ok c w) (beyond : s.cs.limit.toNat < (BitVec.ofNat 32 x).toNat) :
    returnFarReal b n s = .error (.exn ⟨.gp, some 0, false⟩) w := by
  rw [returnFarReal, run_bind_ok (run_get s), run_bind_ok offset, run_bind_ok code, run_bind_error (checkTarget_no beyond)]

theorem returnFarReal_ok (offset : readStack s.sp b s = .ok x u)
    (code : readStack (s.sp + BitVec.ofNat 32 b) 2 u = .ok c w) (within : (BitVec.ofNat 32 x).toNat ≤ s.cs.limit.toNat) :
    returnFarReal b n s = .ok .normal
      { State.realLoad (w.setSp (w.sp + BitVec.ofNat 32 (2 * b + n))) .cs (BitVec.ofNat 16 c) with eip := BitVec.ofNat 32 x } := by
  rw [returnFarReal, run_bind_ok (run_get s), run_bind_ok offset, run_bind_ok code, run_bind_ok (checkTarget_ok within)]
  rfl

theorem farTransfer_real (mode : s.protectedMode = false) :
    farTransfer call p sel off next s = farReal call (s.opBytes p) sel off next s := by
  rw [farTransfer, run_bind_ok (run_get s)]
  simp [mode]

theorem returnFar_real (mode : s.protectedMode = false) : returnFar p n s = returnFarReal (s.opBytes p) n s := by
  rw [returnFar, run_bind_ok (run_get s)]
  simp [mode]

end real

/-- Settles O20: without protection a transfer checks its target, pushes, and loads CS; a return pops, checks and loads. -/
theorem farTransferRealMode : Obligations.FarTransferRealMode := by
  intro p sel off next n s u w xs x c mode
  refine ⟨fun beyond call => (farTransfer_real mode).trans (farReal_beyond beyond),
    fun within => (farTransfer_real mode).trans (farReal_jump within),
    fun within probed written => (farTransfer_real mode).trans (farReal_call within probed written),
    fun offset code => ⟨fun beyond => (returnFar_real mode).trans (returnFarReal_beyond offset code beyond),
      fun within => (returnFar_real mode).trans (returnFarReal_ok offset code within)⟩⟩

end Sys2Proof.Machine
end

section
/-! Far transfers to a code segment at the level in force (42_control_transfer.md R470 to R472, R475, R484, R485). -/

namespace Sys2Proof.Machine

open Sys2Proof

section enter
variable {csel : Word16} {level : BitVec 2} {d : Desc} {entry next : Word32} {b : Nat} {s u v w y z : State} {a : List Nat}
  {xs : List Slot} {e : Err}

/-- The state once a code segment is entered at a level (42_control_transfer.md R456). -/
def State.enterCode (t : State) (csel : Word16) (level : BitVec 2) (d : Desc) (entry : Word32) : State :=
  { t with cs := segFrom (withRpl csel level) d, eip := entry }

/-- In protected mode the level is the RPL of CS (21_segmentation.md R214). -/
theorem cpl_of_protectedMode (mode : s.protectedMode = true) : s.cpl = rpl s.cs.sel := by
  simp only [State.protectedMode, Bool.and_eq_true, Bool.not_eq_true'] at mode
  obtain ⟨pe, vm⟩ := mode
  simp [State.cpl, pe, vm, rpl]

theorem State.enterCode_cpl (mode : s.protectedMode = true) : (s.enterCode csel level d entry).cpl = level := by
  rw [cpl_of_protectedMode (s := s.enterCode csel level d entry) mode]
  exact rpl_withRpl csel level

theorem commitCs_ok (marked : commitAccessed a s = .ok () u) :
    commitCs csel d level a s = .ok () { u with cs := segFrom (withRpl csel level) d } := run_bind_ok marked

theorem enterSameLevel_noRoom (full : requireRoom b 2 s = .error e v) :
    enterSameLevel true b csel d entry next s = .error e v := by
  simp [enterSameLevel, full]

theorem enterSameLevel_beyond {call : Bool} (beyond : (descLimit d).toNat < entry.toNat)
    (room : call = true → requireRoom b 2 s = .ok () s) :
    enterSameLevel call b csel d entry next s = .error (.exn ⟨.gp, some 0, false⟩) s := by
  cases call with
  | false => simp [enterSameLevel, checkTarget_no beyond]
  | true => simp [enterSameLevel, checkTarget_no beyond, room]

variable (within : entry.toNat ≤ (descLimit d).toNat)
include within

theorem enterSameLevel_jump (probed : probeAccessed csel d s = .ok a v) (marked : commitAccessed a v = .ok () w) :
    enterSameLevel false b csel d entry next s = .ok .normal (w.enterCode csel s.cpl d entry) := by
  simp [enterSameLevel, checkTarget_ok within, probed, commitCs_ok marked, State.enterCode]

/-- A call at the level in force: room, the target, the checks of the frame and of the mark, then the frame and the mark
(42_control_transfer.md R485). -/
theorem enterSameLevel_call (room : requireRoom b 2 s = .ok () s) (pushes : probeFrame b 2 s = .ok xs v)
    (probed : probeAccessed csel d v = .ok a w) (written : writeSlots xs [s.cs.sel.toNat, next.toNat] w = .ok () y)
    (marked : commitAccessed a (y.setSp (spAfter s.ss.attr.db (s.reg .esp) b 2)) = .ok () z) :
    enterSameLevel true b csel d entry next s = .ok .normal (z.enterCode csel s.cpl d entry) := by
  have checks : Accessed s w :=
    ((touches_probeFrame b 2).accessed pushes).trans ((touches_probeAccessed csel d).accessed probed)
  have pushed := commitFrame_ok (b := b) checks (probeFrame_length pushes) written
  simp [enterSameLevel, room, checkTarget_ok within, pushes, probed, pushed, commitCs_ok marked, State.enterCode]

end enter

section entered
variable {csel : Word16} {d : Desc} {entry sp : Word32} {s v w y z : State} {a vs : List Nat} {xs : List Slot}

/-- A jump that completes changes, in memory, what the mark changes, and not the level. -/
theorem enterCode_of_jump (mode : v.protectedMode = true) (marked : commitAccessed a v = .ok () w) (level : BitVec 2) :
    (w.enterCode csel level d entry).cpl = level ∧ sameBytes v (w.enterCode csel level d entry) a :=
  ⟨State.enterCode_cpl (((touches_commitAccessed a).accessed marked).protectedMode.trans mode),
    sameBytes_commitAccessed (t := w) marked⟩

/-- A call that completes changes, in memory, the frame and what the mark changes, and not the level. -/
theorem enterCode_of_call (mode : w.protectedMode = true) (written : writeSlots xs vs w = .ok () y)
    (marked : commitAccessed a (y.setSp sp) = .ok () z) (level : BitVec 2) :
    (z.enterCode csel level d entry).cpl = level ∧
      sameBytes w (z.enterCode csel level d entry) (xs.flatMap Slot.addrs ++ a) := by
  have same : z.protectedMode = w.protectedMode := ((touches_commitAccessed a).accessed marked).protectedMode.trans
    ((touches_writeSlots xs vs).accessed written).protectedMode
  have frame : sameBytes w (y.setSp sp) (xs.flatMap Slot.addrs) := sameBytes_writeSlots (t := y) written
  exact ⟨State.enterCode_cpl (same.trans mode), frame.trans (sameBytes_commitAccessed (t := z) marked)⟩

end entered

section transfer
variable {call : Bool} {p : Prefixes} {sel : Word16} {off next : Word32} {s u : State} {d : Desc} {e : Err}
  (mode : s.protectedMode = true)
include mode

theorem farTransfer_null (null : isNull sel = true) :
    farTransfer call p sel off next s = .error (.exn ⟨.gp, some 0, false⟩) s := by
  rw [farTransfer, run_bind_ok (run_get s)]
  simp [mode, null]

variable (notNull : isNull sel = false)
include notNull

/-- Where a far transfer goes once the descriptor its selector names is read (42_control_transfer.md R470, R482). -/
def farTarget (call : Bool) (p : Prefixes) (sel : Word16) (off next : Word32) (d : Desc) : M Done :=
  if isCode (descAttr d) then farDirect call p sel d off next
  else if descS d then raiseSel .gp sel false
  else if (descType d).toNat ∈ [4, 12] then throughGate call sel d next
  else if (descType d).toNat ∈ [1, 3, 5, 9, 11] then farToTask call sel d next
  else raiseSel .gp sel false

theorem farTransfer_eq : farTransfer call p sel off next s = (do
    let d ← needDescriptor sel .gp false
    farTarget call p sel off next d) s := by
  rw [farTransfer, run_bind_ok (run_get s)]
  simp only [run_ite, mode, notNull]
  rfl

theorem farTransfer_error (stops : needDescriptor sel .gp false s = .error e u) :
    farTransfer call p sel off next s = .error e u := by
  rw [farTransfer_eq mode notNull, run_bind_error stops]

theorem farTransfer_found (found : needDescriptor sel .gp false s = .ok d u) :
    farTransfer call p sel off next s = farTarget call p sel off next d u := by
  rw [farTransfer_eq mode notNull, run_bind_ok found]

end transfer

section direct
variable {call : Bool} {p : Prefixes} {sel : Word16} {off next : Word32} {s u : State} {d : Desc}

/-- Data, and system segments that are no gate or TSS to go to (42_control_transfer.md R470). -/
theorem farTarget_unsuited (unsuited : descS d = true ∧ isCode (descAttr d) = false ∨
    descS d = false ∧ (descType d).toNat ∉ [1, 3, 4, 5, 9, 11, 12]) : farTarget call p sel off next d = raiseSel .gp sel false := by
  rcases unsuited with ⟨segment, data⟩ | ⟨system, other⟩
  · simp [farTarget, segment, data]
  · have noCode : isCode (descAttr d) = false := by simp [isCode, descAttr, system]
    have noGate : (descType d).toNat ∉ [4, 12] := fun h => other (by simp at h ⊢; omega)
    have noTask : (descType d).toNat ∉ [1, 3, 5, 9, 11] := fun h => other (by simp at h ⊢; omega)
    simp only [farTarget, noCode, system, noGate, noTask, if_false, Bool.false_eq_true]

/-- A code segment that a direct transfer may enter (42_control_transfer.md R471, R472). -/
theorem directOk_iff {level : BitVec 2} : directOk level sel d = true ↔
    conforming (descAttr d) = true ∧ (descDpl d).toNat ≤ level.toNat ∨
      conforming (descAttr d) = false ∧ descDpl d = level ∧ (rpl sel).toNat ≤ level.toNat := by
  cases hc : conforming (descAttr d) <;> simp [directOk, hc]

theorem directOk_eq_false_iff {level : BitVec 2} : directOk level sel d = false ↔
    conforming (descAttr d) = true ∧ level.toNat < (descDpl d).toNat ∨
      conforming (descAttr d) = false ∧ (descDpl d ≠ level ∨ level.toNat < (rpl sel).toNat) := by
  cases hc : conforming (descAttr d) <;> simp [directOk, hc, imp_iff_not_or]

theorem farTarget_code (code : isCode (descAttr d) = true) :
    farTarget call p sel off next d = farDirect call p sel d off next := if_pos code

theorem farDirect_refused (refused : directOk s.cpl sel d = false) :
    farDirect call p sel d off next s = .error (.exn ⟨.gp, some (selectorErrorCode sel false), false⟩) s := by
  simp [farDirect, refused]

theorem farDirect_absent (admitted : directOk s.cpl sel d = true) (absent : descP d = false) :
    farDirect call p sel d off next s = .error (.exn ⟨.np, some (selectorErrorCode sel false), false⟩) s := by
  simp [farDirect, admitted, absent]

theorem farDirect_present (admitted : directOk s.cpl sel d = true) (present : descP d = true) :
    farDirect call p sel d off next s = enterSameLevel call (s.opBytes p) sel d off next s := by
  simp [farDirect, admitted, present]

end direct

/-- Settles O21: the selector is refused, or it names a code segment that is refused, absent, or entered. -/
theorem farTransferDirect : Obligations.FarTransferDirect := by
  intro call p sel off next s u v w y z d a xs e mode
  refine ⟨farTransfer_null mode, fun notNull => ⟨fun stops => farTransfer_error mode notNull (needDescriptor_error stops), ?bad⟩,
    fun notNull found code => ?direct⟩
  case bad =>
    rintro (none | ⟨found, unsuited⟩)
    · exact farTransfer_error mode notNull (needDescriptor_none none)
    · rw [farTransfer_found mode notNull (needDescriptor_some found), farTarget_unsuited unsuited, run_raiseSel]
  case direct =>
    intro entered
    have same := (touches_needDescriptor sel .gp false).accessed found
    have goes : ∀ c, farTransfer c p sel off next s = farDirect c p sel d off next u := fun c => by
      rw [farTransfer_found mode notNull found, farTarget_code code]
    have enters : ∀ t : State, t.enterCode sel u.cpl d off = entered t := fun t => by rw [same.cpl]; rfl
    have modeU := same.protectedMode.trans mode
    rw [← same.cpl, ← directOk_iff, ← directOk_eq_false_iff]
    simp only [goes, ← same.opBytes p, ← same.cs, ← same.ss, ← same.reg .esp]
    refine ⟨fun admitted => ⟨farDirect_absent admitted, fun present => ?_⟩, farDirect_refused⟩
    simp only [farDirect_present admitted present]
    refine ⟨enterSameLevel_noRoom, enterSameLevel_beyond, fun within => ⟨fun probed marked => ?_,
      fun room pushes probed written marked => ?_⟩⟩
    · have modeV := ((touches_probeAccessed sel d).accessed probed).protectedMode.trans modeU
      obtain ⟨level, bytes⟩ := enterCode_of_jump modeV marked u.cpl
      exact ⟨_, enterSameLevel_jump within probed marked, level, bytes, enters _⟩
    · have modeW := ((touches_probeAccessed sel d).accessed probed).protectedMode.trans
        (((touches_probeFrame _ 2).accessed pushes).protectedMode.trans modeU)
      obtain ⟨level, bytes⟩ := enterCode_of_call modeW written marked u.cpl
      exact ⟨_, enterSameLevel_call within room pushes probed written marked, level, bytes, enters _⟩

end Sys2Proof.Machine
end

section
/-! Far transfers through a call gate (42_control_transfer.md R473 to R481): the checks of the gate and of the segment it names, and
the call that changes stacks. -/

namespace Sys2Proof.Machine

open Sys2Proof

section fetch
variable {csel : Word16} {ext : Bool} {s u : State} {d : Desc} {e : Err}

theorem fetchCode_null (null : isNull csel = true) :
    fetchCode csel ext s = .error (.exn ⟨.gp, some (selectorErrorCode 0 ext), false⟩) s := by
  simp [fetchCode, null]

variable (notNull : isNull csel = false)
include notNull

theorem fetchCode_error (read : readDescriptor csel s = .error e u) : fetchCode csel ext s = .error e u := by
  simp [fetchCode, notNull, needDescriptor_error read]

theorem fetchCode_none (read : readDescriptor csel s = .ok none u) :
    fetchCode csel ext s = .error (.exn ⟨.gp, some (selectorErrorCode csel ext), false⟩) u := by
  simp [fetchCode, notNull, needDescriptor_none read]

variable (read : readDescriptor csel s = .ok (some d) u)
include read

theorem fetchCode_noCode (noCode : isCode (descAttr d) = false) :
    fetchCode csel ext s = .error (.exn ⟨.gp, some (selectorErrorCode csel ext), false⟩) u := by
  simp [fetchCode, notNull, needDescriptor_some read, noCode]

theorem fetchCode_code (code : isCode (descAttr d) = true) : fetchCode csel ext s = .ok d u := by
  simp [fetchCode, notNull, needDescriptor_some read, code]

end fetch

section gate
variable {call : Bool} {p : Prefixes} {sel : Word16} {off next : Word32} {s v : State} {g cd : Desc} {e : Err}

theorem farTarget_gate (system : descS g = false) (gate : (descType g).toNat ∈ [4, 12]) :
    farTarget call p sel off next g = throughGate call sel g next := by
  have noCode : isCode (descAttr g) = false := by simp [isCode, descAttr, system]
  simp only [farTarget, noCode, system, gate, if_true, if_false, Bool.false_eq_true]

/-- A gate that CPL and the RPL of its selector may use (42_control_transfer.md R473). -/
theorem gateAdmits_iff {level : BitVec 2} : dataPrivilegeOk level sel g = true ↔
    level.toNat ≤ (descDpl g).toNat ∧ (rpl sel).toNat ≤ (descDpl g).toNat := by
  rw [dataPrivilegeOk, Bool.and_eq_true, decide_eq_true_eq, decide_eq_true_eq]

theorem throughGate_refused (refused : dataPrivilegeOk s.cpl sel g = false) :
    throughGate call sel g next s = .error (.exn ⟨.gp, some (selectorErrorCode sel false), false⟩) s := by
  simp [throughGate, refused]

variable (admitted : dataPrivilegeOk s.cpl sel g = true)
include admitted

theorem throughGate_absent (absent : descP g = false) :
    throughGate call sel g next s = .error (.exn ⟨.np, some (selectorErrorCode sel false), false⟩) s := by
  simp [throughGate, admitted, absent]

variable (present : descP g = true)
include present

theorem throughGate_error (stops : fetchCode (gateSelector g) false s = .error e v) :
    throughGate call sel g next s = .error e v := by
  simp [throughGate, admitted, present, stops]

omit admitted present in
/-- Where a call gate leads once the descriptor of its code segment is read (42_control_transfer.md R474, R475). -/
def gateTarget (call : Bool) (g : Desc) (next : Word32) (level : BitVec 2) (cd : Desc) : M Done :=
  if level.toNat < (descDpl cd).toNat ∨ call = false ∧ conforming (descAttr cd) = false ∧ descDpl cd ≠ level then
    raiseSel .gp (gateSelector g) false
  else if descP cd = false then raiseSel .np (gateSelector g) false
  else if call = true ∧ conforming (descAttr cd) = false ∧ (descDpl cd).toNat < level.toNat then
    interLevelCall g (gateSelector g) cd next
  else enterSameLevel call (gateItem g) (gateSelector g) cd (gateOffset g) next

theorem throughGate_fetched (fetched : fetchCode (gateSelector g) false s = .ok cd v) :
    throughGate call sel g next s = gateTarget call g next s.cpl cd v := by
  rw [throughGate, run_bind_ok (run_get s)]
  simp only [admitted, present, Bool.not_true, Bool.false_eq_true, if_false, run_bind_ok fetched, gateTarget, ite_or]
  simp only [gt_iff_lt, Bool.and_eq_true, Bool.not_eq_true', decide_eq_true_eq, and_assoc]
  rfl

end gate

section target
variable {call : Bool} {next : Word32} {level : BitVec 2} {s : State} {g cd : Desc}

theorem gateTarget_refused (refused : level.toNat < (descDpl cd).toNat ∨
      call = false ∧ conforming (descAttr cd) = false ∧ descDpl cd ≠ level) :
    gateTarget call g next level cd s = .error (.exn ⟨.gp, some (selectorErrorCode (gateSelector g) false), false⟩) s :=
  congrFun (if_pos refused) s

variable (dpl : (descDpl cd).toNat ≤ level.toNat) (jump : call = false → conforming (descAttr cd) = true ∨ descDpl cd = level)
include dpl jump

theorem gateTarget_admitted : ¬(level.toNat < (descDpl cd).toNat ∨
    call = false ∧ conforming (descAttr cd) = false ∧ descDpl cd ≠ level) := by
  rintro (low | ⟨jumps, nonconforming, other⟩)
  · omega
  · exact (jump jumps).elim (by simp [nonconforming]) other

theorem gateTarget_absent (absent : descP cd = false) : gateTarget call g next level cd s =
    .error (.exn ⟨.np, some (selectorErrorCode (gateSelector g) false), false⟩) s := by
  rw [gateTarget, if_neg (gateTarget_admitted dpl jump), if_pos absent, run_raiseSel]

variable (present : descP cd = true)
include present

theorem gateTarget_inner (calls : call = true) (nonconforming : conforming (descAttr cd) = false)
    (inner : (descDpl cd).toNat < level.toNat) :
    gateTarget call g next level cd = interLevelCall g (gateSelector g) cd next := by
  rw [gateTarget, if_neg (gateTarget_admitted dpl jump), if_neg (by simp [present]),
    if_pos ⟨calls, nonconforming, inner⟩]

theorem gateTarget_sameLevel (same : call = true → conforming (descAttr cd) = true ∨ descDpl cd = level) :
    gateTarget call g next level cd = enterSameLevel call (gateItem g) (gateSelector g) cd (gateOffset g) next := by
  have outer : ¬(call = true ∧ conforming (descAttr cd) = false ∧ (descDpl cd).toNat < level.toNat) := by
    rintro ⟨calls, nonconforming, inner⟩
    rcases same calls with conforms | rfl
    · simp [nonconforming] at conforms
    · exact Nat.lt_irrefl _ inner
  rw [gateTarget, if_neg (gateTarget_admitted dpl jump), if_neg (by simp [present]), if_neg outer]

end target

section inner
variable {g cd sd : Desc} {csel nss : Word16} {next nesp : Word32} {s t u v w y z t1 t2 t3 : State} {dn : Done} {e : Err}
  {params a a' : List Nat} {xs : List Slot}

/-- Room on a stack is room for each push (42_control_transfer.md R452). -/
theorem roomFor_iff (seg : SegState) (sp : Word32) (b k : Nat) : roomFor seg sp b k = true ↔
    ∀ off ∈ pushOffsets seg.attr.db (spOf seg.attr.db sp) b k, inLimit seg off b = true := by
  rw [roomFor, List.all_eq_true]

/-- What is left of the inter-level call once its stack is checked (42_control_transfer.md R479 to R481): `n` items fit on the new
stack, the parameters are read from `sp`, and the frame is `old`, the parameters and `back`. -/
def callOnStack (g : Desc) (csel : Word16) (cd : Desc) (nss : Word16) (nesp : Word32) (sd : Desc) (sp : Word32)
    (old back : List Nat) : M Done := do
  let seg := segFrom nss sd
  let n := 4 + gateCount g
  if !roomFor seg nesp (gateItem g) n then raiseSel .ss nss false
  else do
    checkTarget (descLimit cd) (gateOffset g) false
    let params ← readParams (gateItem g) sp (gateCount g)
    let slots ← probePushes seg (gateItem g) false (pushOffsets seg.attr.db (spOf seg.attr.db nesp) (gateItem g) n)
    let accSs ← probeAccessed nss sd
    let accCs ← probeAccessed csel cd
    commitAccessed accSs
    writeSlots slots (old ++ params.reverse ++ back)
    modify fun s => State.setSp { s with ss := seg } (spAfter seg.attr.db nesp (gateItem g) n)
    commitCs csel cd (descDpl cd) accCs
    modify fun s => { s with eip := gateOffset g }
    pure .normal

theorem interLevelCall_eq : interLevelCall g csel cd next s = (do
    let (nss, nesp) ← tssStack (descDpl cd) false
    let sd ← checkSs nss (descDpl cd) .ts false
    callOnStack g csel cd nss nesp sd s.sp [s.ss.sel.toNat, (s.reg .esp).toNat] [s.cs.sel.toNat, next.toNat]) s := rfl

theorem interLevelCall_stackError (stops : tssStack (descDpl cd) false s = .error e u) :
    interLevelCall g csel cd next s = .error e u := by
  rw [interLevelCall_eq, run_bind_error stops]

section stack
variable (stack : tssStack (descDpl cd) false s = .ok (nss, nesp) u)
include stack

theorem interLevelCall_segmentError (stops : checkSs nss (descDpl cd) .ts false u = .error e v) :
    interLevelCall g csel cd next s = .error e v := by
  rw [interLevelCall_eq, run_bind_ok stack]
  exact run_bind_error stops

theorem interLevelCall_onStack (checked : checkSs nss (descDpl cd) .ts false u = .ok sd v) :
    interLevelCall g csel cd next s =
      callOnStack g csel cd nss nesp sd s.sp [s.ss.sel.toNat, (s.reg .esp).toNat] [s.cs.sel.toNat, next.toNat] v := by
  rw [interLevelCall_eq, run_bind_ok stack]
  exact run_bind_ok checked

end stack

/-- An inter-level call that completes has taken a stack from the TSS and is made on it. -/
theorem interLevelCall_eq_ok (h : interLevelCall g csel cd next s = .ok dn t) : ∃ nss nesp sd u v,
    tssStack (descDpl cd) false s = .ok (nss, nesp) u ∧ checkSs nss (descDpl cd) .ts false u = .ok sd v ∧
    callOnStack g csel cd nss nesp sd s.sp [s.ss.sel.toNat, (s.reg .esp).toNat] [s.cs.sel.toNat, next.toNat] v =
      .ok dn t := by
  rw [interLevelCall_eq] at h
  obtain ⟨⟨nss, nesp⟩, u, stack, h⟩ := run_bind_eq_ok.mp h
  obtain ⟨sd, v, checked, h⟩ := run_bind_eq_ok.mp h
  exact ⟨nss, nesp, sd, u, v, stack, checked, h⟩

/-- The steps of a call on its new stack that completes (42_control_transfer.md R479 to R481). -/
theorem callOnStack_eq_ok {sp : Word32} {old back : List Nat}
    (h : callOnStack g csel cd nss nesp sd sp old back v = .ok dn t) :
    ∃ params xs a a' w y z t0 t1 t2 t3, readParams (gateItem g) sp (gateCount g) v = .ok params w ∧
      probePushes (segFrom nss sd) (gateItem g) false (pushOffsets (segFrom nss sd).attr.db
        (spOf (segFrom nss sd).attr.db nesp) (gateItem g) (4 + gateCount g)) w = .ok xs y ∧
      probeAccessed nss sd y = .ok a z ∧ probeAccessed csel cd z = .ok a' t0 ∧ commitAccessed a t0 = .ok () t1 ∧
      writeSlots xs (old ++ params.reverse ++ back) t1 = .ok () t2 ∧
      commitAccessed a' (State.setSp { t2 with ss := segFrom nss sd }
        (spAfter (segFrom nss sd).attr.db nesp (gateItem g) (4 + gateCount g))) = .ok () t3 ∧
      dn = .normal ∧ t = t3.enterCode csel (descDpl cd) cd (gateOffset g) := by
  rw [callOnStack] at h
  split at h
  · cases h
  obtain ⟨-, rest⟩ := checkTarget_then_eq_ok h
  obtain ⟨params, w, read, rest⟩ := run_bind_eq_ok.mp rest
  obtain ⟨xs, y, pushes, rest⟩ := run_bind_eq_ok.mp rest
  obtain ⟨a, z, probedSs, rest⟩ := run_bind_eq_ok.mp rest
  obtain ⟨a', t0, probedCs, rest⟩ := run_bind_eq_ok.mp rest
  obtain ⟨_, t1, markedSs, rest⟩ := run_bind_eq_ok.mp rest
  obtain ⟨_, t2, written, rest⟩ := run_bind_eq_ok.mp rest
  rw [run_bind_ok (run_modify _ _)] at rest
  obtain ⟨_, _, entered, rest⟩ := run_bind_eq_ok.mp rest
  obtain ⟨_, t3, markedCs, entered⟩ := run_bind_eq_ok.mp entered
  cases entered
  cases rest
  exact ⟨params, xs, a, a', w, y, z, t0, t1, t2, t3, read, pushes, probedSs, probedCs, markedSs, written, markedCs, rfl, rfl⟩

end inner

/-- A stack segment that was accepted suits the level (42_control_transfer.md R457, R479, R494). -/
theorem checkSs_eq_ok {sel : Word16} {lvl : BitVec 2} {x : Exc} {ext : Bool} {s u : State} {d : Desc}
    (h : checkSs sel lvl x ext s = .ok d u) :
    isNull sel = false ∧ readDescriptor sel s = .ok (some d) u ∧ SuitsStack lvl sel d ∧ descP d = true := by
  cases null : isNull sel with
  | true => cases (checkSs_null null).symm.trans h
  | false =>
    cases read : readDescriptor sel s with
    | error e v => cases (checkSs_error null read).symm.trans h
    | ok o v =>
      cases o with
      | none => cases (checkSs_none null read).symm.trans h
      | some d' =>
        by_cases suits : SuitsStack lvl sel d'
        · cases present : descP d' with
          | false => cases (checkSs_absent null read suits present).symm.trans h
          | true =>
            cases (checkSs_ok null read suits present).symm.trans h
            exact ⟨rfl, rfl, suits, present⟩
        · cases (checkSs_unsuited null read suits).symm.trans h

section completed
variable {g cd sd : Desc} {csel nss : Word16} {nesp next sp : Word32} {s u v t : State} {dn : Done} {old back : List Nat}

/-- What a call on a new stack has in force when it completes: the code segment at its DPL, the entry point, the new stack; flags and
the other registers are as they were. -/
theorem callOnStack_result (mode : v.protectedMode = true)
    (h : callOnStack g csel cd nss nesp sd sp old back v = .ok dn t) :
    dn = .normal ∧ t.eip = gateOffset g ∧ t.cpl = descDpl cd ∧ t.cs = segFrom (withRpl csel (descDpl cd)) cd ∧
      t.ss = segFrom nss sd ∧ t.eflags = v.eflags ∧ t.reg .eax = v.reg .eax := by
  obtain ⟨params, xs, a, a', w, y, z, t0, t1, t2, t3, read, pushes, probedSs, probedCs, markedSs, written, markedCs, rfl,
    rfl⟩ := callOnStack_eq_ok h
  have before : Accessed v t2 := ((touches_readParams _ _ _).accessed read).trans
    (((touches_probePushes _ _ _ _).accessed pushes).trans (((touches_probeAccessed _ _).accessed probedSs).trans
      (((touches_probeAccessed _ _).accessed probedCs).trans (((touches_commitAccessed _).accessed markedSs).trans
        ((touches_writeSlots _ _).accessed written)))))
  have after := (touches_commitAccessed _).accessed markedCs
  exact ⟨rfl, rfl, State.enterCode_cpl (after.protectedMode.trans (before.protectedMode.trans mode)), rfl, after.ss,
    after.eflags.trans before.eflags, (after.reg .eax).trans (before.reg .eax)⟩

/-- An inter-level call runs at the DPL of its code segment on a stack of that level (42_control_transfer.md R479, R481). -/
theorem interLevelCall_result (mode : s.protectedMode = true) (h : interLevelCall g csel cd next s = .ok dn t) :
    dn = .normal ∧ t.eip = gateOffset g ∧ t.cpl = descDpl cd ∧ t.cs = segFrom (withRpl csel (descDpl cd)) cd ∧
      rpl t.ss.sel = descDpl cd ∧ t.ss.attr.dpl = descDpl cd ∧ t.ss.valid = true ∧ writable t.ss.attr = true ∧
      t.eflags = s.eflags ∧ t.reg .eax = s.reg .eax := by
  obtain ⟨nss, nesp, sd, u, v, stack, checked, h⟩ := interLevelCall_eq_ok h
  have same : Accessed s v := ((touches_tssStack _ _).accessed stack).trans ((touches_checkSs _ _ _ _).accessed checked)
  obtain ⟨done, eip, cpl, cs, ss, eflags, eax⟩ := callOnStack_result (same.protectedMode.trans mode) h
  obtain ⟨-, -, ⟨level, write, dpl⟩, -⟩ := checkSs_eq_ok checked
  refine ⟨done, eip, cpl, cs, ?_, ?_, ?_, ?_, eflags.trans same.eflags, eax.trans (same.reg .eax)⟩ <;> rw [ss, segFrom]
  · exact level
  · exact (withAccessed_dpl _).trans dpl
  · exact (writable_withAccessed _).trans write

end completed

/-- Settles O22: the checks of the gate, those of the segment it names, the transfers at the level in force, and the call to an inner
level step by step. -/
theorem callGates : Obligations.CallGates := by
  intro call p sel csel off next s u v w y z t g cd a xs e dn nss nesp sd params a' t1 t2 t3 mode
  refine ⟨fun notNull found system gate => ?gate, interLevelCall_result mode, ?inner⟩
  case gate =>
    intro raises entered
    have same := (touches_needDescriptor sel .gp false).accessed found
    have goes : farTransfer call p sel off next s = throughGate call sel g next u := by
      rw [farTransfer_found mode notNull found, farTarget_gate system gate]
    have enters : ∀ t : State, t.enterCode csel s.cpl cd (gateOffset g) = entered t := fun t => rfl
    simp only [raises, goes, ← enters]
    clear_value entered
    have level := gateAdmits_iff (level := u.cpl) (sel := sel) (g := g)
    rw [same.cpl] at level
    refine ⟨fun low => throughGate_refused (Bool.eq_false_iff.mpr fun ok => ?_), fun dpl rpl => ?_⟩
    · obtain ⟨dpl, rpl⟩ := level.mp (same.cpl ▸ ok)
      omega
    have admitted : dataPrivilegeOk u.cpl sel g = true := by rw [same.cpl]; exact level.mpr ⟨dpl, rpl⟩
    refine ⟨throughGate_absent admitted, fun present hcsel => ?_⟩
    subst hcsel
    refine ⟨fun null => throughGate_error admitted present (fetchCode_null null),
      fun notNull read => throughGate_error admitted present (fetchCode_error notNull read),
      fun notNull read => throughGate_error admitted present (fetchCode_none notNull read),
      fun notNull read => ⟨fun noCode => throughGate_error admitted present (fetchCode_noCode notNull read noCode),
        fun code => ?_⟩⟩
    have leads : throughGate call sel g next u = gateTarget call g next s.cpl cd v := by
      rw [throughGate_fetched admitted present (fetchCode_code notNull read code), same.cpl]
    have sameV := same.trans ((touches_readDescriptor (gateSelector g)).accessed read)
    have modeV := sameV.protectedMode.trans mode
    rw [leads]
    refine ⟨gateTarget_refused, fun dpl jump => ⟨gateTarget_absent dpl jump, fun present =>
      ⟨fun calls nonconforming inner => by rw [gateTarget_inner dpl jump present calls nonconforming inner], fun sameLevel => ?_⟩⟩⟩
    rw [gateTarget_sameLevel dpl jump present sameLevel, ← sameV.cpl, ← sameV.cs, ← sameV.ss, ← sameV.reg .esp]
    refine ⟨?room, enterSameLevel_beyond, fun within => ⟨?jumps, ?calls⟩⟩
    case room =>
      rintro rfl full
      exact enterSameLevel_noRoom full
    case jumps =>
      rintro rfl probed marked
      have modeW := ((touches_probeAccessed _ cd).accessed probed).protectedMode.trans modeV
      obtain ⟨level, bytes⟩ := enterCode_of_jump modeW marked v.cpl
      exact ⟨_, enterSameLevel_jump within probed marked, level, bytes, rfl⟩
    case calls =>
      rintro rfl room pushes probed written marked
      have modeY := ((touches_probeAccessed _ cd).accessed probed).protectedMode.trans
        (((touches_probeFrame _ 2).accessed pushes).protectedMode.trans modeV)
      obtain ⟨level, bytes⟩ := enterCode_of_call modeY written marked v.cpl
      exact ⟨_, enterSameLevel_call within room pushes probed written marked, level, bytes, rfl⟩
  case inner =>
    intro called n seg offsets
    refine ⟨interLevelCall_stackError, fun stack => ⟨interLevelCall_segmentError stack, fun checked room hroom => ?_⟩⟩
    replace hroom : room ↔ roomFor seg nesp (gateItem g) n = true := hroom.trans (roomFor_iff ..).symm
    have hseg : segFrom nss sd = seg := rfl
    have hn : 4 + gateCount g = n := rfl
    have hoffsets : pushOffsets seg.attr.db (spOf seg.attr.db nesp) (gateItem g) n = offsets := rfl
    rw [show called = _ from interLevelCall_onStack stack checked, callOnStack, hroom, hseg, hn, hoffsets]
    by_cases fits : roomFor seg nesp (gateItem g) n = true
    case neg =>
      exact ⟨fun full => congrFun (if_pos (by simpa using full)) v, fun yes => absurd yes fits, fun yes => absurd yes fits⟩
    rw [if_neg (by simpa using fits)]
    refine ⟨fun full => absurd fits full, fun _ beyond => run_bind_error (checkTarget_no beyond), fun _ within => ?_⟩
    rw [run_bind_ok (checkTarget_ok within)]
    refine ⟨run_bind_error, fun read => ?_⟩
    rw [run_bind_ok read]
    refine ⟨run_bind_error, fun pushes => ?_⟩
    rw [run_bind_ok pushes]
    refine ⟨run_bind_error, fun probedSs => ?_⟩
    rw [run_bind_ok probedSs]
    refine ⟨run_bind_error, fun probedCs markedSs written markedCs => ?_⟩
    rw [run_bind_ok probedCs, run_bind_ok markedSs, run_bind_ok written, run_bind_ok (run_modify _ _),
      run_bind_ok (commitCs_ok markedCs)]
    rfl

end Sys2Proof.Machine
end

section
/-! Far returns in protected mode (42_control_transfer.md R491 to R498): the code segment a return names, the return within a level,
and the one to an outer level with the stack it takes. -/

namespace Sys2Proof.Machine

open Sys2Proof

section stackPointer

theorem lo16_setLo16 (v : Word32) (x : Word16) : lo16 (setLo16 v x) = x := BitVec.extractLsb'_append_eq_right

/-- A stack pointer read back at the width it was written with (42_control_transfer.md R451). -/
@[simp] theorem spOf_spPut (big : Bool) (esp x : Word32) : spOf big (spPut big esp x) = spOf big x := by
  cases big with
  | true => rfl
  | false => exact congrArg (BitVec.setWidth 32) (lo16_setLo16 esp (lo16 x))

/-- A sum at the width of the stack depends on the stack pointer at that width. -/
theorem spOf_add (big : Bool) (x y : Word32) : spOf big (spOf big x + y) = spOf big (x + y) := by
  cases big with
  | true => rfl
  | false =>
    have low : lo16 ((lo16 x).setWidth 32 + y) = lo16 (x + y) := BitVec.eq_of_toNat_eq (by simp [lo16])
    exact congrArg (BitVec.setWidth 32) low

@[simp] theorem State.setSp_sp (s : State) (x : Word32) : (s.setSp x).sp = spOf s.ss.attr.db x := by
  rw [State.sp, State.setSp, State.setReg_reg_same]
  exact spOf_spPut _ _ _

/-- The stack pointer of a stack that was popped with another (42_control_transfer.md R491): as it was popped, where the stack is a
16-bit one or the operand size 32 bits. -/
theorem spOf_outerEsp {big wide : Bool} (h : wide = true ∨ big = false) (old nesp free : Word32) :
    spOf big (outerEsp big wide old nesp free) = spOf big nesp := by
  cases big with
  | true =>
    have wide : wide = true := by simpa using h
    simp [outerEsp, wide]
  | false =>
    refine congrArg (BitVec.setWidth 32) ((lo16_setLo16 free _).trans ?_)
    cases wide with
    | true => rfl
    | false => exact lo16_setLo16 old (lo16 nesp)

end stackPointer

section stack
variable {s : State} {off : Word32} {n : Nat}

theorem requireStack_ok (room : inLimit s.ss off n = true) : requireStack off n s = .ok () s := by simp [requireStack, room]

theorem requireStack_no (full : inLimit s.ss off n = false) :
    requireStack off n s = .error (.exn ⟨.ss, some 0, false⟩) s := by simp [requireStack, full]

theorem requireStack_eq_ok {a : Unit} {t : State} (h : requireStack off n s = .ok a t) : t = s := by
  cases room : inLimit s.ss off n with
  | true => cases (requireStack_ok room).symm.trans h; rfl
  | false => cases (requireStack_no room).symm.trans h

end stack

section code
variable {sel : Word16} {s u : State} {d : Desc} {e : Err}

/-- The code segments a return may enter at the RPL of its selector (42_control_transfer.md R491). -/
def SuitsReturn (sel : Word16) (d : Desc) : Prop :=
  isCode (descAttr d) = true ∧
    if conforming (descAttr d) then (descDpl d).toNat ≤ (rpl sel).toNat else descDpl d = rpl sel

theorem returnCode_inner (inner : (rpl sel).toNat < s.cpl.toNat) :
    returnCode sel s = .error (.exn ⟨.gp, some (selectorErrorCode sel false), false⟩) s := by
  simp [returnCode, inner]

/-- A return that the code segment admits does not lead to an inner level (42_control_transfer.md R491). -/
theorem cpl_le_of_returnCode (h : returnCode sel s = .ok d u) : s.cpl.toNat ≤ (rpl sel).toNat := by
  rcases Nat.lt_or_ge (rpl sel).toNat s.cpl.toNat with inner | outer
  · cases (returnCode_inner inner).symm.trans h
  · exact outer

variable (outer : s.cpl.toNat ≤ (rpl sel).toNat)
include outer

theorem returnCode_error (stops : fetchCode sel false s = .error e u) : returnCode sel s = .error e u := by
  simp [returnCode, Nat.not_lt.mpr outer, stops]

variable (notNull : isNull sel = false) (read : readDescriptor sel s = .ok (some d) u)
include notNull read

theorem returnCode_unsuited (unsuited : ¬SuitsReturn sel d) :
    returnCode sel s = .error (.exn ⟨.gp, some (selectorErrorCode sel false), false⟩) u := by
  cases code : isCode (descAttr d) with
  | false => exact returnCode_error outer (fetchCode_noCode notNull read code)
  | true =>
    cases conforms : conforming (descAttr d) with
    | true =>
      have low : (rpl sel).toNat < (descDpl d).toNat := by simpa [SuitsReturn, code, conforms] using unsuited
      simp [returnCode, Nat.not_lt.mpr outer, fetchCode_code notNull read code, conforms, low]
    | false =>
      have other : descDpl d ≠ rpl sel := by simpa [SuitsReturn, code, conforms] using unsuited
      simp [returnCode, Nat.not_lt.mpr outer, fetchCode_code notNull read code, conforms, other]

/-- A code segment that suits is entered if it is present. -/
theorem returnCode_suited (suits : SuitsReturn sel d) : returnCode sel s =
    if descP d = false then .error (.exn ⟨.np, some (selectorErrorCode sel false), false⟩) u else .ok d u := by
  obtain ⟨code, level⟩ := suits
  cases conforms : conforming (descAttr d) with
  | true =>
    have dpl : ¬(rpl sel).toNat < (descDpl d).toNat := by simpa [conforms] using level
    simp [returnCode, Nat.not_lt.mpr outer, fetchCode_code notNull read code, conforms, dpl]
  | false =>
    have dpl : descDpl d = rpl sel := by simpa [conforms] using level
    simp [returnCode, Nat.not_lt.mpr outer, fetchCode_code notNull read code, conforms, dpl]

end code

section within
variable {level : BitVec 2} {b n : Nat} {csel : Word16} {d : Desc} {neip : Word32} {s t u v : State} {a : List Nat}
  {dn : Done} {e : Err}

/-- The return within a level, once its code segment is accepted (42_control_transfer.md R491). -/
def returnWithin (level : BitVec 2) (b n : Nat) (csel : Word16) (d : Desc) (neip : Word32) : M Done := do
  checkTarget (descLimit d) neip false
  let acc ← probeAccessed csel d
  modify fun s => s.setSp (s.sp + BitVec.ofNat 32 (2 * b + n))
  commitCs csel d level acc
  modify fun s => { s with eip := neip }
  pure .normal

theorem returnWithin_beyond (beyond : (descLimit d).toNat < neip.toNat) :
    returnWithin level b n csel d neip s = .error (.exn ⟨.gp, some 0, false⟩) s := run_bind_error (checkTarget_no beyond)

variable (within : neip.toNat ≤ (descLimit d).toNat)
include within

theorem returnWithin_error (stops : probeAccessed csel d s = .error e u) :
    returnWithin level b n csel d neip s = .error e u := by
  rw [returnWithin, run_bind_ok (checkTarget_ok within), run_bind_error stops]

theorem returnWithin_ok (probed : probeAccessed csel d s = .ok a u)
    (marked : commitAccessed a (u.setSp (u.sp + BitVec.ofNat 32 (2 * b + n))) = .ok () v) :
    returnWithin level b n csel d neip s = .ok .normal (v.enterCode csel level d neip) := by
  rw [returnWithin, run_bind_ok (checkTarget_ok within), run_bind_ok probed, run_bind_ok (run_modify _ _),
    run_bind_ok (commitCs_ok marked)]
  rfl

omit within in
theorem returnWithin_eq_ok (h : returnWithin level b n csel d neip s = .ok dn t) : ∃ a u v,
    probeAccessed csel d s = .ok a u ∧ commitAccessed a (u.setSp (u.sp + BitVec.ofNat 32 (2 * b + n))) = .ok () v ∧
      dn = .normal ∧ t = v.enterCode csel level d neip := by
  obtain ⟨-, rest⟩ := checkTarget_then_eq_ok h
  obtain ⟨a, u, probed, rest⟩ := run_bind_eq_ok.mp rest
  rw [run_bind_ok (run_modify _ _)] at rest
  obtain ⟨_, _, entered, rest⟩ := run_bind_eq_ok.mp rest
  obtain ⟨_, v, marked, entered⟩ := run_bind_eq_ok.mp entered
  cases entered
  cases rest
  exact ⟨a, u, v, probed, marked, rfl, rfl⟩

end within

section outer
variable {wide : Bool} {n e k : Nat} {csel nss : Word16} {d sd : Desc} {neip nesp top : Word32}
  {s t y z t0 t1 t2 t3 t4 : State} {a a' : List Nat} {dn : Done} {er : Err}

/-- The state once an outer stack is taken: ESP at item size, its upper half free where the stack is a 16-bit one
(42_control_transfer.md R491, U24). -/
def State.takeStack (t : State) (nss : Word16) (sd : Desc) (wide : Bool) (nesp : Word32) : State :=
  let big := (descAttr sd).db
  State.setReg { t with ss := segFrom nss sd, free := if big then t.free else t.free + 1 } .esp
    (outerEsp big wide (t.reg .esp) nesp (if big then 0 else Config.freeWord t.free))

theorem takeStack_sp (h : wide = true ∨ (descAttr sd).db = false) (t : State) :
    (t.takeStack nss sd wide nesp).sp = spOf (descAttr sd).db nesp := by
  rw [State.sp, State.takeStack, State.setReg_reg_same]
  exact (congrArg (spOf · _) (withAccessed_db _)).trans (spOf_outerEsp h _ _ _)

/-- Both descriptors are marked, then the code segment and the stack are in force (42_control_transfer.md R491). -/
theorem commitOuter_ok (probedCs : probeAccessed csel d t0 = .ok a t1) (probedSs : probeAccessed nss sd t1 = .ok a' t2)
    (markedCs : commitAccessed a t2 = .ok () t3) (markedSs : commitAccessed a' { t3 with cs := segFrom csel d } = .ok () t4) :
    commitOuter csel d nss sd wide nesp t0 = .ok () (t4.takeStack nss sd wide nesp) := by
  have entered := commitCs_ok (csel := csel) (d := d) (level := rpl csel) markedCs
  rw [withRpl_rpl] at entered
  rw [commitOuter, run_bind_ok probedCs, run_bind_ok probedSs, run_bind_ok entered, run_bind_ok markedSs]
  cases big : (descAttr sd).db with
  | true => simp [State.takeStack, big]
  | false =>
    simp only [State.takeStack, big, Bool.false_eq_true, if_false, run_bind, run_freshWord, run_modify]
    rfl

theorem commitOuter_stackError (probedCs : probeAccessed csel d t0 = .ok a t1) (stops : probeAccessed nss sd t1 = .error er t2) :
    commitOuter csel d nss sd wide nesp t0 = .error er t2 := by
  rw [commitOuter, run_bind_ok probedCs, run_bind_error stops]

theorem commitOuter_eq_ok (h : commitOuter csel d nss sd wide nesp t0 = .ok () t) : ∃ a a' t1 t2 t3 t4,
    probeAccessed csel d t0 = .ok a t1 ∧ probeAccessed nss sd t1 = .ok a' t2 ∧ commitAccessed a t2 = .ok () t3 ∧
      commitAccessed a' { t3 with cs := segFrom csel d } = .ok () t4 ∧ t = t4.takeStack nss sd wide nesp := by
  obtain ⟨a, t1, probedCs, rest⟩ := run_bind_eq_ok.mp h
  obtain ⟨a', t2, probedSs, rest⟩ := run_bind_eq_ok.mp rest
  obtain ⟨_, t3', entered, rest⟩ := run_bind_eq_ok.mp rest
  obtain ⟨_, t3, markedCs, entered⟩ := run_bind_eq_ok.mp entered
  cases entered
  obtain ⟨_, t4, markedSs, -⟩ := run_bind_eq_ok.mp rest
  simp only [withRpl_rpl] at markedSs
  cases (commitOuter_ok probedCs probedSs markedCs markedSs).symm.trans h
  exact ⟨a, a', t1, t2, t3, t4, probedCs, probedSs, markedCs, markedSs, rfl⟩

/-- The state a return to an outer level ends in, once both segments are in force (42_control_transfer.md R491, R498). -/
def State.returnedOuter (t : State) (n : Nat) (level : BitVec 2) (neip : Word32) : State :=
  { (t.setSp (t.sp + BitVec.ofNat 32 n)).nullOuterSegments level with eip := neip }

/-- Of the general registers only ESP is that of the outer stack. -/
theorem returnedOuter_reg (t : State) (level : BitVec 2) (r : Reg) (other : r ≠ .esp) :
    ((t.takeStack nss sd wide nesp).returnedOuter n level neip).reg r = t.reg r :=
  (State.setReg_reg_other (t.takeStack nss sd wide nesp) .esp r _ other).trans (State.setReg_reg_other _ .esp r _ other)

/-- Where the frame of the outer stack lies: above the return's own and the immediate's bytes (42_control_transfer.md R491). -/
def State.outerFrame (s : State) (b n : Nat) : Word32 := spOf s.ss.attr.db (s.sp + BitVec.ofNat 32 (2 * b + n))

/-- The size of an item. -/
abbrev itemSize (wide : Bool) : Nat := if wide then 4 else 2

theorem returnOuter_noRoom (full : inLimit s.ss (s.outerFrame (itemSize wide) n) (2 * itemSize wide) = false) :
    returnOuter wide n csel d neip s = .error (.exn ⟨.ss, some 0, false⟩) s := by
  rw [returnOuter, run_bind_ok (run_get s)]
  exact run_bind_error (requireStack_no full)

theorem returnOuter_eq (room : inLimit s.ss (s.outerFrame (itemSize wide) n) (2 * itemSize wide) = true) :
    returnOuter wide n csel d neip s = (do
      let nesp ← readStack (s.outerFrame (itemSize wide) n) (itemSize wide)
      let nss ← readStack (s.outerFrame (itemSize wide) n + BitVec.ofNat 32 (itemSize wide)) 2
      let sd ← checkSs (BitVec.ofNat 16 nss) (rpl csel) .gp false
      checkTarget (descLimit d) neip false
      commitOuter csel d (BitVec.ofNat 16 nss) sd wide (BitVec.ofNat 32 nesp)
      modify fun t : State => t.setSp (t.sp + BitVec.ofNat 32 n)
      modify fun t : State => t.nullOuterSegments (rpl csel)
      modify fun t : State => { t with eip := neip }
      pure .normal : M Done) s := by
  rw [returnOuter, run_bind_ok (run_get s)]
  exact run_bind_ok (requireStack_ok room)

theorem returnOuter_eq_ok (h : returnOuter wide n csel d neip s = .ok dn t) : ∃ e k sd y z t0 t5,
    readStack (s.outerFrame (itemSize wide) n) (itemSize wide) s = .ok e y ∧
    readStack (s.outerFrame (itemSize wide) n + BitVec.ofNat 32 (itemSize wide)) 2 y = .ok k z ∧
    checkSs (BitVec.ofNat 16 k) (rpl csel) .gp false z = .ok sd t0 ∧
    commitOuter csel d (BitVec.ofNat 16 k) sd wide (BitVec.ofNat 32 e) t0 = .ok () t5 ∧
    dn = .normal ∧ t = t5.returnedOuter n (rpl csel) neip := by
  cases room : inLimit s.ss (s.outerFrame (itemSize wide) n) (2 * itemSize wide) with
  | false => cases (returnOuter_noRoom room).symm.trans h
  | true =>
    rw [returnOuter_eq room] at h
    obtain ⟨e, y, pointer, rest⟩ := run_bind_eq_ok.mp h
    obtain ⟨k, z, segment, rest⟩ := run_bind_eq_ok.mp rest
    obtain ⟨sd, t0, checked, rest⟩ := run_bind_eq_ok.mp rest
    obtain ⟨-, rest⟩ := checkTarget_then_eq_ok rest
    obtain ⟨_, t5, taken, rest⟩ := run_bind_eq_ok.mp rest
    cases rest
    exact ⟨e, k, sd, y, z, t0, t5, pointer, segment, checked, taken, rfl, rfl⟩

end outer

section far
variable {p : Prefixes} {n x c : Nat} {s t u v w : State} {d : Desc} {dn : Done} {e : Err} (mode : s.protectedMode = true)
include mode

/-- The code segment's selector decides between the two returns (42_control_transfer.md R491). -/
def returnTo (p : Prefixes) (n : Nat) (s : State) (neip : Word32) (csel : Word16) (d : Desc) : M Done :=
  if rpl csel = s.cpl then returnWithin s.cpl (s.opBytes p) n csel d neip else returnOuter (s.op32 p) n csel d neip

theorem returnFar_noRoom (full : inLimit s.ss s.sp (2 * s.opBytes p) = false) :
    returnFar p n s = .error (.exn ⟨.ss, some 0, false⟩) s := by
  rw [returnFar, run_bind_ok (run_get s)]
  simp only [mode, run_ite]
  exact run_bind_error (requireStack_no full)

theorem returnFar_eq (room : inLimit s.ss s.sp (2 * s.opBytes p) = true) : returnFar p n s = (do
    let neip ← readStack s.sp (s.opBytes p)
    let csel ← readStack (s.sp + BitVec.ofNat 32 (s.opBytes p)) 2
    let d ← returnCode (BitVec.ofNat 16 csel)
    returnTo p n s (BitVec.ofNat 32 neip) (BitVec.ofNat 16 csel) d) s := by
  rw [returnFar, run_bind_ok (run_get s)]
  simp only [mode, run_ite]
  exact run_bind_ok (requireStack_ok room)

theorem returnFar_eq_ok (h : returnFar p n s = .ok dn t) : ∃ x c d u v w,
    readStack s.sp (s.opBytes p) s = .ok x u ∧ readStack (s.sp + BitVec.ofNat 32 (s.opBytes p)) 2 u = .ok c v ∧
    returnCode (BitVec.ofNat 16 c) v = .ok d w ∧
    returnTo p n s (BitVec.ofNat 32 x) (BitVec.ofNat 16 c) d w = .ok dn t := by
  cases room : inLimit s.ss s.sp (2 * s.opBytes p) with
  | false => cases (returnFar_noRoom mode room).symm.trans h
  | true =>
    rw [returnFar_eq mode room] at h
    obtain ⟨x, u, offset, rest⟩ := run_bind_eq_ok.mp h
    obtain ⟨c, v, code, rest⟩ := run_bind_eq_ok.mp rest
    obtain ⟨d, w, accepted, rest⟩ := run_bind_eq_ok.mp rest
    exact ⟨x, c, d, u, v, w, offset, code, accepted, rest⟩

end far

section result
variable {wide : Bool} {n : Nat} {csel nss : Word16} {d sd : Desc} {neip nesp : Word32} {s t t0 t4 : State} {level : BitVec 2}

/-- What is in force once the outer segments are (42_control_transfer.md R491). -/
theorem commitOuter_result (mode : t0.protectedMode = true) (h : commitOuter csel d nss sd wide nesp t0 = .ok () t) :
    t.protectedMode = true ∧ t.cs = segFrom csel d ∧ t.ss = segFrom nss sd ∧
      (wide = true ∨ t.ss.attr.db = false → t.sp = spOf t.ss.attr.db nesp) := by
  obtain ⟨a, a', t1, t2, t3, t4, probedCs, probedSs, markedCs, markedSs, rfl⟩ := commitOuter_eq_ok h
  have before := ((touches_probeAccessed _ _).accessed probedCs).trans
    (((touches_probeAccessed _ _).accessed probedSs).trans ((touches_commitAccessed _).accessed markedCs))
  have after := (touches_commitAccessed _).accessed markedSs
  have db : (t4.takeStack nss sd wide nesp).ss.attr.db = (descAttr sd).db := withAccessed_db _
  refine ⟨after.protectedMode.trans (before.protectedMode.trans mode), after.cs, rfl, fun h => ?_⟩
  rw [db] at h ⊢
  exact takeStack_sp h t4

theorem returnedOuter_sp (t : State) (n : Nat) (level : BitVec 2) (neip : Word32) :
    (t.returnedOuter n level neip).sp = spOf t.ss.attr.db (t.sp + BitVec.ofNat 32 n) := State.setSp_sp t _

/-- A data-segment register that is still valid may be used at the outer level (42_control_transfer.md R498). -/
theorem nullOuter_valid {g : SegState} (h : (nullOuter level g).valid = true) :
    conforming (nullOuter level g).attr = true ∨ level.toNat ≤ (nullOuter level g).attr.dpl.toNat := by
  unfold nullOuter at h ⊢
  split at h <;> rename_i drop
  · cases h
  · rw [if_neg drop]
    simp only [h, Bool.true_and, Bool.and_eq_true, decide_eq_true_eq, Bool.not_eq_true', not_and, Bool.not_eq_false] at drop
    exact (Nat.lt_or_ge _ _).elim (fun low => .inl (drop low)) .inr

theorem returnedOuter_segments (t : State) (n : Nat) (level : BitVec 2) (neip : Word32) (u : State)
    (hu : u = t.returnedOuter n level neip) : ∀ g ∈ [u.es, u.ds, u.fs, u.gs], g.valid = true →
      conforming g.attr = true ∨ level.toNat ≤ g.attr.dpl.toNat := by
  subst hu
  simp only [List.forall_mem_cons, List.not_mem_nil, false_implies, implies_true, and_true]
  exact ⟨nullOuter_valid, nullOuter_valid, nullOuter_valid, nullOuter_valid⟩

end result

section facts
variable {p : Prefixes} {n x c e k : Nat} {s t u v w y z : State} {d sd : Desc} {dn : Done}

/-- A return within a level that completed (42_control_transfer.md R491). -/
theorem returnWithin_result {b : Nat} {csel : Word16} {neip : Word32} (mode : w.protectedMode = true)
    (h : returnWithin (rpl csel) b n csel d neip w = .ok dn t) : dn = .normal ∧ t.eip = neip ∧ t.cs = segFrom csel d ∧
      t.cpl = rpl csel ∧ t.ss = w.ss ∧ t.sp = w.outerFrame b n := by
  obtain ⟨a, u, v, probed, marked, rfl, rfl⟩ := returnWithin_eq_ok h
  have before := (touches_probeAccessed _ _).accessed probed
  have after := (touches_commitAccessed _).accessed marked
  refine ⟨rfl, rfl, ?_, State.enterCode_cpl (after.protectedMode.trans (before.protectedMode.trans mode)),
    after.ss.trans before.ss, ?_⟩
  · show segFrom (withRpl csel (rpl csel)) d = _
    rw [withRpl_rpl]
  · show v.sp = _
    rw [after.sp, State.setSp_sp, before.ss, before.sp, State.outerFrame]

/-- A return to an outer level that completed (42_control_transfer.md R491, R498). -/
theorem returnOuter_result {wide : Bool} {csel : Word16} {neip : Word32} (mode : w.protectedMode = true)
    (h : returnOuter wide n csel d neip w = .ok dn t) : dn = .normal ∧ t.eip = neip ∧ t.cs = segFrom csel d ∧
      t.cpl = rpl csel ∧ rpl t.ss.sel = rpl csel ∧
      (∀ g ∈ [t.es, t.ds, t.fs, t.gs], g.valid = true → conforming g.attr = true ∨ (rpl csel).toNat ≤ g.attr.dpl.toNat) ∧
      (readStack (w.outerFrame (itemSize wide) n) (itemSize wide) w = .ok e y →
        readStack (w.outerFrame (itemSize wide) n + BitVec.ofNat 32 (itemSize wide)) 2 y = .ok k z →
        t.ss.sel = BitVec.ofNat 16 k ∧ (wide = true ∨ t.ss.attr.db = false →
          t.sp = spOf t.ss.attr.db (BitVec.ofNat 32 e + BitVec.ofNat 32 n))) := by
  obtain ⟨e', k', sd, y', z', t0, t5, pointer, segment, checked, taken, rfl, rfl⟩ := returnOuter_eq_ok h
  have before := ((touches_readStack _ _).accessed pointer).trans
    (((touches_readStack _ _).accessed segment).trans ((touches_checkSs _ _ _ _).accessed checked))
  obtain ⟨mode5, cs, ss, sp⟩ := commitOuter_result (before.protectedMode.trans mode) taken
  obtain ⟨-, -, ⟨level, -, -⟩, -⟩ := checkSs_eq_ok checked
  have cpl : (t5.returnedOuter n (rpl csel) neip).cpl = rpl csel := by
    rw [cpl_of_protectedMode (s := t5.returnedOuter n (rpl csel) neip) mode5]
    exact congrArg (fun g => rpl (SegState.sel g)) cs
  refine ⟨rfl, rfl, cs, cpl, ?_, returnedOuter_segments t5 n (rpl csel) neip _ rfl, fun pointer' segment' => ?_⟩
  · exact (congrArg (fun g => rpl (SegState.sel g)) ss).trans level
  · cases pointer.symm.trans pointer'
    cases segment.symm.trans segment'
    refine ⟨congrArg SegState.sel ss, fun h => ?_⟩
    rw [returnedOuter_sp, sp h, spOf_add]
    rfl

end facts

/-- Settles O23: the checks of a code segment and of a stack segment, the steps of either return, and what holds once it completes. -/
theorem farReturnProtected : Obligations.FarReturnProtected := by
  intro p n sel lvl xc ext s t u v w y z dn er x c e k d sd a a' t1 t2 t3 t4 b returned raises code stack
  refine ⟨returnCode_inner, fun outer => ?code, checkSs_null, fun notNull => ?stack, fun mode => ?steps, fun mode done => ?result⟩
  case code =>
    refine ⟨fun null => returnCode_error outer (fetchCode_null null), fun notNull =>
      ⟨fun stops => returnCode_error outer (fetchCode_error notNull stops),
        fun none => returnCode_error outer (fetchCode_none notNull none), fun found suits same => ?_⟩⟩
    replace same : suits ↔ SuitsReturn sel d := same
    rw [same]
    refine ⟨returnCode_unsuited outer notNull found, fun suits absent => ?_, fun suits present => ?_⟩
    · exact (returnCode_suited outer notNull found suits).trans (if_pos absent)
    · exact (returnCode_suited outer notNull found suits).trans (if_neg (by simp [present]))
  case stack =>
    refine ⟨checkSs_error notNull, checkSs_none notNull, fun found suits same => ?_⟩
    replace same : suits ↔ SuitsStack lvl sel d := same
    rw [same]
    exact ⟨checkSs_unsuited notNull found, checkSs_absent notNull found, checkSs_ok notNull found⟩
  case steps =>
    simp only [raises]
    refine ⟨returnFar_noRoom mode, fun room => ?_, fun room offset => ?_⟩
    all_goals rw [show returned = _ from returnFar_eq mode room]
    · exact run_bind_error
    rw [run_bind_ok offset]
    refine ⟨run_bind_error, fun code' => ?_⟩
    rw [run_bind_ok code']
    refine ⟨run_bind_error, fun accepted within => ?within, fun accepted outer => ?outer⟩
    all_goals rw [run_bind_ok accepted, returnTo]
    case within =>
      rw [if_pos within]
      refine ⟨returnWithin_beyond, returnWithin_error, fun inside probed marked => ?_⟩
      rw [returnWithin_ok inside probed marked, State.enterCode, ← within, withRpl_rpl]
      rfl
    case outer =>
      have same : Accessed s w := ((touches_readStack _ _).accessed offset).trans
        (((touches_readStack _ _).accessed code').trans ((touches_returnCode _).accessed accepted))
      intro top htop
      replace htop : top = w.outerFrame b n := by rw [htop, State.outerFrame, same.ss, same.sp]
      have size : itemSize (s.op32 p) = b := rfl
      subst htop
      rw [if_neg outer, ← same.ss]
      refine ⟨returnOuter_noRoom, fun room => ?_, fun room pointer => ?_⟩
      all_goals rw [returnOuter_eq room, size]
      · exact run_bind_error
      rw [run_bind_ok pointer]
      refine ⟨run_bind_error, fun segment => ?_⟩
      rw [run_bind_ok segment]
      refine ⟨run_bind_error, fun checked => ?_⟩
      rw [run_bind_ok checked]
      refine ⟨fun beyond => run_bind_error (checkTarget_no beyond), fun inside => ?_⟩
      rw [run_bind_ok (checkTarget_ok inside)]
      refine ⟨fun stops => run_bind_error (run_bind_error stops), fun probedCs =>
        ⟨fun stops => run_bind_error (commitOuter_stackError probedCs stops), fun probedSs markedCs segment' hcs markedSs => ?_⟩⟩
      subst hcs
      rw [run_bind_ok (commitOuter_ok probedCs probedSs markedCs markedSs)]
      exact ⟨State.returnedOuter _ n _ _, rfl, returnedOuter_reg t4 _, rfl⟩
  case result =>
    obtain ⟨x', c', d', u', v', w', offset', code', accepted', ends⟩ := returnFar_eq_ok mode done
    have same : Accessed s v' := ((touches_readStack _ _).accessed offset').trans ((touches_readStack _ _).accessed code')
    have outer := cpl_le_of_returnCode accepted'
    rw [same.cpl] at outer
    replace same := same.trans ((touches_returnCode _).accessed accepted')
    have modeW := same.protectedMode.trans mode
    have frame : ∀ b, w'.outerFrame b n = spOf s.ss.attr.db (s.sp + BitVec.ofNat 32 (2 * b + n)) := fun b => by
      rw [State.outerFrame, same.ss, same.sp]
    rw [returnTo] at ends
    split at ends <;> rename_i within
    · rw [← within] at ends
      obtain ⟨hdn, eip, cs, cpl, ss, sp⟩ := returnWithin_result modeW ends
      rw [cpl, within]
      refine ⟨le_rfl, fun other => absurd rfl other, fun offset code accepted => ?_⟩
      cases offset'.symm.trans offset
      cases code'.symm.trans code
      cases accepted'.symm.trans accepted
      exact ⟨hdn, eip, cs, fun _ => ⟨ss.trans same.ss, sp.trans (frame _)⟩, fun other => absurd rfl other⟩
    · obtain ⟨hdn, eip, cs, cpl, level, segments, taken⟩ := returnOuter_result (e := e) (k := k) (y := y) (z := z) modeW ends
      rw [cpl]
      refine ⟨outer, fun _ => ⟨level, segments⟩, fun offset code accepted => ?_⟩
      cases offset'.symm.trans offset
      cases code'.symm.trans code
      cases accepted'.symm.trans accepted
      refine ⟨hdn, eip, cs, fun other => absurd other within, fun _ top htop => ?_⟩
      rw [htop, ← frame]
      exact taken

end Sys2Proof.Machine
end

section
/-! The frame of a stack switch while paging is off (42_control_transfer.md R452, R478 to R480; 60_exceptions.md R800, R811): what the
checks before it leave alone, the items as they are stored, and where they stand. -/

namespace Sys2Proof.Machine

open Sys2Proof

/-- Paging is off and there is memory everywhere. -/
structure State.Flat (s : State) : Prop where
  pg : s.pg = false
  map : s.params.physMap = []

theorem Accessed.flat {s t : State} (h : Accessed s t) (flat : s.Flat) : t.Flat :=
  ⟨h.pg.trans flat.pg, by rw [h.params, flat.map]⟩

/-- The operation changes nothing where it completes with paging off and memory everywhere. -/
def Calm {α : Type} (m : M α) : Prop := ∀ ⦃s a t⦄, s.Flat → m s = .ok a t → t = s

section calm
variable {α β : Type}

theorem calm_pure (a : α) : Calm (pure a : M α) := fun _ _ _ _ h => by cases h; rfl
theorem calm_get : Calm (get : M State) := fun _ _ _ _ h => by cases h; rfl
theorem calm_throw (e : Err) : Calm (throw e : M α) := fun _ _ _ _ h => by cases h

theorem calm_bind {m : M α} {k : α → M β} (hm : Calm m) (hk : ∀ a, Calm (k a)) : Calm (m >>= k) := by
  intro s b t flat h
  obtain ⟨a, u, first, rest⟩ := run_bind_eq_ok.mp h
  cases hm flat first
  exact hk a flat rest

theorem calm_ite {c : Prop} [Decidable c] {x y : M α} (hx : Calm x) (hy : Calm y) : Calm (if c then x else y) := by
  split <;> assumption

theorem calm_raiseSel (x : Exc) (sel : Word16) (ext : Bool) : Calm (raiseSel x sel ext : M α) := calm_throw _

theorem calm_linRead (la : Word32) (n : Nat) (acc : Acc) : Calm (linRead la n acc) := fun _ _ _ flat h => by
  cases (linRead_unpaged flat.pg flat.map la n acc).symm.trans h
  rfl

theorem calm_tableRead (base : Word32) (limit : Nat) (ok : Bool) (index : Nat) : Calm (tableRead base limit ok index) :=
  calm_ite (calm_pure _) (calm_bind (calm_linRead _ _ _) fun _ => calm_pure _)

theorem calm_needDescriptor (sel : Word16) (x : Exc) (ext : Bool) : Calm (needDescriptor sel x ext) := by
  refine calm_bind (calm_bind calm_get fun s => calm_ite (calm_tableRead _ _ _ _) (calm_tableRead _ _ _ _)) fun d => ?_
  cases d with
  | none => exact calm_raiseSel _ _ _
  | some d => exact calm_pure d

theorem calm_checkSs (sel : Word16) (lvl : BitVec 2) (x : Exc) (ext : Bool) : Calm (checkSs sel lvl x ext) :=
  calm_ite (calm_raiseSel _ _ _) (calm_bind (calm_needDescriptor _ _ _) fun d => calm_ite (calm_raiseSel _ _ _)
    (calm_ite (calm_raiseSel _ _ _) (calm_ite (calm_raiseSel _ _ _) (calm_ite (calm_raiseSel _ _ _) (calm_pure d)))))

theorem calm_tssStack (lvl : BitVec 2) (ext : Bool) : Calm (tssStack lvl ext) := by
  have reads : ∀ a b c d : Nat, ∀ s : State, Calm (do
      let esp ← linRead (s.tr.base + BitVec.ofNat 32 a) b Acc.supRead
      let ss ← linRead (s.tr.base + BitVec.ofNat 32 c) d Acc.supRead
      pure (BitVec.ofNat 16 ss, BitVec.ofNat 32 esp)) := fun _ _ _ _ _ =>
    calm_bind (calm_linRead _ _ _) fun _ => calm_bind (calm_linRead _ _ _) fun _ => calm_pure _
  exact calm_bind calm_get fun s => calm_ite (calm_raiseSel _ _ _)
    (calm_ite (calm_ite (calm_raiseSel _ _ _) (reads _ _ _ _ s)) (calm_ite (calm_raiseSel _ _ _) (reads _ _ _ _ s)))

theorem calm_segCheck (seg : SegState) (isSs : Bool) (off : Word32) (n : Nat) (write : Bool) :
    Calm (segCheck seg isSs off n write) := calm_bind calm_get fun _ => calm_ite (calm_pure _) (calm_throw _)

theorem calm_alignCheck (la : Word32) (align : Nat) (user : Bool) : Calm (alignCheck la align user) :=
  calm_bind calm_get fun _ => calm_ite (calm_throw _) (calm_pure _)

end calm

section slots
variable {seg : SegState} {off : Word32} {b n align : Nat} {isSs user : Bool} {acc : Acc} {s t : State}

/-- Where an item at an offset stands while paging is off. -/
def SegState.slotAt (seg : SegState) (b : Nat) (off : Word32) : Slot := ⟨seg.base + off, linearSpan (seg.base + off) b⟩

/-- What a check that completes answers while paging is off. -/
theorem probe_flat {x : Slot} (flat : s.Flat) (h : probe seg isSs off n align acc s = .ok x t) :
    t = s ∧ x = seg.slotAt n off := by
  obtain ⟨_, u, checked, rest⟩ := run_bind_eq_ok.mp h
  cases calm_segCheck _ _ _ _ _ flat checked
  obtain ⟨_, v, aligned, rest⟩ := run_bind_eq_ok.mp rest
  cases calm_alignCheck _ _ _ flat aligned
  rw [run_bind_ok (linAddrs_unpaged flat.pg _ _ _)] at rest
  cases rest
  exact ⟨rfl, rfl⟩

theorem probePushes_flat {offs : List Word32} {xs : List Slot} (flat : s.Flat)
    (h : probePushes seg b user offs s = .ok xs t) : t = s ∧ xs = offs.map (seg.slotAt b) := by
  induction offs generalizing xs t with
  | nil => cases h; exact ⟨rfl, rfl⟩
  | cons off offs ih =>
    obtain ⟨x, u, first, rest⟩ := run_bind_eq_ok.mp h
    obtain ⟨rfl, rfl⟩ := probe_flat flat first
    obtain ⟨ys, v, others, rest⟩ := run_bind_eq_ok.mp rest
    obtain ⟨same, hys⟩ := ih others
    cases rest
    exact ⟨same, by rw [hys, List.map_cons]⟩

theorem quietSlots_flat (flat : s.Flat) (seg : SegState) (b : Nat) (user : Bool) (offs : List Word32) :
    quietSlots seg.base b user offs s = .ok (offs.map (seg.slotAt b)) s := by
  induction offs with
  | nil => rfl
  | cons off offs ih =>
    rw [quietSlots, run_bind_ok (linAddrs_unpaged flat.pg _ _ _), run_bind_ok ih]
    rfl

end slots

section storing
variable {s t : State} {xs : List Slot} {vs : List Nat} {m : List Host.Cell}

/-- Memory once values are stored in slots, one after another. -/
def storeSlots (m : List Host.Cell) : List Slot → List Nat → List Host.Cell
  | [], _ => m
  | _ :: _, [] => m
  | x :: xs, v :: vs => storeSlots (setCells m x.addrs (bytesOf x.addrs.length v)) xs vs

theorem writeSlots_flat (flat : s.Flat) (h : writeSlots xs vs s = .ok () t) : t.mem = storeSlots s.mem xs vs := by
  induction xs generalizing s vs with
  | nil => cases h; rfl
  | cons x xs ih =>
    cases vs with
    | nil => cases h; rfl
    | cons v vs =>
      rw [writeSlots, run_bind_ok (slotWrite_ok (Slot.isRam_of_empty flat.map x) v)] at h
      refine ih ?_ h
      exact ⟨flat.pg, flat.map⟩

/-- The pushes of a delivery store what those of a call store. -/
theorem writeSlotsQuiet_flat (flat : s.Flat) (h : writeSlotsQuiet xs vs s = .ok () t) : t.mem = storeSlots s.mem xs vs := by
  induction xs generalizing s vs with
  | nil => cases h; rfl
  | cons x xs ih =>
    cases vs with
    | nil => cases h; rfl
    | cons v vs =>
      rw [writeSlotsQuiet, run_bind_ok (physWriteAt_ram (allRam_of_empty flat.map _) v)] at h
      refine ih ?_ h
      exact ⟨flat.pg, flat.map⟩

theorem cellByte_storeSlots_other {a : Nat} (ha : a ∉ xs.flatMap Slot.addrs) :
    cellByte (storeSlots m xs vs) a = cellByte m a := by
  induction xs generalizing m vs with
  | nil => rfl
  | cons x xs ih =>
    cases vs with
    | nil => rfl
    | cons v vs =>
      rw [List.flatMap_cons, List.mem_append, not_or] at ha
      rw [storeSlots, ih ha.2, cellByte_setCells_other _ _ _ _ ha.1]

/-- Values stored in slots that do not overlap all stand there (20_memory.md R120). -/
theorem ofBytes_storeSlots (apart : xs.Pairwise fun x y => x.addrs.Disjoint y.addrs) (each : ∀ x ∈ xs, x.addrs.Nodup)
    (wf : Memory.wf m = true) {k v : Nat} {x : Slot} (hx : xs[k]? = some x) (hv : vs[k]? = some v) :
    ofBytes (x.addrs.map (cellByte (storeSlots m xs vs))) = v % 256 ^ x.addrs.length := by
  induction xs generalizing m vs k with
  | nil => simp at hx
  | cons y ys ih =>
    cases vs with
    | nil => simp at hv
    | cons w ws =>
      obtain ⟨first, rest⟩ := List.pairwise_cons.mp apart
      obtain ⟨one, others⟩ := List.forall_mem_cons.mp each
      cases k with
      | succ k => exact ih rest others (wf_setCells _ _ _ wf) (by simpa using hx) (by simpa using hv)
      | zero =>
        obtain rfl : y = x := by simpa using hx
        obtain rfl : w = v := by simpa using hv
        have kept : ∀ a ∈ y.addrs, cellByte (storeSlots (setCells m y.addrs (bytesOf y.addrs.length w)) ys ws) a =
            cellByte (setCells m y.addrs (bytesOf y.addrs.length w)) a := fun a ha => by
          refine cellByte_storeSlots_other fun later => ?_
          obtain ⟨z, hz, haz⟩ := List.mem_flatMap.mp later
          exact first z hz ha haz
        rw [storeSlots, List.map_congr_left kept, map_cellByte_setCells one wf (bytesOf_length _ _), ofBytes_bytesOf]

end storing

section frame
variable {big : Bool} {b n : Nat} {sp base : Word32}

@[simp] theorem spOf_spOf (big : Bool) (x : Word32) : spOf big (spOf big x) = spOf big x := by
  cases big with
  | true => rfl
  | false => simpa using spOf_add false x 0

theorem spOf_toNat (big : Bool) (x : Word32) : (spOf big x).toNat = if big then x.toNat else x.toNat % 2 ^ 16 := by
  cases big with
  | true => rfl
  | false =>
    simp only [spOf, lo16, Bool.false_eq_true, if_false, BitVec.toNat_setWidth, BitVec.extractLsb'_toNat]
    omega

/-- Each push is at its own wrapped offset below the stack pointer (42_control_transfer.md R452). -/
theorem mem_pushOffsets {off : Word32} (h : off ∈ pushOffsets big sp b n) :
    ∃ j < n, off = spOf big (sp - BitVec.ofNat 32 (b * (j + 1))) := by
  induction n generalizing sp with
  | zero => simp [pushOffsets] at h
  | succ n ih =>
    rcases List.mem_cons.mp h with rfl | later
    · exact ⟨0, by omega, by simp⟩
    · obtain ⟨j, hj, rfl⟩ := ih later
      refine ⟨j + 1, by omega, ?_⟩
      rw [BitVec.sub_eq_add_neg, spOf_add, Nat.mul_succ b (j + 1), Nat.add_comm, BitVec.ofNat_add]
      congr 1
      ring

/-- A push and a later one do not overlap: their offsets differ by at least an item and by less than the stack (R452). -/
theorem disjoint_pushes {c : Nat} (hb : b ≤ 4) (hbc : b ≤ c) (hc : c ≤ 140) (y : Word32) :
    (linearSpan (base + spOf big y) b).Disjoint (linearSpan (base + spOf big (spOf big y - BitVec.ofNat 32 c)) b) := by
  intro a first later
  obtain ⟨i, hi, ha⟩ := mem_linearSpan.mp first
  obtain ⟨j, hj, ha'⟩ := mem_linearSpan.mp later
  rw [BitVec.toNat_add, spOf_toNat] at ha
  rw [BitVec.toNat_add, spOf_toNat, BitVec.toNat_sub, spOf_toNat, BitVec.toNat_ofNat] at ha'
  have hbase := base.isLt
  have hy := y.isLt
  cases big <;> simp only [if_true, if_false, Bool.false_eq_true] at ha ha' <;> omega

theorem pairwise_pushOffsets (hb : b ≤ 4) (hn : b * n ≤ 140) : (pushOffsets big sp b n).Pairwise fun off off' =>
    (linearSpan (base + off) b).Disjoint (linearSpan (base + off') b) := by
  induction n generalizing sp with
  | zero => exact .nil
  | succ n ih =>
    rw [Nat.mul_succ] at hn
    refine List.pairwise_cons.mpr ⟨fun off later => ?_, ih (by omega)⟩
    obtain ⟨j, hj, rfl⟩ := mem_pushOffsets later
    have le : b * (j + 1) ≤ b * n := Nat.mul_le_mul_left b hj
    exact disjoint_pushes hb (by rw [Nat.mul_succ]; omega) (by omega) _

/-- Items stored push by push stand on the stack, and nothing else is written (42_control_transfer.md R452). -/
theorem frame_of_storeSlots {s t : State} {seg : SegState} {esp : Word32} {items : List Nat} (hb : b ≤ 4)
    (few : b * items.length ≤ 140) (wf : Memory.wf s.mem = true) (stored : t.mem = storeSlots s.mem
      ((pushOffsets seg.attr.db (spOf seg.attr.db esp) b items.length).map (seg.slotAt b)) items) :
    frameStands t seg esp b items ∧ sameBytes s t (frameBytes seg esp b items.length) := by
  constructor
  · intro k off v hoff hv
    have apart := pairwise_pushOffsets (big := seg.attr.db) (sp := spOf seg.attr.db esp) (base := seg.base) hb few
    have hslot : ((pushOffsets seg.attr.db (spOf seg.attr.db esp) b items.length).map (seg.slotAt b))[k]? =
        some (seg.slotAt b off) := by rw [List.getElem?_map, hoff]; rfl
    have each : ∀ x ∈ (pushOffsets seg.attr.db (spOf seg.attr.db esp) b items.length).map (seg.slotAt b), x.addrs.Nodup := by
      intro x hx
      obtain ⟨off, -, rfl⟩ := List.mem_map.mp hx
      exact nodup_linearSpan (by omega)
    have stands := ofBytes_storeSlots (List.pairwise_map (f := seg.slotAt b).mpr apart) each wf hslot hv
    rwa [← stored, SegState.slotAt, linearSpan_length] at stands
  · intro a ha
    rw [State.byteAt, State.byteAt, stored]
    refine cellByte_storeSlots_other ?_
    rwa [List.flatMap_map]

end frame

section params
variable {b k v : Nat} {off sp : Word32} {s t : State} {vs : List Nat}

theorem readStack_flat (flat : s.Flat) (h : readStack off b s = .ok v t) :
    v = ofBytes ((linearSpan (s.ss.base + off) b).map s.byteAt) ∧ t.mem = s.mem := by
  obtain ⟨x, u, probed, -⟩ := run_bind_eq_ok.mp h
  have found := probed
  rw [memProbe_eq] at probed
  obtain ⟨rfl, rfl⟩ := probe_flat flat probed
  cases (memRead_ram found (allRam_of_empty flat.map _)).symm.trans h
  exact ⟨rfl, rfl⟩

/-- The parameter of a call at a place from the stack pointer up, while paging is off (42_control_transfer.md R480). -/
def State.param (s : State) (b : Nat) (sp : Word32) (i : Nat) : Nat :=
  ofBytes ((linearSpan (s.ss.base + spOf s.ss.attr.db (sp + BitVec.ofNat 32 (b * i))) b).map s.byteAt)

/-- The parameters are read from the stack pointer up, and the memory stays as it is. -/
theorem readParams_flat (flat : s.Flat) (h : readParams b (spOf s.ss.attr.db sp) k s = .ok vs t) :
    vs = (List.range k).map (s.param b sp) ∧ t.mem = s.mem := by
  induction k generalizing s t sp vs with
  | zero => cases h; exact ⟨rfl, rfl⟩
  | succ k ih =>
    obtain ⟨v, u, first, rest⟩ := run_bind_eq_ok.mp h
    obtain ⟨hv, mem⟩ := readStack_flat flat first
    have same := (touches_readStack _ _).accessed first
    rw [run_bind_ok (run_get u)] at rest
    obtain ⟨ws, w, others, rest⟩ := run_bind_eq_ok.mp rest
    obtain ⟨hws, mem'⟩ := ih (same.flat flat) others
    cases rest
    refine ⟨?_, mem'.trans mem⟩
    have next : ∀ i, u.param b (spOf s.ss.attr.db sp + BitVec.ofNat 32 b) i = s.param b sp (i + 1) := fun i => by
      have bytes : u.byteAt = s.byteAt := funext fun a => by rw [State.byteAt, State.byteAt, mem]
      rw [State.param, State.param, same.ss, bytes, BitVec.add_assoc, spOf_add, ← BitVec.ofNat_add, Nat.mul_succ, Nat.add_comm b]
    have top : s.param b sp 0 = v := by rw [hv, State.param, Nat.mul_zero, BitVec.add_zero]
    rw [hws, List.range_succ_eq_map, List.map_cons, List.map_map, top]
    exact congrArg (v :: ·) (List.map_congr_left fun i _ => next i)

end params

section delivery
variable {g cd sd : Desc} {lvl : BitVec 2} {ext : Bool} {items : List Nat} {nss : Word16} {nesp : Word32} {s t u v : State}

theorem gateItem_le (g : Desc) : gateItem g ≤ 4 := by unfold gateItem; split <;> omega

@[simp] theorem spOf_spAfter (big : Bool) (esp : Word32) (b n : Nat) : spOf big (spAfter big esp b n) = spAfter big esp b n :=
  spOf_spOf _ _

/-- A delivery on a stack named by the TSS that completes, where neither segment is marked: the stack, the handler, and the memory
that holds the frame (60_exceptions.md R800). -/
theorem deliverNewStack_flat (flat : s.Flat) (unmarkedSs : marksAccessed s.params sd = false)
    (unmarkedCs : marksAccessed s.params cd = false) (stack : tssStack lvl ext s = .ok (nss, nesp) u)
    (checked : checkSs nss lvl .ts ext u = .ok sd v) (h : deliverNewStack g cd lvl ext items s = .ok () t) :
    t.ss = segFrom nss sd ∧ t.sp = spAfter t.ss.attr.db nesp (gateItem g) items.length ∧
      t.cs = segFrom (withRpl (gateSelector g) lvl) cd ∧ t.eip = gateOffset g ∧
      t.mem = storeSlots s.mem ((pushOffsets t.ss.attr.db (spOf t.ss.attr.db nesp) (gateItem g) items.length).map
        (t.ss.slotAt (gateItem g))) items := by
  rw [deliverNewStack, run_bind_ok stack] at h
  cases calm_tssStack _ _ flat stack
  replace h := (run_bind_ok checked).symm.trans h
  cases calm_checkSs _ _ _ _ flat checked
  split at h
  · cases h
  obtain ⟨-, h⟩ := checkTarget_then_eq_ok h
  rw [run_bind_ok (quietSlots_flat flat _ _ _ _), run_bind_ok (probeAccessed_unmarked unmarkedSs),
    run_bind_ok (probeAccessed_unmarked unmarkedCs), run_bind_ok (commitAccessed_nil s)] at h
  obtain ⟨_, w, written, h⟩ := run_bind_eq_ok.mp h
  have stored := writeSlotsQuiet_flat flat written
  cases h
  exact ⟨rfl, (State.setSp_sp { w with ss := segFrom nss sd } _).trans (spOf_spAfter _ _ _ _), rfl, rfl, stored⟩

end delivery

section call
variable {g cd sd : Desc} {csel nss : Word16} {nesp next : Word32} {params : List Nat} {s t u v w : State} {dn : Done}

theorem gateCount_lt (g : Desc) : gateCount g < 32 := (g.hi.extractLsb' 0 5).isLt

/-- An inter-level call that completes, where neither segment is marked: the stack, the code segment, and the memory that holds the
frame (42_control_transfer.md R480). -/
theorem interLevelCall_flat (flat : s.Flat) (unmarkedSs : marksAccessed s.params sd = false)
    (unmarkedCs : marksAccessed s.params cd = false) (stack : tssStack (descDpl cd) false s = .ok (nss, nesp) u)
    (checked : checkSs nss (descDpl cd) .ts false u = .ok sd v) (read : readParams (gateItem g) s.sp (gateCount g) s = .ok params w)
    (h : interLevelCall g csel cd next s = .ok dn t) :
    t.ss = segFrom nss sd ∧ t.sp = spAfter t.ss.attr.db nesp (gateItem g) (4 + gateCount g) ∧
      t.cs = segFrom (withRpl csel (descDpl cd)) cd ∧ t.eip = gateOffset g ∧
      t.mem = storeSlots s.mem ((pushOffsets t.ss.attr.db (spOf t.ss.attr.db nesp) (gateItem g) (4 + gateCount g)).map
        (t.ss.slotAt (gateItem g))) ([s.ss.sel.toNat, (s.reg .esp).toNat] ++ params.reverse ++ [s.cs.sel.toNat, next.toNat]) := by
  rw [interLevelCall_onStack stack checked] at h
  cases calm_tssStack _ _ flat stack
  cases calm_checkSs _ _ _ _ flat checked
  obtain ⟨params', xs, a, a', w', y, z, t0, t1, t2, t3, read', pushes, probedSs, probedCs, markedSs, written, markedCs, rfl,
    rfl⟩ := callOnStack_eq_ok h
  cases read.symm.trans read'
  have same := (touches_readParams _ _ _).accessed read
  obtain ⟨-, mem⟩ := readParams_flat flat (sp := s.sp) (by rwa [State.sp, spOf_spOf])
  obtain ⟨rfl, rfl⟩ := probePushes_flat (same.flat flat) pushes
  rw [← same.params] at unmarkedSs unmarkedCs
  cases (probeAccessed_unmarked unmarkedSs).symm.trans probedSs
  cases (probeAccessed_unmarked unmarkedCs).symm.trans probedCs
  cases markedSs
  cases markedCs
  have stored := writeSlots_flat (same.flat flat) written
  rw [mem] at stored
  exact ⟨rfl, (State.setSp_sp { t2 with ss := segFrom nss sd } _).trans (spOf_spAfter _ _ _ _), rfl, rfl, stored⟩

end call

section gate
variable {g cd : Desc} {ext : Bool} {ret img : Word32} {code : Option Word32} {s u v : State}

theorem frameTail_eq (s : State) (img ret : Word32) (code : Option Word32) :
    frameTail s img ret code = [img.toNat, s.cs.sel.toNat, ret.toNat] ++ code.toList.map BitVec.toNat := by
  cases code <;> rfl

/-- A delivery to a nonconforming segment of an inner level takes the stack of that level (60_exceptions.md R800). -/
theorem deliverGate_inner (fetched : fetchCode (gateSelector g) ext s = .ok cd u) (present : descP cd = true)
    (vm : s.vm = false) (nonconforming : conforming (descAttr cd) = false) (inner : (descDpl cd).toNat < s.cpl.toNat) :
    deliverGate g ext ret img code s = deliverNewStack g cd (descDpl cd) ext
      ([s.ss.sel.toNat, (s.reg .esp).toNat] ++ frameTail s img ret code) u := by
  rw [deliverGate, run_bind_ok (run_get s), run_bind_ok fetched]
  simp [present, vm, nonconforming, inner, Nat.not_lt.mpr inner.le]

/-- A delivery from virtual-8086 mode takes the stack of level 0, and leaves the data-segment registers null (60_exceptions.md R811). -/
theorem deliverGate_v86 (fetched : fetchCode (gateSelector g) ext s = .ok cd u) (present : descP cd = true)
    (vm : s.vm = true) (wide : gate32 g = true) (nonconforming : conforming (descAttr cd) = false) (level0 : descDpl cd = 0)
    (delivered : deliverNewStack g cd 0 ext ([s.gs.sel.toNat, s.fs.sel.toNat, s.ds.sel.toNat, s.es.sel.toNat,
      s.ss.sel.toNat, (s.reg .esp).toNat] ++ frameTail s img ret code) u = .ok () v) :
    deliverGate g ext ret img code s =
      .ok () { v with es := nullSeg v.es, ds := nullSeg v.ds, fs := nullSeg v.fs, gs := nullSeg v.gs } := by
  rw [deliverGate, run_bind_ok (run_get s), run_bind_ok fetched]
  simp only [present, vm, wide, nonconforming, level0, Bool.not_true, Bool.false_eq_true, Bool.or_false, ne_eq, not_true,
    decide_false, if_false, if_true]
  exact run_bind_ok delivered

end gate

/-- Settles O43: the checks before a frame is pushed change nothing, and the frame is stored push by push. -/
theorem stackSwitchFrame : Obligations.StackSwitchFrame := by
  intro g cd sd csel lvl ext ret img nesp nss code items params dn s t u v w pg map wf unmarkedSs
  have flat : s.Flat := ⟨pg, map⟩
  have small := gateItem_le g
  refine ⟨fun fetched present _ => ⟨fun vm nonconforming inner => ?inner,
    fun vm wide nonconforming level0 delivered => ?v86⟩, fun few unmarkedCs stack checked delivered => ?delivery,
    fun unmarkedCs stack checked read called => ?call⟩
  case inner => rw [deliverGate_inner fetched present vm nonconforming inner, frameTail_eq]; rfl
  case v86 => exact deliverGate_v86 fetched present vm wide nonconforming level0 (by rw [frameTail_eq]; exact delivered)
  case delivery =>
    obtain ⟨ss, sp, cs, eip, mem⟩ := deliverNewStack_flat flat unmarkedSs unmarkedCs stack checked delivered
    exact ⟨ss, sp, cs, eip, frame_of_storeSlots small (Nat.mul_le_mul small few |>.trans (by decide)) wf mem⟩
  case call =>
    obtain ⟨ss, sp, cs, eip, mem⟩ := interLevelCall_flat flat unmarkedSs unmarkedCs stack checked read called
    obtain ⟨hparams, -⟩ := readParams_flat (sp := s.sp) flat (by rwa [State.sp, spOf_spOf])
    have count : params.length = gateCount g := by rw [hparams, List.length_map, List.length_range]
    have frame : ([s.ss.sel.toNat, (s.reg .esp).toNat] ++ params.reverse ++ [s.cs.sel.toNat, ret.toNat]).length =
        4 + gateCount g := by simp [count]; omega
    have few : gateItem g * (4 + gateCount g) ≤ 140 :=
      (Nat.mul_le_mul small (Nat.add_le_add_left (Nat.le_of_lt_succ (gateCount_lt g)) 4)).trans (by decide)
    rw [← frame] at mem few sp ⊢
    exact ⟨count, fun k hk => by simp [hparams, hk, State.param], ss, sp, cs, eip, frame_of_storeSlots small few wf mem⟩

end Sys2Proof.Machine
end

section
/-! MOV, POP and PUSH of segment registers, and the far pointers LES, LDS, LSS, LFS and LGS load (42_control_transfer.md R463 to
R467). -/

namespace Sys2Proof.Machine

open Sys2Proof

section start
variable {p : Prefixes} {s v u : State} {e : Err}

@[simp] theorem State.begin_sp (s : State) : s.begin.sp = s.sp := by simp [State.sp]

@[simp] theorem State.begin_opBytes (s : State) (p : Prefixes) : s.begin.opBytes p = s.opBytes p := by simp [State.opBytes]

/-- What the operation of an instruction raises is the instruction's. -/
theorem runInstr_plain_stops {α : Type} {m : M α} {k : α → M Done} (plain : Prefixes.plain p = true)
    (h : m s.begin = .error e u) : runInstr (do plainPrefixes p; let a ← m; k a) s = failed s e u :=
  (runInstr_plain plain).trans (runInstr_stops h)

/-- An instruction whose operation completes, and which goes on to the next. -/
theorem runInstr_plain_retire {m : M Unit} {n : Nat} (plain : Prefixes.plain p = true) (h : m s.begin = .ok () u) :
    runInstr (do plainPrefixes p; m; advance p n) s = .next (u.retire p n) :=
  (runInstr_plain plain).trans (runInstr_retire (run_bind_ok h))

end start

section stack
variable {p : Prefixes} {r : SegReg} {b n : Nat} {x : Nat} {slot : Slot} {s v u : State} {e : Err}

theorem popSeg_unread (stops : readStack s.sp (s.opBytes p) s = .error e v) : popSeg p r s = .error e v := by
  rw [popSeg, run_bind_ok (run_get s), run_bind_error stops]

/-- Once the item is read, what is left of a POP is the load, then the move of the stack pointer (42_control_transfer.md R465). -/
theorem popSeg_read (read : readStack s.sp (s.opBytes p) s = .ok x v) : popSeg p r s = (do
    loadSeg r (BitVec.ofNat 16 x)
    modify fun t : State => t.setSp (t.sp + BitVec.ofNat 32 (s.opBytes p)) : M Unit) v := by
  rw [popSeg, run_bind_ok (run_get s), run_bind_ok read]

theorem popSeg_unloaded (read : readStack s.sp (s.opBytes p) s = .ok x v)
    (stops : loadSeg r (BitVec.ofNat 16 x) v = .error e u) : popSeg p r s = .error e u :=
  (popSeg_read read).trans (run_bind_error stops)

theorem popSeg_ok (read : readStack s.sp (s.opBytes p) s = .ok x v) (loaded : loadSeg r (BitVec.ofNat 16 x) v = .ok () u) :
    popSeg p r s = .ok () (u.setSp (u.sp + BitVec.ofNat 32 (s.opBytes p))) :=
  (popSeg_read read).trans (run_bind_ok loaded)

theorem push_stops (stops : memProbe .ss (spAfter s.ss.attr.db (s.reg .esp) b 1) b b true s = .error e u) (val : Nat) :
    push b val s = .error e u := by
  rw [push, run_bind_ok (run_get s), run_bind_error (memWrite_error stops val)]

/-- A checked push stores its item, and the stack pointer is at it (42_control_transfer.md R452). -/
theorem push_ok (checked : memProbe .ss (spAfter s.ss.attr.db (s.reg .esp) b 1) b b true s = .ok slot u)
    (ram : slot.isRam u = true) (val : Nat) :
    push b val s = .ok () (State.setSp (u.stored slot val) (spAfter s.ss.attr.db (s.reg .esp) b 1)) := by
  rw [push, run_bind_ok (run_get s), run_bind_ok (memWrite_ram checked ram val)]
  rfl

theorem pushSeg_eq (p : Prefixes) (r : SegReg) (s : State) : pushSeg p r s = push (s.opBytes p) (s.seg r).sel.toNat s := by
  rw [pushSeg, run_bind_ok (run_get s)]

end stack

section move
variable {p : Prefixes} {c : BitVec 3} {rm : Rm} {r : SegReg} {sel : Word16} {s v u : State} {e : Err}

/-- MOV to a segment register but CS (42_control_transfer.md R463). -/
theorem exec_movToSeg (named : SegReg.ofCode? c = some r) (free : r ≠ .cs) (s : State) :
    exec (.movToSeg p c rm) s = runInstr (do
      plainPrefixes p
      let sel ← readRm16 p rm
      loadSeg r sel
      if r = .ss then modify fun t : State => { t with inhibitSs := true } else pure ()
      advance p (1 + rm.size)) s := by
  change execMovToSeg p c rm s = _
  rw [execMovToSeg, named]
  simp only [if_neg free]

theorem movToSeg_unread (plain : Prefixes.plain p = true) (named : SegReg.ofCode? c = some r) (free : r ≠ .cs)
    (stops : readRm16 p rm s.begin = .error e v) : exec (.movToSeg p c rm) s = failed s e v :=
  (exec_movToSeg named free s).trans (runInstr_plain_stops plain stops)

theorem movToSeg_unloaded (plain : Prefixes.plain p = true) (named : SegReg.ofCode? c = some r) (free : r ≠ .cs)
    (read : readRm16 p rm s.begin = .ok sel v) (stops : loadSeg r sel v = .error e u) :
    exec (.movToSeg p c rm) s = failed s e u :=
  (exec_movToSeg named free s).trans ((runInstr_plain plain).trans (runInstr_error (by
    rw [run_bind_ok read, run_bind_error stops])))

/-- After a load of SS the next boundary is held (45_interrupt_instructions.md R650). -/
theorem movToSeg_ok (plain : Prefixes.plain p = true) (named : SegReg.ofCode? c = some r) (free : r ≠ .cs)
    (read : readRm16 p rm s.begin = .ok sel v) (loaded : loadSeg r sel v = .ok () u) : exec (.movToSeg p c rm) s =
      .next (State.retire { u with inhibitSs := u.inhibitSs || decide (r = .ss) } p (1 + rm.size)) := by
  refine (exec_movToSeg named free s).trans ((runInstr_plain plain).trans (runInstr_retire ?_))
  rw [run_bind_ok read, run_bind_ok loaded]
  by_cases stack : r = .ss
  · simp [stack]
  · simp [stack]

theorem movToSeg_undefined (plain : Prefixes.plain p = true) (unnamed : SegReg.ofCode? c = none ∨ SegReg.ofCode? c = some .cs) :
    exec (.movToSeg p c rm) s = raised s s.begin .ud none := by
  change execMovToSeg p c rm s = _
  rcases unnamed with h | h <;> rw [execMovToSeg, h, runInstr_plain plain] <;> exact runInstr_error rfl

end move

section pop
variable {p : Prefixes} {i : Instr × SegReg} {j : Instr × SegReg × Nat} {s v u : State} {x : Nat} {e : Err}

/-- Every POP of a segment register begins with the pop. -/
theorem exec_pop (hi : i ∈ [(Instr.popEs p, SegReg.es), (.popSs p, .ss), (.popDs p, .ds), (.popFs p, .fs), (.popGs p, .gs)])
    (s : State) : ∃ k : Unit → M Done, exec i.1 s = runInstr (do plainPrefixes p; let a ← popSeg p i.2; k a) s := by
  fin_cases hi <;> exact ⟨_, rfl⟩

/-- A POP of ES, DS, FS or GS is the pop. -/
theorem exec_popData (hj : j ∈ [(Instr.popEs p, SegReg.es, 1), (.popDs p, .ds, 1), (.popFs p, .fs, 2), (.popGs p, .gs, 2)])
    (s : State) : exec j.1 s = runInstr (do plainPrefixes p; popSeg p j.2.1; advance p j.2.2) s := by
  fin_cases hj <;> rfl

theorem popSs_ok (plain : Prefixes.plain p = true) (popped : popSeg p .ss s.begin = .ok () u) :
    exec (.popSs p) s = .next (State.retire { u with inhibitSs := true } p 1) :=
  (runInstr_plain plain).trans (runInstr_retire (by rw [run_bind_ok popped, run_bind_ok (run_modify _ _)]))

/-- A PUSH of a segment register is the push of its selector. -/
theorem exec_pushSeg {k : Instr × SegState × Nat} (hk : k ∈ [(Instr.pushEs p, s.es, 1), (.pushCs p, s.cs, 1), (.pushSs p, s.ss, 1),
      (.pushDs p, s.ds, 1), (.pushFs p, s.fs, 2), (.pushGs p, s.gs, 2)]) :
    ∃ r, s.seg r = k.2.1 ∧ exec k.1 s = runInstr (do plainPrefixes p; pushSeg p r; advance p k.2.2) s := by
  fin_cases hk <;> exact ⟨_, rfl, rfl⟩

end pop

/-- Settles O16: each form is the read or the check of its operand, then the load or the store. -/
theorem movPopPushSegmentRegister : Obligations.MovPopPushSegmentRegister := by
  refine ⟨fun p c rm s v u sel r x e plain => ⟨fun named free => ⟨movToSeg_unread plain named free,
      movToSeg_unloaded plain named free, fun read loaded => ⟨_, movToSeg_ok plain named free read loaded,
        sameBytes_of_mem rfl _, rfl⟩⟩, movToSeg_undefined plain, ?stops, ?pops⟩, ?pushes⟩
  case stops =>
    intro i hi
    obtain ⟨k, form⟩ := exec_pop hi s
    rw [form, ← State.begin_sp, ← State.begin_opBytes]
    exact ⟨fun stops => runInstr_plain_stops plain (popSeg_unread stops),
      fun read stops => runInstr_plain_stops plain (popSeg_unloaded read stops)⟩
  case pops =>
    rw [← State.begin_sp, ← State.begin_opBytes]
    intro read
    exact ⟨fun i hi loaded => ⟨_, (exec_popData hi s).trans (runInstr_plain_retire plain (popSeg_ok read loaded)),
        sameBytes_of_mem rfl _, rfl⟩,
      fun loaded => ⟨_, popSs_ok plain (popSeg_ok read loaded), sameBytes_of_mem rfl _, rfl⟩⟩
  case pushes =>
    rintro p s u x e plain i hi _ rfl
    obtain ⟨r, seg, form⟩ := exec_pushSeg hi
    have item : pushSeg p r s.begin = push (s.opBytes p) i.2.1.sel.toNat s.begin := by
      rw [pushSeg_eq, State.begin_opBytes, State.begin_seg, seg]
    rw [form, ← State.begin_ss, ← State.begin_reg]
    refine ⟨fun stops => runInstr_plain_stops plain (item.trans (push_stops stops _)),
      fun checked ram => ⟨_, runInstr_plain_retire plain (item.trans (push_ok checked ram _)), sameBytes_stored u x _, rfl⟩⟩

section farPointer
variable {p : Prefixes} {g : SegReg} {r : Reg} {m : MemOp} {off : Word32} {sel : Word16} {s v u : State} {e : Err}

theorem loadFarPointer_unread (stops : readFar p m (s.opBytes p) s = .error e v) :
    loadFarPointer p g r (.mem m) s = .error e v := by
  simp [loadFarPointer, stops]

/-- Once the pointer is read, what is left is the load of the segment register, then of the general one (42_control_transfer.md
R467). -/
theorem loadFarPointer_read (read : readFar p m (s.opBytes p) s = .ok (off, sel) v) :
    loadFarPointer p g r (.mem m) s = (do
      loadSeg g sel
      modify fun t : State => if s.op32 p then t.setReg r off else t.setReg16 r (lo16 off) : M Unit) v := by
  simp [loadFarPointer, read, op32_of_accessed ((touches_readFar _ _ _).accessed read)]

/-- The five forms differ in the segment register and the length. -/
theorem exec_loadFarPointer {i : (Rm → Instr) × SegReg × Nat} (hi : i ∈ [(Instr.les p r, SegReg.es, 1), (.lds p r, .ds, 1),
      (.lss p r, .ss, 2), (.lfs p r, .fs, 2), (.lgs p r, .gs, 2)]) (rm : Rm) (s : State) :
    exec (i.1 rm) s = runInstr (do plainPrefixes p; loadFarPointer p i.2.1 r rm; advance p (i.2.2 + rm.size)) s := by
  fin_cases hi <;> rfl

end farPointer

/-- Settles O17: the pointer is read, the segment register is loaded, and then the general register. -/
theorem loadFarPointerForms : Obligations.LoadFarPointer := by
  intro p g r m s v u off sel e plain i hi
  simp only [exec_loadFarPointer hi, ← State.begin_opBytes s, ← State.begin_op32 s]
  refine ⟨runInstr_plain_stops plain rfl, fun stops => runInstr_plain_stops plain (loadFarPointer_unread stops),
    fun read => ⟨fun stops => runInstr_plain_stops plain ((loadFarPointer_read read).trans (run_bind_error stops)),
      fun loaded => ⟨_, runInstr_plain_retire plain ((loadFarPointer_read read).trans (run_bind_ok loaded)), ?_, rfl⟩⟩⟩
  cases s.begin.op32 p <;> exact sameBytes_of_mem rfl _

end Sys2Proof.Machine
end

section
/-! Near JMP, CALL and RET (42_control_transfer.md R453, R454, R468, R469, R490), and the forms of the far ones (R484, R485, R491). -/

namespace Sys2Proof.Machine

open Sys2Proof

section nearState
variable {s v : State}

theorem Accessed.nextPc (h : Accessed s v) (p : Prefixes) (n : Nat) : v.nextPc p n = s.nextPc p n := by
  rw [State.nextPc, State.nextPc, h.eip]

end nearState

section near
variable {p : Prefixes} {b n x : Nat} {next target : Word32} {slot : Slot} {s u v : State} {e : Err}

theorem jumpNear_within (within : target.toNat ≤ s.cs.limit.toNat) : jumpNear target s = .ok .normal { s with eip := target } := by
  rw [jumpNear, run_bind_ok (run_get s), run_bind_ok (checkTarget_ok within)]
  rfl

theorem jumpNear_beyond (beyond : s.cs.limit.toNat < target.toNat) :
    jumpNear target s = .error (.exn ⟨.gp, some 0, false⟩) s := by
  rw [jumpNear, run_bind_ok (run_get s), run_bind_error (checkTarget_no beyond)]

/-- There is room for one item where the item below the stack pointer is within the limit of SS (42_control_transfer.md R452). -/
theorem requireRoom_one (b : Nat) (s : State) : requireRoom b 1 s =
    (if segOk s.protectedMode s.ss (spAfter s.ss.attr.db (s.reg .esp) b 1) b true then pure () else raiseCode .ss 0 : M Unit) s := by
  rw [requireRoom, run_bind_ok (run_get s)]
  simp [pushOffsets, spAfter, State.sp]

/-- A call without room on the stack (42_control_transfer.md R469). -/
theorem callNear_noRoom
    (full : segOk s.protectedMode s.ss (spAfter s.ss.attr.db (s.reg .esp) (s.opBytes p) 1) (s.opBytes p) true = false) :
    callNear p next target s = .error (.exn ⟨.ss, some 0, false⟩) s := by
  rw [callNear, run_bind_ok (run_get s)]
  exact run_bind_error ((requireRoom_one _ s).trans (by rw [full]; rfl))

theorem requireRoom_one_ok (room : segOk s.protectedMode s.ss (spAfter s.ss.attr.db (s.reg .esp) b 1) b true = true) :
    requireRoom b 1 s = .ok () s := (requireRoom_one b s).trans (by rw [room]; rfl)

/-- The stack comes before the target (92_eei_decisions.md D58). -/
theorem callNear_beyond (room : requireRoom (s.opBytes p) 1 s = .ok () s) (beyond : s.cs.limit.toNat < target.toNat) :
    callNear p next target s = .error (.exn ⟨.gp, some 0, false⟩) s := by
  rw [callNear, run_bind_ok (run_get s), run_bind_ok room, run_bind_ok (run_get s), run_bind_error (checkTarget_no beyond)]

/-- A call pushes the address of the next instruction and goes to its target (42_control_transfer.md R469). -/
theorem callNear_ok (within : target.toNat ≤ s.cs.limit.toNat) (room : requireRoom (s.opBytes p) 1 s = .ok () s)
    (checked : memProbe .ss (spAfter s.ss.attr.db (s.reg .esp) (s.opBytes p) 1) (s.opBytes p) (s.opBytes p) true s = .ok slot u)
    (ram : slot.isRam u = true) : callNear p next target s = .ok .normal
      { State.setSp (u.stored slot next.toNat) (spAfter s.ss.attr.db (s.reg .esp) (s.opBytes p) 1) with eip := target } := by
  rw [callNear, run_bind_ok (run_get s), run_bind_ok room, run_bind_ok (run_get s), run_bind_ok (checkTarget_ok within),
    run_bind_ok (push_ok checked ram _)]
  rfl

theorem returnNear_unread (stops : readStack s.sp (s.opBytes p) s = .error e v) : returnNear p n s = .error e v := by
  rw [returnNear, run_bind_ok (run_get s), run_bind_error stops]

theorem returnNear_beyond (read : readStack s.sp (s.opBytes p) s = .ok x v)
    (beyond : s.cs.limit.toNat < (BitVec.ofNat 32 x).toNat) : returnNear p n s = .error (.exn ⟨.gp, some 0, false⟩) v := by
  rw [returnNear, run_bind_ok (run_get s), run_bind_ok read, run_bind_error (checkTarget_no beyond)]

/-- A return pops its target and releases the bytes of its immediate (42_control_transfer.md R490). -/
theorem returnNear_ok (read : readStack s.sp (s.opBytes p) s = .ok x v)
    (within : (BitVec.ofNat 32 x).toNat ≤ s.cs.limit.toNat) : returnNear p n s =
      .ok .normal { v.setSp (v.sp + BitVec.ofNat 32 (s.opBytes p + n)) with eip := BitVec.ofNat 32 x } := by
  rw [returnNear, run_bind_ok (run_get s), run_bind_ok read, run_bind_ok (checkTarget_ok within)]
  rfl

end near

section forms
variable {p : Prefixes} {i : Instr} {rm : Rm} {target : Word32} {s v w : State}

/-- A form of JMP or CALL, once its operand is read, is the transfer `m` from the state the read leaves. -/
def IsTransfer (i : Instr) (s : State) (m : M Done) (v : State) : Prop :=
  (∀ dn u, m v = .ok dn u → exec i s = .next (u.finish dn)) ∧ ∀ e u, m v = .error e u → exec i s = failed s e u

/-- An instruction of plain prefixes is the transfer its effect is. -/
theorem isTransfer_of_run {k m : M Done} (plain : Prefixes.plain p = true)
    (form : exec i s = runInstr (do plainPrefixes p; k) s) (run : k s.begin = m v) : IsTransfer i s m v := by
  rw [IsTransfer, form, runInstr_plain plain]
  exact ⟨fun _ _ done => runInstr_ok (run.trans done), fun _ _ stops => runInstr_error (run.trans stops)⟩

/-- A jump to a target from a state whose code segment is that of the instruction; `w` is any state with its memory
(42_control_transfer.md R468). -/
theorem jump_outcome (jump : IsTransfer i s (jumpNear target) v) (cs : v.cs = s.cs) (mem : v.mem = w.mem) :
    (target.toNat ≤ s.cs.limit.toNat → ∃ t, exec i s = .next t ∧ t = v.goTo target ∧ sameBytes w t []) ∧
      (s.cs.limit.toNat < target.toNat → exec i s = raised s v .gp (some 0)) := by
  rw [← cs]
  exact ⟨fun within => ⟨_, jump.1 _ _ (jumpNear_within within), rfl, sameBytes_of_mem mem _⟩,
    fun beyond => jump.2 _ _ (jumpNear_beyond beyond)⟩

theorem jmpRel8_isTransfer (plain : Prefixes.plain p = true) (d : BitVec 8) (s : State) : IsTransfer (.jmpRel8 p d) s
    (jumpNear (truncTarget (s.op32 p) (s.nextPc p 2 + d.signExtend 32))) s.begin :=
  isTransfer_of_run plain rfl (by rw [run_bind_ok (run_get _), State.relTarget, State.begin_op32, State.begin_nextPc])

theorem jmpRel_isTransfer (plain : Prefixes.plain p = true) (d : Rel) (s : State) : IsTransfer (.jmpRel p d) s
    (jumpNear (truncTarget (s.op32 p) (s.nextPc p (1 + d.size) + Rel.value d))) s.begin :=
  isTransfer_of_run plain rfl (by rw [run_bind_ok (run_get _), State.relTarget, State.begin_op32, State.begin_nextPc])

theorem jmpRm_isTransfer (plain : Prefixes.plain p = true) (read : readRmV p rm s.begin = .ok target v) :
    IsTransfer (.jmpRm p rm) s (jumpNear target) v :=
  isTransfer_of_run plain rfl (run_bind_ok read)

theorem callRel_isTransfer (plain : Prefixes.plain p = true) (d : Rel) (s : State) : IsTransfer (.callRel p d) s
    (callNear p (s.nextPc p (1 + d.size)) (truncTarget (s.op32 p) (s.nextPc p (1 + d.size) + Rel.value d))) s.begin :=
  isTransfer_of_run plain rfl (by rw [run_bind_ok (run_get _), State.relTarget, State.begin_op32, State.begin_nextPc])

theorem callRm_isTransfer (plain : Prefixes.plain p = true) (read : readRmV p rm s.begin = .ok target v) :
    IsTransfer (.callRm p rm) s (callNear p (s.nextPc p (1 + rm.size)) target) v := by
  have next : v.nextPc p (1 + rm.size) = s.nextPc p (1 + rm.size) :=
    (((touches_readRmV p rm).accessed read).nextPc p _).trans (State.begin_nextPc s p _)
  exact isTransfer_of_run plain rfl (by rw [run_bind_ok read, run_bind_ok (run_get v), next])

end forms

section call
variable {p : Prefixes} {i : Instr} {target next : Word32} {slot : Slot} {s u v : State}
  (called : IsTransfer i s (callNear p next target) v) (same : Accessed s.begin v)
include called same

/-- A call is refused for its stack, then for its target (92_eei_decisions.md D58). -/
theorem call_refused {room : Prop} (fits : room ↔
      segOk s.protectedMode s.ss (spAfter s.ss.attr.db (s.reg .esp) (s.opBytes p) 1) (s.opBytes p) true = true) :
    (¬room → exec i s = raised s v .ss (some 0)) ∧
      (room → s.cs.limit.toNat < target.toNat → exec i s = raised s v .gp (some 0)) := by
  rw [← State.begin_protectedMode, ← State.begin_ss, ← State.begin_reg, ← State.begin_opBytes, ← same.protectedMode, ← same.ss,
    ← same.reg, ← same.opBytes] at fits
  rw [fits, Bool.not_eq_true, ← State.begin_cs, ← same.cs]
  exact ⟨fun full => called.2 _ _ (callNear_noRoom full),
    fun room beyond => called.2 _ _ (callNear_beyond (requireRoom_one_ok room) beyond)⟩

theorem call_completes (within : target.toNat ≤ s.cs.limit.toNat) (room : requireRoom (s.opBytes p) 1 v = .ok () v)
    (checked : memProbe .ss (spAfter s.ss.attr.db (s.reg .esp) (s.opBytes p) 1) (s.opBytes p) (s.opBytes p) true v = .ok slot u)
    (ram : slot.isRam u = true) : ∃ t, exec i s = .next t ∧ sameBytes u t slot.addrs ∧
      t = State.goTo (State.setSp (u.stored slot next.toNat) (spAfter s.ss.attr.db (s.reg .esp) (s.opBytes p) 1)) target := by
  rw [← State.begin_ss, ← State.begin_reg, ← State.begin_opBytes, ← same.ss, ← same.reg, ← same.opBytes] at checked ⊢
  rw [← State.begin_opBytes, ← same.opBytes] at room
  rw [← State.begin_cs, ← same.cs] at within
  exact ⟨_, called.1 _ _ (callNear_ok within room checked ram), sameBytes_stored u slot _, rfl⟩

end call

/-- Settles O18: each form is its operand, then the jump, the call or the return. -/
theorem nearTransfers : Obligations.NearTransfers := by
  refine ⟨fun p s plain => ⟨?rel8, ?rel, ?rm, ?unread, ?refused, ?completes⟩, ?returns⟩
  case rel8 =>
    rintro d _ rfl
    exact jump_outcome (jmpRel8_isTransfer plain d s) (State.begin_cs s) (State.begin_mem s)
  case rel =>
    rintro d _ rfl
    exact jump_outcome (jmpRel_isTransfer plain d s) (State.begin_cs s) (State.begin_mem s)
  case rm =>
    intro rm v target read
    exact jump_outcome (jmpRm_isTransfer plain read) (((touches_readRmV p rm).accessed read).cs.trans (State.begin_cs s)) rfl
  case unread =>
    intro rm v e stops
    exact forall_mem_pair (runInstr_plain_stops plain stops) (runInstr_plain_stops plain stops)
  case refused =>
    rintro v target i (⟨d, rfl, rfl, rfl⟩ | ⟨rm, rfl, read⟩) room fits
    · exact call_refused (callRel_isTransfer plain d s) (Accessed.rfl' _) fits
    · exact call_refused (callRm_isTransfer plain read) ((touches_readRmV p rm).accessed read) fits
  case completes =>
    intro v u slot target within room checked ram
    refine ⟨?_, fun rm read => call_completes (callRm_isTransfer plain read) ((touches_readRmV p rm).accessed read) within room
      checked ram⟩
    rintro d rfl rfl
    exact call_completes (callRel_isTransfer plain d s) (Accessed.rfl' _) within room checked ram
  case returns =>
    intro p n s v x e plain i hi
    have form : exec i.1 s = runInstr (do plainPrefixes p; returnNear p i.2) s := by fin_cases hi <;> rfl
    rw [form, runInstr_plain plain, ← State.begin_sp, ← State.begin_opBytes, ← State.begin_cs]
    exact ⟨fun stops => runInstr_error (returnNear_unread stops), fun read =>
      ⟨fun within => ⟨_, runInstr_ok (returnNear_ok read within), sameBytes_of_mem rfl _, rfl⟩,
        fun beyond => runInstr_error (returnNear_beyond read beyond)⟩⟩

section far
variable {p : Prefixes} {m : MemOp} {off : Word32} {sel : Word16} {s v : State}

theorem jmpFar_isTransfer (plain : Prefixes.plain p = true) (f : FarPtr) (s : State) : IsTransfer (.jmpFar p f) s
    (farTransfer false p (FarPtr.sel f) (FarPtr.off f) (s.nextPc p (1 + f.size))) s.begin :=
  isTransfer_of_run plain rfl (by rw [run_bind_ok (run_get _), State.begin_nextPc])

theorem callFar_isTransfer (plain : Prefixes.plain p = true) (f : FarPtr) (s : State) : IsTransfer (.callFar p f) s
    (farTransfer true p (FarPtr.sel f) (FarPtr.off f) (s.nextPc p (1 + f.size))) s.begin :=
  isTransfer_of_run plain rfl (by rw [run_bind_ok (run_get _), State.begin_nextPc])

/-- The operand of a far transfer through memory is read, and then the transfer is made. -/
theorem readFar_then (call : Bool) (read : readFar p m (s.opBytes p) s.begin = .ok (off, sel) v) : (do
      let (off, sel) ← readFar p m ((← get).opBytes p)
      farTransfer call p sel off ((← get).nextPc p (1 + m.size)) : M Done) s.begin =
    farTransfer call p sel off (s.nextPc p (1 + m.size)) v := by
  have next := ((touches_readFar p m (s.opBytes p)).accessed read).nextPc p (1 + m.size)
  simp [read, next]

theorem jmpFarMem_isTransfer (plain : Prefixes.plain p = true) (read : readFar p m (s.opBytes p) s.begin = .ok (off, sel) v) :
    IsTransfer (.jmpFarMem p (.mem m)) s (farTransfer false p sel off (s.nextPc p (1 + m.size))) v :=
  isTransfer_of_run plain rfl (readFar_then false read)

theorem callFarMem_isTransfer (plain : Prefixes.plain p = true) (read : readFar p m (s.opBytes p) s.begin = .ok (off, sel) v) :
    IsTransfer (.callFarMem p (.mem m)) s (farTransfer true p sel off (s.nextPc p (1 + m.size))) v :=
  isTransfer_of_run plain rfl (readFar_then true read)

theorem retFar_isTransfer (plain : Prefixes.plain p = true) (s : State) : IsTransfer (.retFar p) s (returnFar p 0) s.begin :=
  isTransfer_of_run plain rfl rfl

theorem retFarImm_isTransfer (plain : Prefixes.plain p = true) (n : BitVec 16) (s : State) :
    IsTransfer (.retFarImm p n) s (returnFar p n.toNat) s.begin :=
  isTransfer_of_run plain rfl rfl

end far

/-- Settles O19: each form is its operand, then the far transfer or the far return. -/
theorem farForms : Obligations.FarForms := by
  intro p s v u dn e plain
  refine ⟨fun f => ?direct, fun m stops => ?unread, fun m off sel read => ?memory, fun r => ?register,
    (retFar_isTransfer plain s).1 _ _, fun n => (retFarImm_isTransfer plain n s).1 _ _, (retFar_isTransfer plain s).2 _ _,
    fun n => (retFarImm_isTransfer plain n s).2 _ _⟩
  case direct =>
    have jmp := jmpFar_isTransfer plain f s
    have call := callFar_isTransfer plain f s
    exact ⟨forall_mem_pair (jmp.2 _ _) (call.2 _ _), jmp.1 _ _, call.1 _ _⟩
  case unread =>
    exact forall_mem_pair ((runInstr_plain plain).trans (runInstr_error (by simp [stops])))
      ((runInstr_plain plain).trans (runInstr_error (by simp [stops])))
  case memory =>
    have jmp := jmpFarMem_isTransfer plain read
    have call := callFarMem_isTransfer plain read
    exact ⟨forall_mem_pair (jmp.2 _ _) (call.2 _ _), jmp.1 _ _, call.1 _ _⟩
  case register => exact ⟨(runInstr_plain plain).trans (runInstr_error rfl), (runInstr_plain plain).trans (runInstr_error rfl)⟩

end Sys2Proof.Machine
end

section
/-! The segments of a new task (43_tasks.md R547, R564): what the load of each register takes, check by check. -/

namespace Sys2Proof.Machine

open Sys2Proof

section ldtr
variable {ext : Bool} {s u : State} {d : Desc} {e : Err}

/-- A selector without the table indicator names an entry of the GDT (21_segmentation.md R205). -/
theorem readDescriptor_global {sel : Word16} (table : selTi sel = false) :
    readDescriptor sel s = tableRead s.gdtr.base s.gdtr.limit.toNat true (selIndex sel) s := by
  simp [readDescriptor, table]

theorem loadTaskLdt_null (null : isNull s.ldtr.sel = true) : loadTaskLdt ext s = .ok () s := by
  simp [loadTaskLdt, null]

variable (notNull : isNull s.ldtr.sel = false)
include notNull

theorem loadTaskLdt_outside (outside : selTi s.ldtr.sel = true ∨ s.gdtr.limit.toNat < selIndex s.ldtr.sel * 8 + 7) :
    loadTaskLdt ext s = .error (.exn ⟨.ts, some (selectorErrorCode s.ldtr.sel ext), false⟩) s := by
  cases table : selTi s.ldtr.sel with
  | true => simp [loadTaskLdt, notNull, table]
  | false =>
    have beyond := outside.resolve_left (by simp [table])
    simp [loadTaskLdt, notNull, table, tableRead_none (.inr beyond)]

variable (table : selTi s.ldtr.sel = false)
include table

theorem loadTaskLdt_error (read : readDescriptor s.ldtr.sel s = .error e u) : loadTaskLdt ext s = .error e u := by
  rw [readDescriptor_global table] at read
  simp [loadTaskLdt, notNull, table, read]

variable (read : readDescriptor s.ldtr.sel s = .ok (some d) u)
include read

theorem loadTaskLdt_unsuited (unsuited : descS d = true ∨ descType d ≠ 2 ∨ descP d = false) :
    loadTaskLdt ext s = .error (.exn ⟨.ts, some (selectorErrorCode s.ldtr.sel ext), false⟩) u := by
  rw [readDescriptor_global table] at read
  simp only [loadTaskLdt, run_bind, run_get, run_ite, notNull, table, read, run_raiseSel, Bool.false_eq_true, if_false]
  by_cases other : descS d = true ∨ descType d ≠ 2
  · rw [if_pos (by simpa using other)]
  · rw [if_neg (by simpa using other), if_pos (by simpa using (or_assoc.mpr unsuited).resolve_left other)]

theorem loadTaskLdt_ok (system : descS d = false) (ldt : descType d = 2) (present : descP d = true) :
    loadTaskLdt ext s = .ok () { u with ldtr := ⟨s.ldtr.sel, descBase d, descLimit d, descAttr d, true⟩ } := by
  rw [readDescriptor_global table] at read
  simp [loadTaskLdt, notNull, table, read, system, ldt, present]

omit notNull table read in
/-- A load of LDTR that completes leaves a null selector, or loads what was read from the GDT (43_tasks.md R547). -/
theorem loadTaskLdt_eq_ok {t : State} (h : loadTaskLdt ext s = .ok () t) :
    isNull s.ldtr.sel = true ∧ t = s ∨ isNull s.ldtr.sel = false ∧ ∃ d u,
      tableRead s.gdtr.base s.gdtr.limit.toNat true (selIndex s.ldtr.sel) s = .ok (some d) u ∧
      t = { u with ldtr := ⟨s.ldtr.sel, descBase d, descLimit d, descAttr d, true⟩ } := by
  rw [loadTaskLdt, run_bind_ok (run_get s)] at h
  split at h
  · next null => cases h; exact .inl ⟨null, rfl⟩
  next notNull =>
    split at h
    · cases h
    obtain ⟨o, u, read, h⟩ := run_bind_eq_ok.mp h
    cases o with
    | none => cases h
    | some d =>
      simp only [run_ite] at h
      split at h
      · cases h
      split at h
      · cases h
      cases h
      exact .inr ⟨Bool.eq_false_iff.mpr notNull, d, u, read, rfl⟩

end ldtr

section marked
variable {r : SegReg} {sel : Word16} {d : Desc} {s v w : State} {a : List Nat}

/-- The end of the load of a segment register: the mark, then the register (43_tasks.md R547). -/
def loadMarked (r : SegReg) (sel : Word16) (d : Desc) : M Unit := do
  commitAccessed (← probeAccessed sel d)
  modify (fun s => s.setSeg r (segFrom sel d))

theorem loadMarked_ok (probed : probeAccessed sel d s = .ok a v) (marked : commitAccessed a v = .ok () w) :
    loadMarked r sel d s = .ok () (w.setSeg r (segFrom sel d)) := by
  rw [loadMarked, run_bind_ok probed, run_bind_ok marked, run_modify]

end marked

section code
variable {level : BitVec 2} {ext : Bool} {s u : State} {d : Desc} {e : Err}

/-- The code segment of a task is code of the level its selector asks for, or conforming code of a level that is no lower
privilege (43_tasks.md R547). -/
def SuitsTaskCode (level : BitVec 2) (d : Desc) : Prop :=
  isCode (descAttr d) = true ∧
    if conforming (descAttr d) = true then (descDpl d).toNat ≤ level.toNat else descDpl d = level

theorem loadTaskCs_null (null : isNull s.cs.sel = true) :
    loadTaskCs level ext s = .error (.exn ⟨.ts, some (selectorErrorCode s.cs.sel ext), false⟩) s := by
  simp [loadTaskCs, null]

variable (notNull : isNull s.cs.sel = false)
include notNull

theorem loadTaskCs_error (read : readDescriptor s.cs.sel s = .error e u) : loadTaskCs level ext s = .error e u := by
  simp [loadTaskCs, notNull, needDescriptor_error read]

theorem loadTaskCs_none (read : readDescriptor s.cs.sel s = .ok none u) :
    loadTaskCs level ext s = .error (.exn ⟨.ts, some (selectorErrorCode s.cs.sel ext), false⟩) u := by
  simp [loadTaskCs, notNull, needDescriptor_none read]

variable (read : readDescriptor s.cs.sel s = .ok (some d) u)
include read

theorem loadTaskCs_unsuited (unsuited : ¬SuitsTaskCode level d) :
    loadTaskCs level ext s = .error (.exn ⟨.ts, some (selectorErrorCode s.cs.sel ext), false⟩) u := by
  have found := needDescriptor_some (x := .ts) (ext := ext) read
  rw [SuitsTaskCode] at unsuited
  cases code : isCode (descAttr d) with
  | false => simp [loadTaskCs, notNull, found, code]
  | true =>
    cases conforms : conforming (descAttr d) with
    | true =>
      have low : level.toNat < (descDpl d).toNat := by simpa [code, conforms] using unsuited
      simp [loadTaskCs, notNull, found, code, conforms, low]
    | false =>
      have other : descDpl d ≠ level := by simpa [code, conforms] using unsuited
      simp [loadTaskCs, notNull, found, code, conforms, other]

variable (suits : SuitsTaskCode level d)
include suits

/-- A code segment that suits is loaded, unless it is absent. -/
theorem loadTaskCs_suited : loadTaskCs level ext s =
    (if descP d = true then loadMarked .cs s.cs.sel d else raiseSel .np s.cs.sel ext) u := by
  have found := needDescriptor_some (x := .ts) (ext := ext) read
  obtain ⟨code, dpl⟩ := suits
  cases conforms : conforming (descAttr d) with
  | true =>
    have admitted : (descDpl d).toNat ≤ level.toNat := by simpa [conforms] using dpl
    cases present : descP d <;>
      simp [loadTaskCs, notNull, found, code, conforms, Nat.not_lt.mpr admitted, present, loadMarked, State.setSeg]
  | false =>
    have same : descDpl d = level := by simpa [conforms] using dpl
    cases present : descP d <;>
      simp [loadTaskCs, notNull, found, code, conforms, same, present, loadMarked, State.setSeg]

end code

section stack
variable {level : BitVec 2} {ext : Bool} {s u : State} {d : Desc} {e : Err}

theorem loadTaskSs_error (stops : checkSs s.ss.sel level .ts ext s = .error e u) : loadTaskSs level ext s = .error e u := by
  simp [loadTaskSs, stops]

theorem loadTaskSs_checked (checked : checkSs s.ss.sel level .ts ext s = .ok d u) :
    loadTaskSs level ext s = loadMarked .ss s.ss.sel d u := by
  simp [loadTaskSs, checked, loadMarked, State.setSeg]

end stack

section data
variable {level : BitVec 2} {ext : Bool} {r : SegReg} {s u : State} {d : Desc} {e : Err}

theorem loadTaskData_null (null : isNull (s.seg r).sel = true) : loadTaskData level ext r s = .ok () s := by
  simp [loadTaskData, null]

variable (notNull : isNull (s.seg r).sel = false)
include notNull

theorem loadTaskData_error (read : readDescriptor (s.seg r).sel s = .error e u) : loadTaskData level ext r s = .error e u := by
  simp [loadTaskData, notNull, needDescriptor_error read]

theorem loadTaskData_none (read : readDescriptor (s.seg r).sel s = .ok none u) :
    loadTaskData level ext r s = .error (.exn ⟨.ts, some (selectorErrorCode (s.seg r).sel ext), false⟩) u := by
  simp [loadTaskData, notNull, needDescriptor_none read]

variable (read : readDescriptor (s.seg r).sel s = .ok (some d) u)
include read

theorem loadTaskData_unreadable (unreadable : readable (descAttr d) = false) :
    loadTaskData level ext r s = .error (.exn ⟨.ts, some (selectorErrorCode (s.seg r).sel ext), false⟩) u := by
  simp [loadTaskData, notNull, needDescriptor_some read, unreadable]

variable (reads : readable (descAttr d) = true)
include reads

/-- A data segment that can be read is loaded, unless its DPL does not admit the level and the RPL, or it is absent. -/
theorem loadTaskData_readable : loadTaskData level ext r s =
    (if conforming (descAttr d) = true ∨ dataPrivilegeOk level (s.seg r).sel d = true then
      if descP d = true then loadMarked r (s.seg r).sel d else raiseSel .np (s.seg r).sel ext
    else raiseSel .gp (s.seg r).sel ext) u := by
  have found := needDescriptor_some (x := .ts) (ext := ext) read
  cases conforms : conforming (descAttr d) <;> cases admits : dataPrivilegeOk level (s.seg r).sel d <;>
    cases present : descP d <;> simp [loadTaskData, notNull, found, reads, conforms, admits, present, loadMarked]

end data

section all
variable {ext : Bool} {s u : State} {e : Err}

theorem loadTaskSegments_error (stops : loadTaskLdt ext s = .error e u) : loadTaskSegments ext s = .error e u := by
  simp [loadTaskSegments, stops]

variable (loaded : loadTaskLdt ext s = .ok () u)
include loaded

/-- In virtual-8086 mode no segment is checked (43_tasks.md R564). -/
theorem loadTaskSegments_v86 (mode : s.vm = true) : loadTaskSegments ext s = .ok () { u with
    es := v86Seg u.es.sel, cs := v86Seg u.cs.sel, ss := v86Seg u.ss.sel
    ds := v86Seg u.ds.sel, fs := v86Seg u.fs.sel, gs := v86Seg u.gs.sel } := by
  simp [loadTaskSegments, loaded, mode]

/-- Otherwise the six are loaded one after another, at the level CS asks for (43_tasks.md R547, D60). -/
theorem loadTaskSegments_checked (mode : s.vm = false) : loadTaskSegments ext s = (do
    loadTaskCs (rpl s.cs.sel) ext
    loadTaskSs (rpl s.cs.sel) ext
    loadTaskData (rpl s.cs.sel) ext .es
    loadTaskData (rpl s.cs.sel) ext .ds
    loadTaskData (rpl s.cs.sel) ext .fs
    loadTaskData (rpl s.cs.sel) ext .gs : M Unit) u := by
  rw [loadTaskSegments, run_bind_ok (run_get s), run_bind_ok loaded, mode]
  rfl

end all

end Sys2Proof.Machine
end

section
/-! What switches tasks, what a switch is refused for, and what is in force once it completes (43_tasks.md R540 to R560). -/

namespace Sys2Proof.Machine

open Sys2Proof

section optional
variable {α β : Type} {c : Prop} [Decidable c] {m : M α} {a : α}

/-- An operation that is made where it is needed, and whose answer is known where it is not. -/
def ifNeeded (c : Prop) [Decidable c] (m : M α) (a : α) : M α := if c then m else pure a

@[simp] theorem touches_ifNeeded (hm : Touches m) (a : α) : Touches (ifNeeded c m a) := touches_ite hm (touches_pure a)

end optional

section fetch
variable {kind : SwitchKind} {sel : Word16} {ext : Bool} {s u : State} {d : Desc} {e : Err}

/-- The types of descriptors of a TSS (43_tasks.md R542). -/
theorem isTss_iff (d : Desc) : isTss d = true ↔ descS d = false ∧ (descType d).toNat ∈ [1, 3, 9, 11] := by
  rw [isTss, Bool.and_eq_true, Bool.not_eq_true', decide_eq_true_eq]

/-- Which of the types of a TSS are busy, and which are 32-bit ones (43_tasks.md R526). -/
theorem tssType_iff : ∀ type : BitVec 4, type.toNat ∈ [1, 3, 9, 11] →
    (type.getLsbD 1 = true ↔ type.toNat ∈ [3, 11]) ∧ (type.getLsbD 1 = false ↔ type.toNat ∈ [1, 9]) ∧
      (type.getLsbD 3 = true ↔ type.toNat ∈ [9, 11]) := by decide

/-- What a selector that names no TSS raises, by the kind of switch (43_tasks.md R542). -/
def SwitchKind.refusal (kind : SwitchKind) : Exc := if kind = .iret then .ts else .gp

theorem fetchTss_outside (outside : isNull sel = true ∨ selTi sel = true ∨ s.gdtr.limit.toNat < selIndex sel * 8 + 7) :
    fetchTss sel kind ext s = .error (.exn ⟨kind.refusal, some (selectorErrorCode sel ext), false⟩) s := by
  cases null : isNull sel with
  | true => simp [fetchTss, null, SwitchKind.refusal]
  | false =>
    cases table : selTi sel with
    | true => simp [fetchTss, null, table, SwitchKind.refusal]
    | false =>
      have beyond : s.gdtr.limit.toNat < selIndex sel * 8 + 7 := by simpa [null, table] using outside
      simp [fetchTss, null, table, tableRead_none (.inr beyond), SwitchKind.refusal]

variable (notNull : isNull sel = false) (table : selTi sel = false)
include notNull table

theorem fetchTss_error (read : readDescriptor sel s = .error e u) : fetchTss sel kind ext s = .error e u := by
  rw [readDescriptor_global table] at read
  simp [fetchTss, notNull, table, read]

variable (read : readDescriptor sel s = .ok (some d) u)
include read

theorem fetchTss_noTss (other : isTss d = false) :
    fetchTss sel kind ext s = .error (.exn ⟨kind.refusal, some (selectorErrorCode sel ext), false⟩) u := by
  rw [readDescriptor_global table] at read
  simp [fetchTss, notNull, table, read, other, SwitchKind.refusal]

variable (tss : isTss d = true)
include tss

theorem fetchTss_absent (absent : descP d = false) :
    fetchTss sel kind ext s = .error (.exn ⟨.np, some (selectorErrorCode sel ext), false⟩) u := by
  rw [readDescriptor_global table] at read
  simp [fetchTss, notNull, table, read, tss, absent]

variable (present : descP d = true)
include present

/-- The checks of a TSS that is present, in their order: its busy bit, by the kind of switch, and its limit (43_tasks.md R542). -/
theorem fetchTss_present : fetchTss sel kind ext s =
    (if (kind.needsAvailable && (descType d).getLsbD 1) = true then raiseSel .gp sel ext
    else if (decide (kind = .iret) && !(descType d).getLsbD 1) = true then raiseSel .ts sel ext
    else if (descLimit d).toNat < (if gate32 d = true then 0x67 else 0x2B) then raiseSel .ts sel ext
    else pure d) u := by
  rw [readDescriptor_global table] at read
  simp only [fetchTss, run_bind, run_get, run_ite, notNull, table, read, tss, present]
  rfl

theorem fetchTss_busy (needs : kind.needsAvailable = true) (busy : (descType d).getLsbD 1 = true) :
    fetchTss sel kind ext s = .error (.exn ⟨.gp, some (selectorErrorCode sel ext), false⟩) u := by
  rw [fetchTss_present notNull table read tss present, needs, busy]
  rfl

theorem fetchTss_idle (back : kind = .iret) (idle : (descType d).getLsbD 1 = false) :
    fetchTss sel kind ext s = .error (.exn ⟨.ts, some (selectorErrorCode sel ext), false⟩) u := by
  rw [fetchTss_present notNull table read tss present, back, idle]
  rfl

/-- A task whose busy bit suits the kind of switch is taken, unless its TSS is too short (43_tasks.md R542). -/
theorem fetchTss_suited (available : kind.needsAvailable = true → (descType d).getLsbD 1 = false)
    (busy : kind = .iret → (descType d).getLsbD 1 = true) : fetchTss sel kind ext s =
      (if (descLimit d).toNat < (if gate32 d = true then 0x67 else 0x2B) then raiseSel .ts sel ext else pure d) u := by
  have notBusy : ¬(kind.needsAvailable && (descType d).getLsbD 1) = true := fun h => by
    obtain ⟨needs, set⟩ := (Bool.and_eq_true _ _).mp h
    exact Bool.false_ne_true ((available needs).symm.trans set)
  have notIdle : ¬(decide (kind = .iret) && !(descType d).getLsbD 1) = true := fun h => by
    obtain ⟨back, clear⟩ := (Bool.and_eq_true _ _).mp h
    rw [busy (of_decide_eq_true back)] at clear
    cases clear
  rw [fetchTss_present notNull table read tss present, if_neg notBusy, if_neg notIdle]

end fetch

section plan
variable {kind : SwitchKind} {sel : Word16} {ext : Bool} {s u v w : State} {d : Desc} {plan : SwitchPlan} {e : Err}

/-- The types that make TR's TSS a 32-bit one (43_tasks.md R521). -/
theorem tss32_iff (s : State) : s.tss32 = true ↔ s.tr.attr.type.toNat ∈ [8, 9, 10, 11, 12, 13, 14, 15] := by
  have types : ∀ type : BitVec 4, type.getLsbD 3 = true ↔ type.toNat ∈ [8, 9, 10, 11, 12, 13, 14, 15] := by decide
  exact types _

theorem clears_iff (kind : SwitchKind) : kind.clears = true ↔ kind = .jmp ∨ kind = .iret := by
  simp [SwitchKind.clears]

/-- The least limit of the TSS a switch leaves (43_tasks.md R545). -/
def State.leastTss (s : State) : Nat := if s.tss32 = true then 0x5D else 0x29

/-- There is a task to leave, with a TSS that can take its state and, for JMP and IRET, an entry in the GDT
(43_tasks.md R545). -/
structure State.CanLeave (s : State) (kind : SwitchKind) : Prop where
  task : s.tr.valid = true
  long : s.leastTss ≤ s.tr.limit.toNat
  inside : kind.clears = true → selIndex s.tr.sel * 8 + 7 ≤ s.gdtr.limit.toNat

/-- The rest of phase A once the task can be left (43_tasks.md R545, R548). -/
def checkedPlan (kind : SwitchKind) (sel : Word16) (ext pae : Bool) (d : Desc) : M SwitchPlan := do
  let plan ← resolvePlan kind sel d
  if ← ifNeeded (gate32 d && pae) (pdptOk plan.cr3new) true then pure plan else raiseZero .gp ext

theorem checkedPlan_error (pae : Bool) (stops : resolvePlan kind sel d s = .error e u) :
    checkedPlan kind sel ext pae d s = .error e u := by
  rw [checkedPlan, run_bind_error stops]

/-- Where the new task's CR3 is checked, the check of its page-directory-pointer table comes next (22_paging.md R313). -/
theorem checkedPlan_wide (resolved : resolvePlan kind sel d s = .ok plan u) (wide : gate32 d = true) :
    checkedPlan kind sel ext true d s =
      (do if ← pdptOk plan.cr3new then pure plan else raiseZero .gp ext : M SwitchPlan) u := by
  rw [checkedPlan, run_bind_ok resolved, ifNeeded, if_pos (by simp [wide])]

theorem checkedPlan_unchecked (resolved : resolvePlan kind sel d s = .ok plan u) :
    checkedPlan kind sel ext false d s = .ok plan u := by
  rw [checkedPlan, run_bind_ok resolved]
  simp [ifNeeded]

theorem planSwitch_error (stops : fetchTss sel kind ext s = .error e u) : planSwitch kind sel ext s = .error e u := by
  rw [planSwitch, run_bind_error stops]

variable (fetched : fetchTss sel kind ext s = .ok d u)
include fetched

theorem planSwitch_noTask (none : u.tr.valid = false) :
    planSwitch kind sel ext s = .error (.exn ⟨.ts, some (selectorErrorCode 0 ext), false⟩) u := by
  simp [planSwitch, fetched, none]

variable (task : u.tr.valid = true)
include task

theorem planSwitch_short (short : u.tr.limit.toNat < u.leastTss) :
    planSwitch kind sel ext s = .error (.exn ⟨.ts, some (selectorErrorCode u.tr.sel ext), false⟩) u := by
  rw [State.leastTss] at short
  simp [planSwitch, fetched, task, short]

theorem planSwitch_outside (long : u.leastTss ≤ u.tr.limit.toNat) (clears : kind.clears = true)
    (outside : u.gdtr.limit.toNat < selIndex u.tr.sel * 8 + 7) :
    planSwitch kind sel ext s = .error (.exn ⟨.gp, some (selectorErrorCode u.tr.sel ext), false⟩) u := by
  rw [State.leastTss] at long
  rw [Nat.mul_comm] at outside
  simp [planSwitch, fetched, task, Nat.not_lt.mpr long, clears, outside]

omit task in
theorem planSwitch_leaves (leaves : u.CanLeave kind) :
    planSwitch kind sel ext s = checkedPlan kind sel ext (u.pg && u.cr4Pae) d u := by
  obtain ⟨task, long, inside⟩ := leaves
  rw [State.leastTss] at long
  have within : (kind.clears && decide (8 * selIndex u.tr.sel + 7 > u.gdtr.limit.toNat)) = false := by
    cases clears : kind.clears with
    | false => rfl
    | true => simpa [Nat.mul_comm] using inside clears
  rw [planSwitch, run_bind_ok fetched, run_bind_ok (run_get u)]
  simp only [task, Nat.not_lt.mpr long, within, checkedPlan, ifNeeded, Bool.and_assoc]
  cases gate32 d && (u.pg && u.cr4Pae) <;> rfl

omit task in
/-- A plan that is made leaves a task that can be left. -/
theorem canLeave_of_planSwitch (h : planSwitch kind sel ext s = .ok plan v) : u.CanLeave kind := by
  have task : u.tr.valid = true := by
    by_contra none
    cases (planSwitch_noTask fetched (by simpa using none)).symm.trans h
  have long : u.leastTss ≤ u.tr.limit.toNat := by
    by_contra short
    cases (planSwitch_short fetched task (Nat.not_le.mp short)).symm.trans h
  refine ⟨task, long, fun clears => ?_⟩
  by_contra outside
  cases (planSwitch_outside fetched task long clears (Nat.not_le.mp outside)).symm.trans h

end plan

section phases
variable {kind : SwitchKind} {sel : Word16} {ret cr3new : Word32} {ext rf wide : Bool} {code : Option Word32}
  {plan : SwitchPlan} {vs : List Nat} {s t u v : State} {e : Err}

theorem taskSwitch_planError (stops : planSwitch kind sel ext s = .error e u) :
    taskSwitch kind sel ret ext rf code s = .error e u := by
  rw [taskSwitch, run_bind_error stops]

/-- Phases B and C write the old task, free it, read the new one, link and take it; then TR and CR0.TS are set
(43_tasks.md R545). -/
theorem commitSwitch_eq : commitSwitch kind sel plan ret rf s = (do
    writeFields plan.oldAddrs (savedValues s ret (savedImage kind rf s.eflags))
    ifNeeded (kind.clears = true) (updateByte plan.oldBusy 2 0) ()
    let vs ← readFields plan.newAddrs
    ifNeeded (kind.nest = true) (physWriteAt plan.linkAddrs s.tr.sel.toNat) ()
    ifNeeded (¬kind = .iret) (updateByte plan.newBusy 0 2) ()
    modify (fun s => { s with
      tr := ⟨sel, descBase plan.nd, descLimit plan.nd, tssAttr plan.nd, true⟩
      cr0 := setBit s.cr0 3 true })
    pure vs : M (List Nat)) s := by
  cases kind <;> rfl

/-- Phases B and C change TR and CR0.TS, beside what an access to memory can change. -/
theorem commitSwitch_eq_ok (h : commitSwitch kind sel plan ret rf s = .ok vs v) : ∃ u, Accessed s u ∧ v = { u with
    tr := ⟨sel, descBase plan.nd, descLimit plan.nd, tssAttr plan.nd, true⟩
    cr0 := setBit u.cr0 3 true } := by
  rw [commitSwitch_eq] at h
  obtain ⟨_, u1, saved, h⟩ := run_bind_eq_ok.mp h
  obtain ⟨_, u2, freed, h⟩ := run_bind_eq_ok.mp h
  obtain ⟨_, u3, read, h⟩ := run_bind_eq_ok.mp h
  obtain ⟨_, u4, linked, h⟩ := run_bind_eq_ok.mp h
  obtain ⟨_, u5, taken, h⟩ := run_bind_eq_ok.mp h
  cases h
  exact ⟨u5, ((touches_writeFields _ _).accessed saved).trans (((touches_ifNeeded (by simp) _).accessed freed).trans
    (((touches_readFields _).accessed read).trans (((touches_ifNeeded (by simp) _).accessed linked).trans
      ((touches_ifNeeded (by simp) _).accessed taken)))), rfl⟩

/-- What an operation that completes with the exceptions of a new task completes with, it completes with anyway (43_tasks.md
R544). -/
theorem afterCommit_eq_ok {m : M Unit} (h : afterCommit m s = .ok () t) : m s = .ok () t := by
  unfold afterCommit at h
  cases run : m s with
  | ok a u => rw [run] at h; exact h
  | error e u => rw [run] at h; cases e <;> cases h

/-- A debug trap is made pending where the T bit of the new TSS is set (46_debug.md R672). -/
def State.trapTask (s : State) (trap : Bool) : State := { s with dbPending := { s.dbPending with bt := s.dbPending.bt || trap } }

/-- The T bit, in a 32-bit TSS (43_tasks.md R521). -/
def trapBit (wide : Bool) (vs : List Nat) : Bool := wide && decide (vs.getD 17 0 % 2 = 1)

/-- The check of the images changes nothing. -/
theorem requireTaskImages_eq_ok {image : Word32} (h : requireTaskImages wide cr3new image s = .ok () t) : t = s := by
  rw [requireTaskImages, run_bind_ok (run_get s), requireAsRead, run_bind_ok (run_get s)] at h
  split at h <;> cases h
  rfl

/-- Phase D, when it completes: the registers, their images admitted, the segments, the target, the error code, the trap
(43_tasks.md R545). -/
theorem startTask_eq_ok (h : startTask kind wide cr3new vs ext code s = .ok () t) : ∃ g u v w,
    loadGprs wide vs s = .ok g u ∧ requireTaskImages wide cr3new (word vs 1) u = .ok () u ∧
    loadTaskSegments ext (u.enterTask kind wide cr3new vs g) = .ok () v ∧ v.eip.toNat ≤ v.cs.limit.toNat ∧
    pushTaskCode wide ext code v = .ok () w ∧ t = w.trapTask (trapBit wide vs) := by
  obtain ⟨g, u, registers, rest⟩ := run_bind_eq_ok.mp h
  obtain ⟨_, u', images, rest⟩ := run_bind_eq_ok.mp rest
  cases requireTaskImages_eq_ok images
  rw [run_bind_ok (run_modify _ _)] at rest
  obtain ⟨_, w, segments, rest⟩ := run_bind_eq_ok.mp rest
  cases rest
  obtain ⟨_, v, loaded, checked⟩ := run_bind_eq_ok.mp (afterCommit_eq_ok segments)
  rw [run_bind_ok (run_get v)] at checked
  obtain ⟨within, pushed⟩ := checkTarget_then_eq_ok checked
  exact ⟨g, u, v, w, registers, images, loaded, within, pushed, rfl⟩

theorem taskSwitch_eq_ok (h : taskSwitch kind sel ret ext rf code s = .ok () t) : ∃ plan vs u v,
    planSwitch kind sel ext s = .ok plan u ∧ commitSwitch kind sel plan ret rf u = .ok vs v ∧
    startTask kind (gate32 plan.nd) plan.cr3new vs ext code v = .ok () t := by
  obtain ⟨plan, u, planned, h⟩ := run_bind_eq_ok.mp h
  obtain ⟨vs, v, committed, h⟩ := run_bind_eq_ok.mp h
  exact ⟨plan, vs, u, v, planned, committed, h⟩

end phases

section frame
variable {α β : Type} {s t u : State}

/-- `t` differs from `s` at most in the general registers, the segment registers, LDTR and what an access to memory can change. -/
def Reloaded (s t : State) : Prop :=
  t = { s with
    gpr := t.gpr, es := t.es, cs := t.cs, ss := t.ss, ds := t.ds, fs := t.fs, gs := t.gs, ldtr := t.ldtr
    mem := t.mem, tlb := t.tlb, cr2 := t.cr2, dbPending := t.dbPending, io := t.io, free := t.free }

theorem Reloaded.eflags (h : Reloaded s t) : t.eflags = s.eflags := by rw [h]
theorem Reloaded.tr (h : Reloaded s t) : t.tr = s.tr := by rw [h]
theorem Reloaded.cr0 (h : Reloaded s t) : t.cr0 = s.cr0 := by rw [h]
theorem Reloaded.dr6 (h : Reloaded s t) : t.dr6 = s.dr6 := by rw [h]
theorem Reloaded.dr7 (h : Reloaded s t) : t.dr7 = s.dr7 := by rw [h]
theorem Reloaded.gdtr (h : Reloaded s t) : t.gdtr = s.gdtr := by rw [h]
theorem Reloaded.idtr (h : Reloaded s t) : t.idtr = s.idtr := by rw [h]
theorem Reloaded.fpu (h : Reloaded s t) : t.fpu = s.fpu := by rw [h]

theorem Reloaded.trans (first : Reloaded s t) (second : Reloaded t u) : Reloaded s u := by
  unfold Reloaded at first second ⊢
  rw [first] at second
  exact second

theorem Accessed.reloaded (h : Accessed s t) : Reloaded s t := by
  unfold Accessed at h
  unfold Reloaded
  rw [h]

/-- The operation changes at most these, where it completes. -/
def Reloads (m : M α) : Prop := ∀ ⦃s a t⦄, m s = .ok a t → Reloaded s t

theorem Touches.reloads {m : M α} (h : Touches m) : Reloads m := fun _ _ _ run => (h.accessed run).reloaded

theorem reloads_bind {m : M α} {k : α → M β} (hm : Reloads m) (hk : ∀ a, Reloads (k a)) : Reloads (m >>= k) := by
  intro s b t h
  obtain ⟨a, u, first, rest⟩ := run_bind_eq_ok.mp h
  exact (hm first).trans (hk a rest)

theorem reloads_ite {c : Prop} [Decidable c] {x y : M α} (hx : Reloads x) (hy : Reloads y) : Reloads (if c then x else y) := by
  split <;> assumption

theorem reloads_modify {f : State → State} (h : ∀ s, Reloaded s (f s)) : Reloads (modify f : M Unit) :=
  fun s _ _ run => by cases run; exact h s

theorem reloads_raiseSel (x : Exc) (sel : Word16) (ext : Bool) : Reloads (raiseSel x sel ext : M α) :=
  (touches_raiseSel x sel ext).reloads

theorem reloads_loadMarked (r : SegReg) (sel : Word16) (d : Desc) : Reloads (loadMarked r sel d) :=
  reloads_bind (touches_probeAccessed sel d).reloads fun a => reloads_bind (touches_commitAccessed a).reloads fun _ =>
    reloads_modify fun s => by cases r <;> rfl

theorem reloads_loadTaskLdt (ext : Bool) : Reloads (loadTaskLdt ext) := by
  refine reloads_bind touches_get.reloads fun _ => reloads_ite (touches_pure _).reloads (reloads_ite (reloads_raiseSel _ _ _)
    (reloads_bind (touches_tableRead _ _ _ _).reloads fun o => ?_))
  cases o with
  | none => exact reloads_raiseSel _ _ _
  | some d => exact reloads_ite (reloads_raiseSel _ _ _) (reloads_ite (reloads_raiseSel _ _ _) (reloads_modify fun _ => rfl))

theorem reloads_loadTaskCs (level : BitVec 2) (ext : Bool) : Reloads (loadTaskCs level ext) :=
  reloads_bind touches_get.reloads fun s => reloads_ite (reloads_raiseSel _ _ _)
    (reloads_bind (touches_needDescriptor _ _ _).reloads fun d => reloads_ite (reloads_raiseSel _ _ _)
      (reloads_ite (reloads_raiseSel _ _ _) (reloads_ite (reloads_raiseSel _ _ _) (reloads_ite (reloads_raiseSel _ _ _)
        (reloads_loadMarked .cs s.cs.sel d)))))

theorem reloads_loadTaskSs (level : BitVec 2) (ext : Bool) : Reloads (loadTaskSs level ext) :=
  reloads_bind touches_get.reloads fun s => reloads_bind (touches_checkSs _ _ _ _).reloads fun d =>
    reloads_loadMarked .ss s.ss.sel d

theorem reloads_loadTaskData (level : BitVec 2) (ext : Bool) (r : SegReg) : Reloads (loadTaskData level ext r) :=
  reloads_bind touches_get.reloads fun s => reloads_ite (touches_pure _).reloads
    (reloads_bind (touches_needDescriptor _ _ _).reloads fun d => reloads_ite (reloads_raiseSel _ _ _)
      (reloads_ite (reloads_raiseSel _ _ _) (reloads_ite (reloads_raiseSel _ _ _) (reloads_loadMarked r (s.seg r).sel d))))

theorem reloads_loadTaskSegments (ext : Bool) : Reloads (loadTaskSegments ext) :=
  reloads_bind touches_get.reloads fun _ => reloads_bind (reloads_loadTaskLdt ext) fun _ =>
    reloads_ite (reloads_modify fun _ => rfl) (reloads_bind (reloads_loadTaskCs _ _) fun _ =>
      reloads_bind (reloads_loadTaskSs _ _) fun _ => reloads_bind (reloads_loadTaskData _ _ _) fun _ =>
      reloads_bind (reloads_loadTaskData _ _ _) fun _ => reloads_bind (reloads_loadTaskData _ _ _) fun _ =>
      reloads_loadTaskData _ _ _)

theorem reloads_pushTaskCode (wide ext : Bool) (code : Option Word32) : Reloads (pushTaskCode wide ext code) := by
  cases code with
  | none => exact (touches_pure _).reloads
  | some c =>
    exact reloads_bind touches_get.reloads fun s => reloads_ite (reloads_raiseSel _ _ _)
      (reloads_bind (touches_linAddrs _ _ _).reloads fun a => reloads_bind (touches_physWriteAt _ _).reloads fun _ =>
        reloads_modify fun _ => rfl)

@[simp] theorem touches_fetchTss (sel : Word16) (kind : SwitchKind) (ext : Bool) : Touches (fetchTss sel kind ext) := by
  unfold fetchTss
  refine touches_bind touches_get fun s => touches_ite (by simp) (touches_ite (by simp)
    (touches_bind (touches_tableRead _ _ _ _) fun o => ?_))
  cases o with
  | none => exact touches_raiseSel _ _ _
  | some d => exact touches_ite (by simp) (touches_ite (by simp) (touches_ite (by simp) (touches_ite (by simp)
      (touches_ite (by simp) (touches_pure d)))))

@[simp] theorem touches_resolvePlan (kind : SwitchKind) (sel : Word16) (d : Desc) : Touches (resolvePlan kind sel d) := by
  simp (maxDischargeDepth := 99) [resolvePlan]

theorem touches_planSwitch (kind : SwitchKind) (sel : Word16) (ext : Bool) : Touches (planSwitch kind sel ext) := by
  simp (maxDischargeDepth := 99) [planSwitch]

theorem touches_loadGprs (wide : Bool) (vs : List Nat) : Touches (loadGprs wide vs) := by
  simp (maxDischargeDepth := 99) [loadGprs, loadHalfReg]

end frame

section entered
variable (s : State) (kind : SwitchKind) (wide : Bool) (cr3new : Word32) (vs : List Nat) (g : GprFile)

/-- The registers of the new task, field by field (43_tasks.md R545, R548, R552, R672). -/
@[simp] theorem State.enterTask_gpr : (s.enterTask kind wide cr3new vs g).gpr = g := rfl
@[simp] theorem State.enterTask_eip : (s.enterTask kind wide cr3new vs g).eip = word vs 0 := rfl
@[simp] theorem State.enterTask_eflags :
    (s.enterTask kind wide cr3new vs g).eflags = taskEflags s.params kind (word vs 1) := rfl
@[simp] theorem State.enterTask_es : (s.enterTask kind wide cr3new vs g).es = unchecked s.es (half vs 10) := rfl
@[simp] theorem State.enterTask_cs : (s.enterTask kind wide cr3new vs g).cs = unchecked s.cs (half vs 11) := rfl
@[simp] theorem State.enterTask_ss : (s.enterTask kind wide cr3new vs g).ss = unchecked s.ss (half vs 12) := rfl
@[simp] theorem State.enterTask_ds : (s.enterTask kind wide cr3new vs g).ds = unchecked s.ds (half vs 13) := rfl
@[simp] theorem State.enterTask_fs :
    (s.enterTask kind wide cr3new vs g).fs = unchecked s.fs (if wide then half vs 14 else 0) := rfl
@[simp] theorem State.enterTask_gs :
    (s.enterTask kind wide cr3new vs g).gs = unchecked s.gs (if wide then half vs 15 else 0) := rfl
@[simp] theorem State.enterTask_ldtr :
    (s.enterTask kind wide cr3new vs g).ldtr = unchecked s.ldtr (half vs (if wide then 16 else 14)) := rfl
@[simp] theorem State.enterTask_dr7 : (s.enterTask kind wide cr3new vs g).dr7 = s.dr7 &&& 0xFFFFFEAA := rfl
@[simp] theorem State.enterTask_dbPending :
    (s.enterTask kind wide cr3new vs g).dbPending = { s.dbPending with bs := false } := rfl
@[simp] theorem State.enterTask_cr3 : (s.enterTask kind wide cr3new vs g).cr3 =
    if s.taskLoadsCr3 wide = true then cr3Value s.cr4Pae cr3new else s.cr3 := by unfold State.enterTask; split <;> rfl
@[simp] theorem State.enterTask_tlb : (s.enterTask kind wide cr3new vs g).tlb =
    if s.taskLoadsCr3 wide = true then s.flushTlb.tlb else s.tlb := by unfold State.enterTask; split <;> rfl
@[simp] theorem State.enterTask_tr : (s.enterTask kind wide cr3new vs g).tr = s.tr := by
  unfold State.enterTask; split <;> rfl
@[simp] theorem State.enterTask_cr0 : (s.enterTask kind wide cr3new vs g).cr0 = s.cr0 := by
  unfold State.enterTask; split <;> rfl
@[simp] theorem State.enterTask_dr6 : (s.enterTask kind wide cr3new vs g).dr6 = s.dr6 := by
  unfold State.enterTask; split <;> rfl
@[simp] theorem State.enterTask_gdtr : (s.enterTask kind wide cr3new vs g).gdtr = s.gdtr := by
  unfold State.enterTask; split <;> rfl
@[simp] theorem State.enterTask_idtr : (s.enterTask kind wide cr3new vs g).idtr = s.idtr := by
  unfold State.enterTask; split <;> rfl
@[simp] theorem State.enterTask_fpu : (s.enterTask kind wide cr3new vs g).fpu = s.fpu := by
  unfold State.enterTask; split <;> rfl
@[simp] theorem State.enterTask_mem : (s.enterTask kind wide cr3new vs g).mem = s.mem := by
  unfold State.enterTask; split <;> rfl
@[simp] theorem State.enterTask_params : (s.enterTask kind wide cr3new vs g).params = s.params := by
  unfold State.enterTask; split <;> rfl

end entered

section completed
variable {kind : SwitchKind} {sel : Word16} {ret : Word32} {ext rf : Bool} {code : Option Word32} {s t : State}

/-- What is in force once a task switch completes, beside the new task's registers: TR with a busy TSS, CR0.TS, the flags, the debug
registers; the tables and the floating-point unit are as they were (43_tasks.md R526, R545, R552; 46_debug.md R672). -/
theorem taskSwitch_result (h : taskSwitch kind sel ret ext rf code s = .ok () t) :
    ∃ (d : Desc) (cr0 image : Word32), t.tr = ⟨sel, descBase d, descLimit d, tssAttr d, true⟩ ∧
      t.cr0 = setBit cr0 3 true ∧ t.eflags = taskEflags s.params kind image ∧ t.dr7 = s.dr7 &&& 0xFFFFFEAA ∧ t.dr6 =
      s.dr6 ∧ t.gdtr = s.gdtr ∧
      t.idtr = s.idtr ∧ t.fpu = s.fpu := by
  obtain ⟨plan, vs, u, v, planned, committed, started⟩ := taskSwitch_eq_ok h
  obtain ⟨w, accessed, rfl⟩ := commitSwitch_eq_ok committed
  obtain ⟨g, x, y, z, registers, -, loaded, -, pushed, rfl⟩ := startTask_eq_ok started
  have before := ((touches_planSwitch _ _ _).accessed planned).trans accessed
  have after := (reloads_loadTaskSegments ext loaded).trans (reloads_pushTaskCode _ _ _ pushed)
  have middle := (touches_loadGprs _ _).accessed registers
  exact ⟨plan.nd, w.cr0, word vs 1, after.tr.trans ((State.enterTask_tr ..).trans middle.tr),
    after.cr0.trans ((State.enterTask_cr0 ..).trans middle.cr0),
    after.eflags.trans (by rw [State.enterTask_eflags, middle.params, before.params]),
    after.dr7.trans (by rw [State.enterTask_dr7, middle.dr7, before.dr7]),
    after.dr6.trans ((State.enterTask_dr6 ..).trans (middle.dr6.trans before.dr6)),
    after.gdtr.trans ((State.enterTask_gdtr ..).trans (middle.gdtr.trans before.gdtr)),
    after.idtr.trans ((State.enterTask_idtr ..).trans (middle.idtr.trans before.idtr)),
    after.fpu.trans ((State.enterTask_fpu ..).trans (middle.fpu.trans before.fpu))⟩

end completed

section flags
variable (p : Params) {kind : SwitchKind} (image : Word32)

theorem bit_setBit_same (v : Word32) {n : Nat} (hn : n < 32) (b : Bool) : bit (setBit v n b) n = b := by
  cases b <;> simp [bit, setBit, hn]

/-- NT as the kind of switch has it (43_tasks.md R552). -/
theorem nt_taskEflags_nest (nest : kind.nest = true) : bit (taskEflags p kind image) 14 = true := by
  rw [taskEflags, if_pos nest]
  exact bit_setBit_same _ (by decide) true

theorem nt_taskEflags_jmp : bit (taskEflags p .jmp image) 14 = false := bit_setBit_same _ (by decide) false

end flags

/-- TR keeps a TSS as a busy one (43_tasks.md R526). -/
theorem tssAttr_busy (d : Desc) : (tssAttr d).type.getLsbD 1 = true := by
  have set : ∀ type : BitVec 4, (type ||| 2).getLsbD 1 = true := by decide
  exact set _

theorem needsAvailable_iff (kind : SwitchKind) : kind.needsAvailable = true ↔ kind ∈ [SwitchKind.jmp, .call, .int] := by
  cases kind <;> decide

section sources
variable {call soft rf wide : Bool} {p : Prefixes} {sel : Word16} {off ret : Word32} {code : Option Word32} {vector : Byte}
  {link : Nat} {d : Desc} {e : Err} {s u v : State}

theorem farTarget_task (system : descS d = false) (task : descType d = 5 ∨ (descType d).toNat ∈ [1, 3, 9, 11]) :
    farTarget call p sel off ret d = farToTask call sel d ret := by
  have types : ∀ type : BitVec 4, type = 5 ∨ type.toNat ∈ [1, 3, 9, 11] →
      type.toNat ∉ [4, 12] ∧ type.toNat ∈ [1, 3, 5, 9, 11] := by decide
  obtain ⟨noGate, task⟩ := types _ task
  have noCode : isCode (descAttr d) = false := by simp [isCode, descAttr, system]
  simp only [farTarget, noCode, system, noGate, task, if_true, if_false, Bool.false_eq_true]

/-- A TSS of an LDT, and a TSS or task gate whose DPL does not admit CPL and the RPL (43_tasks.md R550). -/
theorem farToTask_refused (refused : descType d ≠ 5 ∧ selTi sel = true ∨ dataPrivilegeOk s.cpl sel d = false) :
    farToTask call sel d ret s = .error (.exn ⟨.gp, some (selectorErrorCode sel false), false⟩) s := by
  by_cases gate : descType d = 5
  · have low : dataPrivilegeOk s.cpl sel d = false := by simpa [gate] using refused
    simp [farToTask, gate, low]
  · simp only [farToTask, run_bind, run_get, run_ite, if_neg gate]
    cases table : selTi sel with
    | true => rfl
    | false =>
      have low : dataPrivilegeOk s.cpl sel d = false := by simpa [table] using refused
      simp [low]

theorem farToTask_absent (gate : descType d = 5) (admitted : dataPrivilegeOk s.cpl sel d = true) (absent : descP d = false) :
    farToTask call sel d ret s = .error (.exn ⟨.np, some (selectorErrorCode sel false), false⟩) s := by
  simp [farToTask, gate, admitted, absent]

/-- An admitted TSS, or the one that an admitted gate names, is switched to (43_tasks.md R550). -/
theorem farToTask_admitted (admitted : dataPrivilegeOk s.cpl sel d = true) (present : descType d = 5 → descP d = true)
    (global : ¬descType d = 5 → selTi sel = false) : farToTask call sel d ret s = (do
      taskSwitch (if call = true then .call else .jmp) (if descType d = 5 then gateSelector d else sel) ret false false none
      pure .keepRf : M Done) s := by
  by_cases gate : descType d = 5
  · simp [farToTask, gate, admitted, present gate]
  · simp only [farToTask, run_bind, run_get, run_ite, if_neg gate, admitted, global gate]
    rfl

/-- An event whose IDT entry is a task gate switches to the task it names (43_tasks.md R553). -/
theorem deliver_task (pe : s.pe = true) (entry : readIdtGate vector soft s = .ok d u) (gate : descType d = 5) :
    deliver vector soft ret code rf s = (do
      taskSwitch .int (gateSelector d) ret (!soft) rf code
      pure true : M Bool) u := by
  rw [deliver, run_bind_ok (run_get s)]
  simp only [pe, Bool.not_true, Bool.false_eq_true, if_false]
  rw [run_bind_ok entry, if_pos gate]

/-- IRET with NT returns to another task (45_interrupt_instructions.md R644). -/
theorem exceptionReturn_nested (mode : s.protectedMode = true) (nt : s.nt = true) :
    exceptionReturn wide ret s = iretTask ret s := by
  simp only [State.protectedMode, Bool.and_eq_true, Bool.not_eq_true'] at mode
  simp [exceptionReturn, mode, nt]

theorem iretTask_noTask (none : s.tr.valid = false) : iretTask ret s = .error (.exn ⟨.ts, some 0, false⟩) s := by
  simp [iretTask, none]
  rfl

theorem iretTask_short (task : s.tr.valid = true) (short : s.tr.limit.toNat < 1) :
    iretTask ret s = .error (.exn ⟨.ts, some (selectorErrorCode s.tr.sel false), false⟩) s := by
  rw [iretTask, run_bind_ok (run_get s)]
  simp only [task, short, Bool.not_true, Bool.false_eq_true, if_false, if_true, run_raiseSel]

/-- The task to return to is the one the back link names (43_tasks.md R560). -/
theorem iretTask_linked (task : s.tr.valid = true) (long : 1 ≤ s.tr.limit.toNat)
    (read : linRead s.tr.base 2 Acc.supRead s = .ok link u) : iretTask ret s = (do
      taskSwitch .iret (BitVec.ofNat 16 link) ret false false none
      modify (fun s => { s with nmiBlocked := false })
      pure .keepRf : M Done) u := by
  rw [iretTask, run_bind_ok (run_get s)]
  simp only [task, Nat.not_lt.mpr long, Bool.not_true, Bool.false_eq_true, if_false]
  rw [run_bind_ok read]

end sources

/-- Settles O46: what leads to a switch, what is in force once one completes, the checks of the new TSS and of the task left, and
the loads of the new segments. -/
theorem taskSwitchResult : Obligations.TaskSwitchResult := by
  intro kind call soft wide ext rf p vector sel off ret code link d e lvl r a s t u v w
  refine ⟨fun mode notNull found system => ?far, fun pe entry gate => ?event, fun mode nt => ?back, fun switched => ?result,
    ?fetch, ?refused, ?loads⟩
  case far =>
    intro raises gate task
    have same := (touches_needDescriptor sel .gp false).accessed found
    have goes : farTransfer call p sel off ret s = farToTask call sel d ret u := by
      rw [farTransfer_found mode notNull found, farTarget_task system task]
    have level : dataPrivilegeOk u.cpl sel d = true ↔
        s.cpl.toNat ≤ (descDpl d).toNat ∧ (rpl sel).toNat ≤ (descDpl d).toNat := by
      rw [← same.cpl]
      exact gateAdmits_iff
    simp only [raises, goes]
    refine ⟨fun tss table => farToTask_refused (.inl ⟨tss, table⟩), fun low => farToTask_refused (.inr ?_),
      fun dpl rpl => ⟨fun gate absent => farToTask_absent gate (level.mpr ⟨dpl, rpl⟩) absent, ?_⟩⟩
    · refine Bool.eq_false_iff.mpr fun ok => ?_
      obtain ⟨dpl, rpl⟩ := level.mp ok
      omega
    · rintro present global tsel rfl rfl
      rw [farToTask_admitted (level.mpr ⟨dpl, rpl⟩) present global]
      exact ⟨fun ok => run_bind_ok ok, fun stops => run_bind_error stops⟩
  case event =>
    rw [deliver_task pe entry gate]
    exact ⟨fun ok => run_bind_ok ok, fun stops => run_bind_error stops⟩
  case back =>
    rw [exceptionReturn_nested mode nt]
    refine ⟨iretTask_noTask, iretTask_short, fun task long read => ?_⟩
    rw [iretTask_linked task long read]
    exact ⟨fun ok => run_bind_ok ok, fun stops => run_bind_error stops⟩
  case result =>
    obtain ⟨nd, cr0, image, tr, hcr0, flags, dr7, dr6, gdtr, idtr, fpu⟩ := taskSwitch_result switched
    refine ⟨by rw [tr], by rw [tr], by rw [tr]; exact tssAttr_busy nd, by rw [tr]; rfl, ?_, fun nest => ?_, fun jmp => ?_, dr7,
      dr6, gdtr, idtr, fpu⟩
    · rw [State.ts, hcr0]
      exact bit_setBit_same cr0 (by decide) true
    · rw [State.nt, flags]
      exact nt_taskEflags_nest _ _ nest
    · rw [State.nt, flags, jmp]
      exact nt_taskEflags_jmp _ _
  case fetch =>
    intro fetched bad refuses fresh
    refine ⟨fetchTss_outside, fun notNull table => ⟨fetchTss_error notNull table, fun read => ?_⟩⟩
    intro type tss least
    have htss : isTss d = true ↔ tss := isTss_iff d
    refine ⟨fun other => fetchTss_noTss notNull table read (Bool.eq_false_iff.mpr (other ∘ htss.mp)),
      fun yes => fetchTss_absent notNull table read (htss.mpr yes), fun yes present => ?_⟩
    obtain ⟨busy, idle, wide⟩ := tssType_iff (descType d) yes.2
    refine ⟨fun needs set => fetchTss_busy notNull table read (htss.mpr yes) present
        ((needsAvailable_iff kind).mpr needs) (busy.mpr set),
      fun back clear => fetchTss_idle notNull table read (htss.mpr yes) present back (idle.mpr clear), fun available linked => ?_⟩
    have limit : (if gate32 d = true then 0x67 else 0x2B) = least := if_congr wide rfl rfl
    simp only [fetched, refuses, fetchTss_suited notNull table read (htss.mpr yes) present
      (fun needs => idle.mpr (available ((needsAvailable_iff kind).mp needs))) (fun back => busy.mpr (linked back)), limit]
    exact ⟨fun short => by rw [if_pos short, run_raiseSel], fun long => by rw [if_neg (Nat.not_lt.mpr long), run_pure]⟩
  case refused =>
    intro switched raises least inside
    refine ⟨fun stops => taskSwitch_planError (planSwitch_error stops), fun fetched => ?_⟩
    have same := (touches_fetchTss sel kind ext).accessed fetched
    have hleast : u.leastTss = least := if_congr (by rw [← same.tr]; exact tss32_iff u) rfl rfl
    simp only [raises, switched, inside, ← hleast, ← same.tr, ← same.gdtr, ← same.pg, ← clears_iff]
    refine ⟨fun none => taskSwitch_planError (planSwitch_noTask fetched none),
      fun task short => taskSwitch_planError (planSwitch_short fetched task short), fun task long outside => ?_,
      fun task long within => ?_⟩
    · obtain ⟨clears, outside⟩ := Classical.not_imp.mp outside
      exact taskSwitch_planError (planSwitch_outside fetched task long clears (Nat.not_le.mp outside))
    have goes := planSwitch_leaves fetched ⟨task, long, within⟩
    refine ⟨fun stops => taskSwitch_planError (goes.trans (checkedPlan_error _ stops)), fun plan resolved wide pg pae => ?_⟩
    have pae' : u.cr4Pae = true := by rwa [State.cr4Pae, same.cr4]
    rw [pg, pae', Bool.and_self] at goes
    have checks := goes.trans (checkedPlan_wide resolved wide)
    exact ⟨fun stops => taskSwitch_planError (checks.trans (run_bind_error stops)),
      fun bad => taskSwitch_planError (checks.trans (run_bind_ok bad))⟩
  case loads =>
    intro from_ held seg86 marked
    refine ⟨loadTaskSegments_error, fun loaded => ⟨fun mode => ?v86, fun mode level => ?checked⟩, ?ldtr, ?code,
      loadTaskSs_error, fun checked marks => ?stack, ?data⟩
    case v86 =>
      have entered := loadTaskSegments_v86 loaded mode
      rcases loadTaskLdt_eq_ok loaded with ⟨-, rfl⟩ | ⟨-, x, y, read, rfl⟩
      · exact entered
      · have kept := (touches_tableRead _ _ _ _).accessed read
        rwa [kept.es, kept.cs, kept.ss, kept.ds, kept.fs, kept.gs] at entered
    case checked => rw [level]; exact loadTaskSegments_checked loaded mode
    case ldtr =>
      rintro n rfl
      exact ⟨loadTaskLdt_null, loadTaskLdt_outside, fun notNull table => ⟨loadTaskLdt_error notNull table,
        fun read => ⟨loadTaskLdt_unsuited notNull table read, loadTaskLdt_ok notNull table read⟩⟩⟩
    case code =>
      rintro n rfl
      refine ⟨loadTaskCs_null, fun notNull => ⟨loadTaskCs_error notNull, loadTaskCs_none notNull,
        fun read suits hsuits => ?_⟩⟩
      refine ⟨fun no => loadTaskCs_unsuited notNull read (no ∘ hsuits.mpr), fun yes absent => ?_, fun yes present marks => ?_⟩
      · exact (loadTaskCs_suited notNull read (hsuits.mp yes)).trans (congrFun (if_neg (by simp [absent])) u)
      · rw [loadTaskCs_suited notNull read (hsuits.mp yes), if_pos present]
        exact loadMarked_ok marks.1 marks.2
    case stack => exact (loadTaskSs_checked checked).trans (loadMarked_ok marks.1 marks.2)
    case data =>
      rintro - n rfl
      refine ⟨loadTaskData_null, fun notNull => ⟨loadTaskData_error notNull, loadTaskData_none notNull,
        fun read admits hadmits => ⟨loadTaskData_unreadable notNull read, ?_⟩⟩⟩
      replace hadmits := hadmits.trans (or_congr_right gateAdmits_iff.symm)
      have readable := fun reads => loadTaskData_readable (level := lvl) (ext := ext) notNull read reads
      refine ⟨fun reads no => (readable reads).trans (congrFun (if_neg (no ∘ hadmits.mpr)) u),
        fun reads yes absent => ?_, fun reads yes present marks => ?_⟩
      · rw [readable reads, if_pos (hadmits.mp yes), if_neg (by simp [absent]), run_raiseSel]
      · rw [readable reads, if_pos (hadmits.mp yes), if_pos present]
        exact loadMarked_ok marks.1 marks.2
end Sys2Proof.Machine
end

section
/-! A task switch while paging is off (43_tasks.md R543 to R549): the fields of a TSS as they are stored and read, the plan of a
switch, and memory once the old task is saved and the new one marked. -/

namespace Sys2Proof.Machine

open Sys2Proof

section fields
variable {base : Word32} {fs : List Field} {vs : List Nat} {m : List Host.Cell} {s : State}

/-- The state with another memory. -/
def State.withMem (s : State) (m : List Host.Cell) : State := { s with mem := m }

theorem State.Flat.withMem (flat : s.Flat) (m : List Host.Cell) : (s.withMem m).Flat := ⟨flat.pg, flat.map⟩

/-- Where the fields of a TSS stand while paging is off. -/
def fieldAddrs (base : Word32) (fs : List Field) : List (List Nat) :=
  fs.map fun f => linearSpan (base + BitVec.ofNat 32 f.1) f.2

/-- Fields with the values stored there: offset, size, value. -/
def withValues (fs : List Field) (vs : List Nat) : List (Nat × Nat × Nat) := List.zipWith (fun f v => (f.1, f.2, v)) fs vs

/-- The values of the fields of a TSS in memory. -/
def fieldValues (m : List Host.Cell) (base : Word32) (fs : List Field) : List Nat := fs.map fun f => valueAt m base f.1 f.2

theorem resolveFields_flat (flat : s.Flat) (base : Word32) (acc : Acc) (fs : List Field) :
    resolveFields base acc fs s = .ok (fieldAddrs base fs) s := by
  induction fs with
  | nil => rfl
  | cons f fs ih =>
    rw [resolveFields, run_bind_ok (linAddrs_unpaged flat.pg _ _ _), run_bind_ok ih]
    rfl

theorem physReadAt_flat (flat : s.Flat) (m : List Host.Cell) (as : List Nat) :
    physReadAt as (s.withMem m) = .ok (ofBytes (as.map (cellByte m))) (s.withMem m) :=
  physReadAt_ram (allRam_of_empty flat.map as)

theorem physWriteAt_flat (flat : s.Flat) (m : List Host.Cell) (la : Word32) (n v : Nat) :
    physWriteAt (linearSpan la n) v (s.withMem m) = .ok () (s.withMem (setCells m (linearSpan la n) (bytesOf n v))) := by
  rw [physWriteAt_ram (s := s.withMem m) (allRam_of_empty flat.map _), linearSpan_length]
  rfl

theorem writeFields_flat (flat : s.Flat) (m : List Host.Cell) (base : Word32) (fs : List Field) (vs : List Nat) :
    writeFields (fieldAddrs base fs) vs (s.withMem m) = .ok () (s.withMem (storedAt m base (withValues fs vs))) := by
  induction fs generalizing m vs with
  | nil => rfl
  | cons f fs ih =>
    cases vs with
    | nil => rfl
    | cons v vs => exact (run_bind_ok (physWriteAt_flat flat m _ _ v)).trans (ih _ vs)

theorem readFields_flat (flat : s.Flat) (m : List Host.Cell) (base : Word32) (fs : List Field) :
    readFields (fieldAddrs base fs) (s.withMem m) = .ok (fieldValues m base fs) (s.withMem m) := by
  induction fs with
  | nil => rfl
  | cons f fs ih => exact (run_bind_ok (physReadAt_flat flat m _)).trans (run_bind_ok ih)

theorem updateByte_flat (flat : s.Flat) (m : List Host.Cell) (base : Word32) (off clear set : Nat) :
    updateByte (linearSpan (base + BitVec.ofNat 32 off) 1) clear set (s.withMem m) =
      .ok () (s.withMem (storedAt m base [(off, 1, (valueAt m base off 1 &&& (255 - clear)) ||| set)])) :=
  (run_bind_ok (physReadAt_flat flat m _)).trans (physWriteAt_flat flat m _ 1 _)

end fields

section plan
variable {kind : SwitchKind} {sel : Word16} {ext : Bool} {d : Desc} {s t : State}

/-- The fields of a TSS that a switch reads (43_tasks.md R545). -/
def readFieldsOf (wide : Bool) : List Field := savedFields wide ++ extraFields wide

/-- The access-rights byte of a descriptor in the GDT, while paging is off. -/
def State.busyAddrs (s : State) (sel : Word16) : List Nat :=
  linearSpan (s.gdtr.base + BitVec.ofNat 32 (8 * selIndex sel + 5)) 1

/-- The plan of a switch while paging is off (43_tasks.md R546). -/
def State.flatPlan (s : State) (kind : SwitchKind) (sel : Word16) (d : Desc) : SwitchPlan where
  nd := d
  oldAddrs := fieldAddrs s.tr.base (savedFields s.tss32)
  oldBusy := if kind.clears = true then s.busyAddrs s.tr.sel else []
  newAddrs := fieldAddrs (descBase d) (readFieldsOf (gate32 d))
  linkAddrs := if kind.nest = true then linearSpan (descBase d) 2 else []
  newBusy := if kind = .iret then [] else s.busyAddrs sel
  cr3new := BitVec.ofNat 32 (if gate32 d = true then valueAt s.mem (descBase d) 0x1C 4 else 0)

theorem resolvePlan_eq : resolvePlan kind sel d s = (do
    let oldAddrs ← resolveFields s.tr.base Acc.supWrite (savedFields s.tss32)
    let oldBusy ← ifNeeded (kind.clears = true)
      (linAddrs (s.gdtr.base + BitVec.ofNat 32 (8 * selIndex s.tr.sel + 5)) 1 Acc.supWrite) []
    let newAddrs ← resolveFields (descBase d) Acc.supRead (readFieldsOf (gate32 d))
    let linkAddrs ← ifNeeded (kind.nest = true) (linAddrs (descBase d) 2 Acc.supWrite) []
    let newBusy ← ifNeeded (¬kind = .iret)
      (linAddrs (s.gdtr.base + BitVec.ofNat 32 (8 * selIndex sel + 5)) 1 Acc.supWrite) []
    let cr3new ← ifNeeded (gate32 d = true) (linRead (descBase d + 0x1C) 4 Acc.supRead) 0
    pure ⟨d, oldAddrs, oldBusy, newAddrs, linkAddrs, newBusy, BitVec.ofNat 32 cr3new⟩ : M SwitchPlan) s := by
  unfold resolvePlan readFieldsOf
  cases kind <;> cases gate32 d <;> rfl

theorem ifNeeded_ok {α : Type} {c : Prop} [Decidable c] {m : M α} {x : α} (a : α) (run : m s = .ok x s) :
    ifNeeded c m a s = .ok (if c then x else a) s := by
  unfold ifNeeded
  split
  · exact run
  · rfl

theorem resolvePlan_flat (flat : s.Flat) (kind : SwitchKind) (sel : Word16) (d : Desc) :
    resolvePlan kind sel d s = .ok (s.flatPlan kind sel d) s := by
  rw [resolvePlan_eq, run_bind_ok (resolveFields_flat flat _ _ _), run_bind_ok (ifNeeded_ok _ (linAddrs_unpaged flat.pg _ _ _)),
    run_bind_ok (resolveFields_flat flat _ _ _), run_bind_ok (ifNeeded_ok _ (linAddrs_unpaged flat.pg _ _ _)),
    run_bind_ok (ifNeeded_ok _ (linAddrs_unpaged flat.pg _ _ _)),
    run_bind_ok (ifNeeded_ok _ (linRead_unpaged flat.pg flat.map _ _ _)), run_pure, ite_not]
  rfl

theorem calm_fetchTss (sel : Word16) (kind : SwitchKind) (ext : Bool) : Calm (fetchTss sel kind ext) := by
  refine calm_bind calm_get fun _ => calm_ite (calm_raiseSel _ _ _) (calm_ite (calm_raiseSel _ _ _)
    (calm_bind (calm_tableRead _ _ _ _) fun o => ?_))
  cases o with
  | none => exact calm_raiseSel _ _ _
  | some d => exact calm_ite (calm_raiseSel _ _ _) (calm_ite (calm_raiseSel _ _ _) (calm_ite (calm_raiseSel _ _ _)
      (calm_ite (calm_raiseSel _ _ _) (calm_ite (calm_raiseSel _ _ _) (calm_pure d)))))

/-- With paging off a switch that may leave its task is planned, with no table of CR3 to check (43_tasks.md R545). -/
theorem planSwitch_flat (flat : s.Flat) (fetched : fetchTss sel kind ext s = .ok d s) (leaves : s.CanLeave kind) :
    planSwitch kind sel ext s = .ok (s.flatPlan kind sel d) s := by
  rw [planSwitch_leaves fetched leaves, flat.pg]
  exact checkedPlan_unchecked (resolvePlan_flat flat kind sel d)

end plan

section commit
variable {kind : SwitchKind} {sel : Word16} {ret : Word32} {rf : Bool} {d : Desc} {s : State}

/-- Memory once the old task is saved (43_tasks.md R543). -/
def State.savedMem (s : State) (kind : SwitchKind) (ret : Word32) (rf : Bool) : List Host.Cell :=
  storedAt s.mem s.tr.base (withValues (savedFields s.tss32) (savedValues s ret (savedImage kind rf s.eflags)))

/-- Memory once the old task is free: for JMP and IRET its busy bit is clear (43_tasks.md R540). -/
def State.freedMem (s : State) (kind : SwitchKind) (ret : Word32) (rf : Bool) : List Host.Cell :=
  if kind.clears = true then storedAt (s.savedMem kind ret rf) s.gdtr.base [(8 * selIndex s.tr.sel + 5, 1,
    valueAt (s.savedMem kind ret rf) s.gdtr.base (8 * selIndex s.tr.sel + 5) 1 &&& 0xFD)]
  else s.savedMem kind ret rf

/-- Memory once a nested task is linked to the old one (43_tasks.md R540). -/
def State.linkedMem (s : State) (kind : SwitchKind) (ret : Word32) (rf : Bool) (d : Desc) : List Host.Cell :=
  if kind.nest = true then storedAt (s.freedMem kind ret rf) (descBase d) [(0, 2, s.tr.sel.toNat)] else s.freedMem kind ret rf

/-- Memory once the new task is taken: its busy bit is set, but for IRET (43_tasks.md R540). -/
def State.takenMem (s : State) (kind : SwitchKind) (ret : Word32) (rf : Bool) (sel : Word16) (d : Desc) : List Host.Cell :=
  if kind = .iret then s.linkedMem kind ret rf d
  else storedAt (s.linkedMem kind ret rf d) s.gdtr.base [(8 * selIndex sel + 5, 1,
    valueAt (s.linkedMem kind ret rf d) s.gdtr.base (8 * selIndex sel + 5) 1 ||| 2)]

/-- The state once a switch has committed: memory, TR and CR0.TS (43_tasks.md R545). -/
def State.committed (s : State) (kind : SwitchKind) (ret : Word32) (rf : Bool) (sel : Word16) (d : Desc) : State :=
  { s with
    mem := s.takenMem kind ret rf sel d
    tr := ⟨sel, descBase d, descLimit d, tssAttr d, true⟩
    cr0 := setBit s.cr0 3 true }

/-- The values of the new TSS, as it stands once the old task is free. -/
def State.newValues (s : State) (kind : SwitchKind) (ret : Word32) (rf : Bool) (d : Desc) : List Nat :=
  fieldValues (s.freedMem kind ret rf) (descBase d) (readFieldsOf (gate32 d))

theorem valueAt_byte_lt (m : List Host.Cell) (base : Word32) (off : Nat) : valueAt m base off 1 < 2 ^ 8 :=
  ofBytes_lt [_]

theorem ifNeeded_withMem {c : Prop} [Decidable c] {x : M Unit} {m m' : List Host.Cell}
    (run : c → x (s.withMem m) = .ok () (s.withMem m')) :
    ifNeeded c x () (s.withMem m) = .ok () (s.withMem (if c then m' else m)) := by
  unfold ifNeeded
  split
  · next needed => exact run needed
  · rfl

variable (flat : s.Flat)
include flat

/-- The old task's busy bit is cleared (43_tasks.md R540). -/
theorem freeOldTask_flat : ifNeeded (kind.clears = true) (updateByte (s.flatPlan kind sel d).oldBusy 2 0) ()
    (s.withMem (s.savedMem kind ret rf)) = .ok () (s.withMem (s.freedMem kind ret rf)) := by
  refine ifNeeded_withMem fun clears => ?_
  have place : (s.flatPlan kind sel d).oldBusy = s.busyAddrs s.tr.sel := if_pos clears
  have cleared := updateByte_flat flat (s.savedMem kind ret rf) s.gdtr.base (8 * selIndex s.tr.sel + 5) 2 0
  rw [Nat.or_zero] at cleared
  rw [place]
  exact cleared

/-- The new task is linked to the old one (43_tasks.md R540). -/
theorem linkNewTask_flat : ifNeeded (kind.nest = true) (physWriteAt (s.flatPlan kind sel d).linkAddrs s.tr.sel.toNat) ()
    (s.withMem (s.freedMem kind ret rf)) = .ok () (s.withMem (s.linkedMem kind ret rf d)) := by
  refine ifNeeded_withMem fun nest => ?_
  have place : (s.flatPlan kind sel d).linkAddrs = linearSpan (descBase d + BitVec.ofNat 32 0) 2 :=
    (if_pos nest).trans (by rw [BitVec.add_zero])
  rw [place]
  exact physWriteAt_flat flat _ _ 2 _

/-- The new task's busy bit is set (43_tasks.md R540). -/
theorem takeNewTask_flat : ifNeeded (¬kind = .iret) (updateByte (s.flatPlan kind sel d).newBusy 0 2) ()
    (s.withMem (s.linkedMem kind ret rf d)) = .ok () (s.withMem (s.takenMem kind ret rf sel d)) := by
  rw [State.takenMem, ← ite_not]
  refine ifNeeded_withMem fun stays => ?_
  have place : (s.flatPlan kind sel d).newBusy = s.busyAddrs sel := if_neg stays
  have low : valueAt (s.linkedMem kind ret rf d) s.gdtr.base (8 * selIndex sel + 5) 1 &&& 255 = _ :=
    (Nat.and_two_pow_sub_one_eq_mod _ 8).trans (Nat.mod_eq_of_lt (valueAt_byte_lt _ _ _))
  have set := updateByte_flat flat (s.linkedMem kind ret rf d) s.gdtr.base (8 * selIndex sel + 5) 0 2
  rw [Nat.sub_zero, low] at set
  rw [place]
  exact set

/-- Phases B and C while paging is off (43_tasks.md R545). -/
theorem commitSwitch_flat : commitSwitch kind sel (s.flatPlan kind sel d) ret rf s =
    .ok (s.newValues kind ret rf d) (s.committed kind ret rf sel d) := by
  rw [commitSwitch_eq]
  refine (run_bind_ok (writeFields_flat flat s.mem _ _ _)).trans ?_
  refine (run_bind_ok (freeOldTask_flat flat)).trans ?_
  refine (run_bind_ok (readFields_flat flat _ _ _)).trans ?_
  exact (run_bind_ok (linkNewTask_flat flat)).trans (run_bind_ok (takeNewTask_flat flat))

end commit
end Sys2Proof.Machine
end

section
/-! The segments of a new task while paging is off (43_tasks.md R547, R564): what the loads of all six leave, register by
register, and the marks in the descriptors. -/

namespace Sys2Proof.Machine

open Sys2Proof

section relation
variable {rs qs : List SegReg} {s t u : State}

/-- `t` is `s` with the segment registers of a list loaded from the selectors they hold, and their descriptors marked accessed. -/
structure TaskLoaded (rs : List SegReg) (s t : State) : Prop where
  frame : t = { s with es := t.es, cs := t.cs, ss := t.ss, ds := t.ds, fs := t.fs, gs := t.gs, mem := t.mem }
  sel : ∀ r, (t.seg r).sel = (s.seg r).sel
  others : ∀ r, r ∉ rs → t.seg r = s.seg r
  marks : ∀ a, t.byteAt a = s.byteAt a ∨ t.byteAt a = s.byteAt a ||| 1 ∧ ∃ r, a = (s.descAddr (s.seg r).sel 5).toNat
  wf : Memory.wf s.mem = true → Memory.wf t.mem = true

theorem TaskLoaded.refl (rs : List SegReg) (s : State) : TaskLoaded rs s s :=
  ⟨rfl, fun _ => rfl, fun _ _ => rfl, fun _ => .inl rfl, id⟩

theorem TaskLoaded.descAddr (h : TaskLoaded rs s t) (sel : Word16) (off : Nat) : t.descAddr sel off = s.descAddr sel off := by
  rw [h.frame]
  rfl

theorem TaskLoaded.flat (h : TaskLoaded rs s t) (flat : s.Flat) : t.Flat := by
  rw [h.frame]
  exact ⟨flat.pg, flat.map⟩

theorem TaskLoaded.trans (first : TaskLoaded rs s t) (second : TaskLoaded qs t u) : TaskLoaded (rs ++ qs) s u where
  frame := by
    have same := second.frame
    rw [first.frame] at same
    exact same
  sel r := (second.sel r).trans (first.sel r)
  others r hr := by
    rw [List.mem_append, not_or] at hr
    exact (second.others r hr.2).trans (first.others r hr.1)
  marks a := by
    rcases second.marks a with later | ⟨later, r, hr⟩
    · rw [later]
      exact first.marks a
    · rw [first.descAddr, first.sel] at hr
      refine .inr ⟨?_, r, hr⟩
      rcases first.marks a with before | ⟨before, -⟩
      · rw [later, before]
      · rw [later, before, BitVec.or_assoc, BitVec.or_self]
  wf := second.wf ∘ first.wf

end relation

section marked
variable {r : SegReg} {sel : Word16} {d : Desc} {s t v w : State} {a : List Nat}

/-- The mark of a descriptor changes its access-rights byte at most (21_segmentation.md R199). -/
theorem markAccessed_flat (flat : s.Flat) (probed : probeAccessed sel d s = .ok a v) (marked : commitAccessed a v = .ok () w) :
    ∃ m, w = s.withMem m ∧ (Memory.wf s.mem = true → Memory.wf m = true) ∧ ∀ x, cellByte m x = s.byteAt x ∨
      cellByte m x = s.byteAt x ||| 1 ∧ x = (s.descAddr sel 5).toNat := by
  cases marks : marksAccessed s.params d with
  | false =>
    cases (probeAccessed_unmarked marks).symm.trans probed
    cases (commitAccessed_nil s).symm.trans marked
    exact ⟨s.mem, rfl, id, fun _ => .inl rfl⟩
  | true =>
    cases ((probeAccessed_marked marks).trans (linAddrs_unpaged flat.pg _ 1 _)).symm.trans probed
    cases (commitAccessed_ram (allRam_of_empty flat.map [_] _ List.mem_cons_self)).symm.trans marked
    refine ⟨_, rfl, wf_setCell _ _ _, fun x => ?_⟩
    by_cases same : x = (s.descAddr sel 5).toNat
    · refine .inr ⟨?_, same⟩
      rw [same]
      refine cellByte_setCell_of_ne_zero _ _ fun zero => ?_
      have set := congrArg (·.getLsbD 0) zero
      simp at set
    · exact .inl (cellByte_setCell_other _ _ _ _ same)

/-- The end of a load: the register, from the descriptor. -/
theorem loadMarked_flat (flat : s.Flat) (h : loadMarked r (s.seg r).sel d s = .ok () t) :
    TaskLoaded [r] s t ∧ t.seg r = segFrom (s.seg r).sel d := by
  obtain ⟨a, v, probed, rest⟩ := run_bind_eq_ok.mp h
  obtain ⟨_, w, marked, rest⟩ := run_bind_eq_ok.mp rest
  obtain ⟨m, rfl, wf, marks⟩ := markAccessed_flat flat probed marked
  cases rest
  have kept : ∀ q, (s.withMem m).seg q = s.seg q := fun q => by cases q <;> rfl
  refine ⟨⟨by cases r <;> rfl, fun q => ?_, fun q other => ?_, fun x => ?_, fun h => ?_⟩, State.setSeg_seg_same _ _ _⟩
  · by_cases same : q = r
    · rw [same, State.setSeg_seg_same]
      rfl
    · rw [State.setSeg_seg_other _ _ _ _ same, kept]
  · rw [State.setSeg_seg_other _ _ _ _ (by simpa using other), kept]
  · rw [State.byteAt, State.setSeg_mem]
    exact (marks x).imp id fun ⟨set, place⟩ => ⟨set, r, place⟩
  · rw [State.setSeg_mem]
    exact wf h

end marked

/-- The mark does not make a segment code or data (21_segmentation.md R198). -/
@[simp] theorem isCode_withAccessed (g : Attr) : isCode (withAccessed g) = isCode g := by
  cases hs : g.s <;> simp [withAccessed, isCode, hs]

section loads
variable {level : BitVec 2} {ext : Bool} {r : SegReg} {s t : State}

theorem calm_readDescriptor (sel : Word16) : Calm (readDescriptor sel) :=
  calm_bind calm_get fun _ => calm_ite (calm_tableRead _ _ _ _) (calm_tableRead _ _ _ _)

/-- A code segment that was loaded suits the task. -/
theorem loadTaskCs_eq_ok (h : loadTaskCs level ext s = .ok () t) : ∃ d u, readDescriptor s.cs.sel s = .ok (some d) u ∧
    SuitsTaskCode level d ∧ loadMarked .cs s.cs.sel d u = .ok () t := by
  cases null : isNull s.cs.sel with
  | true => cases (loadTaskCs_null null).symm.trans h
  | false =>
    cases read : readDescriptor s.cs.sel s with
    | error e u => cases (loadTaskCs_error null read).symm.trans h
    | ok o u =>
      cases o with
      | none => cases (loadTaskCs_none null read).symm.trans h
      | some d =>
        by_cases suits : SuitsTaskCode level d
        · rw [loadTaskCs_suited null read suits] at h
          split at h
          · exact ⟨d, u, rfl, suits, h⟩
          · cases h
        · cases (loadTaskCs_unsuited null read suits).symm.trans h

theorem loadTaskSs_eq_ok (h : loadTaskSs level ext s = .ok () t) : ∃ d u, checkSs s.ss.sel level .ts ext s = .ok d u ∧
    loadMarked .ss s.ss.sel d u = .ok () t := by
  cases checked : checkSs s.ss.sel level .ts ext s with
  | error e u => cases (loadTaskSs_error checked).symm.trans h
  | ok d u => exact ⟨d, u, rfl, (loadTaskSs_checked checked).symm.trans h⟩

/-- A data-segment register is left null, or loaded. -/
theorem loadTaskData_eq_ok (h : loadTaskData level ext r s = .ok () t) : isNull (s.seg r).sel = true ∧ t = s ∨
    isNull (s.seg r).sel = false ∧ ∃ d u, readDescriptor (s.seg r).sel s = .ok (some d) u ∧
      loadMarked r (s.seg r).sel d u = .ok () t := by
  cases null : isNull (s.seg r).sel with
  | true =>
    cases (loadTaskData_null null).symm.trans h
    exact .inl ⟨rfl, rfl⟩
  | false =>
    cases read : readDescriptor (s.seg r).sel s with
    | error e u => cases (loadTaskData_error null read).symm.trans h
    | ok o u =>
      cases o with
      | none => cases (loadTaskData_none null read).symm.trans h
      | some d =>
        cases reads : readable (descAttr d) with
        | false => cases (loadTaskData_unreadable null read reads).symm.trans h
        | true =>
          rw [loadTaskData_readable null read reads] at h
          split_ifs at h
          · exact .inr ⟨rfl, d, u, rfl, h⟩
          · cases h
          · cases h

variable (flat : s.Flat)
include flat

theorem loadTaskCs_flat (h : loadTaskCs level ext s = .ok () t) :
    TaskLoaded [.cs] s t ∧ t.cs.valid = true ∧ isCode t.cs.attr = true := by
  obtain ⟨d, u, read, ⟨code, -⟩, loaded⟩ := loadTaskCs_eq_ok h
  cases calm_readDescriptor _ flat read
  obtain ⟨load, cs⟩ := loadMarked_flat (r := .cs) flat loaded
  have cs : t.cs = segFrom s.cs.sel d := cs
  rw [cs]
  exact ⟨load, rfl, (isCode_withAccessed _).trans code⟩

theorem loadTaskSs_flat (h : loadTaskSs level ext s = .ok () t) : TaskLoaded [.ss] s t ∧ t.ss.valid = true ∧
    writable t.ss.attr = true ∧ rpl t.ss.sel = level ∧ t.ss.attr.dpl = level := by
  obtain ⟨d, u, checked, loaded⟩ := loadTaskSs_eq_ok h
  cases calm_checkSs _ _ _ _ flat checked
  obtain ⟨-, -, ⟨rpl, write, dpl⟩, -⟩ := checkSs_eq_ok checked
  obtain ⟨load, ss⟩ := loadMarked_flat (r := .ss) flat loaded
  have ss : t.ss = segFrom s.ss.sel d := ss
  rw [ss]
  exact ⟨load, rfl, (writable_withAccessed _).trans write, rpl, (withAccessed_dpl _).trans dpl⟩

theorem loadTaskData_flat (h : loadTaskData level ext r s = .ok () t) :
    TaskLoaded [r] s t ∧ ((s.seg r).valid = false → (t.seg r).valid = !isNull (t.seg r).sel) := by
  rcases loadTaskData_eq_ok h with ⟨null, rfl⟩ | ⟨notNull, d, u, read, loaded⟩
  · exact ⟨.refl _ _, fun invalid => by rw [invalid, null]; rfl⟩
  · cases calm_readDescriptor _ flat read
    obtain ⟨load, seg⟩ := loadMarked_flat flat loaded
    refine ⟨load, fun _ => ?_⟩
    rw [seg, segFrom, notNull]
    rfl

/-- LDTR is left null, or loaded. -/
theorem loadTaskLdt_flat (h : loadTaskLdt ext s = .ok () t) : ∃ g : SegState, t = { s with ldtr := g } ∧ g.sel = s.ldtr.sel ∧
    (s.ldtr.valid = false → g.valid = !isNull g.sel) := by
  rcases loadTaskLdt_eq_ok h with ⟨null, rfl⟩ | ⟨notNull, d, u, read, rfl⟩
  · exact ⟨_, rfl, rfl, fun invalid => by rw [invalid, null]; rfl⟩
  · cases calm_tableRead _ _ _ _ flat read
    exact ⟨_, rfl, rfl, fun _ => by rw [notNull]; rfl⟩

end loads

section all
variable {ext : Bool} {s t : State}

/-- The segments of a task in protected mode: CS is code, SS writable data of the level of CS, and each other register null or valid
(43_tasks.md R547). -/
def State.SegmentsChecked (t : State) : Prop :=
  t.cs.valid = true ∧ isCode t.cs.attr = true ∧ t.ss.valid = true ∧ writable t.ss.attr = true ∧
    rpl t.ss.sel = rpl t.cs.sel ∧ t.ss.attr.dpl = rpl t.cs.sel ∧ ∀ g ∈ [t.es, t.ds, t.fs, t.gs], g.valid = !isNull g.sel

/-- The six registers. -/
def allSegs : List SegReg := [.cs, .ss, .es, .ds, .fs, .gs]

/-- The loads of the six registers, one after another. -/
theorem loadSix_flat {level : BitVec 2} (flat : s.Flat) (invalid : ∀ r, (s.seg r).valid = false) (hlevel : level = rpl s.cs.sel)
    (h : (do
      loadTaskCs level ext
      loadTaskSs level ext
      loadTaskData level ext .es
      loadTaskData level ext .ds
      loadTaskData level ext .fs
      loadTaskData level ext .gs : M Unit) s = .ok () t) : TaskLoaded allSegs s t ∧ t.SegmentsChecked := by
  obtain ⟨_, t1, cs, h⟩ := run_bind_eq_ok.mp h
  obtain ⟨_, t2, ss, h⟩ := run_bind_eq_ok.mp h
  obtain ⟨_, t3, es, h⟩ := run_bind_eq_ok.mp h
  obtain ⟨_, t4, ds, h⟩ := run_bind_eq_ok.mp h
  obtain ⟨_, t5, fs, gs⟩ := run_bind_eq_ok.mp h
  obtain ⟨load1, code⟩ := loadTaskCs_flat flat cs
  obtain ⟨load2, stack⟩ := loadTaskSs_flat (load1.flat flat) ss
  have until2 := load1.trans load2
  obtain ⟨load3, nullEs⟩ := loadTaskData_flat (until2.flat flat) es
  have until3 := until2.trans load3
  obtain ⟨load4, nullDs⟩ := loadTaskData_flat (until3.flat flat) ds
  have until4 := until3.trans load4
  obtain ⟨load5, nullFs⟩ := loadTaskData_flat (until4.flat flat) fs
  have until5 := until4.trans load5
  obtain ⟨load6, nullGs⟩ := loadTaskData_flat (until5.flat flat) gs
  have from5 := load5.trans load6
  have from4 := load4.trans from5
  have from3 := load3.trans from4
  have from2 := load2.trans from3
  refine ⟨until5.trans load6, ?_⟩
  have hcs : t.cs = t1.cs := from2.others .cs (by decide)
  have hss : t.ss = t2.ss := from3.others .ss (by decide)
  have hes : t.es = t3.es := from4.others .es (by decide)
  have hds : t.ds = t4.ds := from5.others .ds (by decide)
  have hfs : t.fs = t5.fs := load6.others .fs (by decide)
  have rplCs : rpl t1.cs.sel = level := by rw [hlevel]; exact congrArg rpl (load1.sel .cs)
  obtain ⟨csValid, csCode⟩ := code
  obtain ⟨ssValid, ssWrite, ssRpl, ssDpl⟩ := stack
  rw [State.SegmentsChecked, hcs, hss, hes, hds, hfs, rplCs]
  refine ⟨csValid, csCode, ssValid, ssWrite, ssRpl, ssDpl, ?_⟩
  simp only [List.forall_mem_cons, List.not_mem_nil, false_imp_iff, implies_true, and_true]
  exact ⟨nullEs ((congrArg _ (until2.others .es (by decide))).trans (invalid .es)),
    nullDs ((congrArg _ (until3.others .ds (by decide))).trans (invalid .ds)),
    nullFs ((congrArg _ (until4.others .fs (by decide))).trans (invalid .fs)),
    nullGs ((congrArg _ (until5.others .gs (by decide))).trans (invalid .gs))⟩

/-- What the loads of a task's segments leave (43_tasks.md R547, R564). -/
theorem loadTaskSegments_flat (flat : s.Flat) (invalid : ∀ r, (s.seg r).valid = false)
    (h : loadTaskSegments ext s = .ok () t) : ∃ g : SegState, g.sel = s.ldtr.sel ∧
      (s.ldtr.valid = false → g.valid = !isNull g.sel) ∧ TaskLoaded allSegs { s with ldtr := g } t ∧
      (s.vm = true → ∀ r, t.seg r = v86Seg (s.seg r).sel) ∧ (s.vm = false → t.SegmentsChecked) := by
  cases loaded : loadTaskLdt ext s with
  | error e u => cases (loadTaskSegments_error loaded).symm.trans h
  | ok a u =>
    obtain ⟨g, rfl, sel, valid⟩ := loadTaskLdt_flat flat loaded
    refine ⟨g, sel, valid, ?_⟩
    have kept : ∀ r, State.seg { s with ldtr := g } r = s.seg r := fun r => by cases r <;> rfl
    cases mode : s.vm with
    | true =>
      cases (loadTaskSegments_v86 loaded mode).symm.trans h
      refine ⟨⟨rfl, fun r => by cases r <;> rfl, fun r other => absurd (by cases r <;> decide) other, fun _ => .inl rfl, id⟩,
        fun _ r => by cases r <;> rfl, fun no => by cases no⟩
    | false =>
      rw [loadTaskSegments_checked loaded mode] at h
      obtain ⟨load, checked⟩ := loadSix_flat (s := { s with ldtr := g }) ⟨flat.pg, flat.map⟩
        (fun r => (congrArg _ (kept r)).trans (invalid r)) rfl h
      exact ⟨load, fun no => by (cases no), fun _ => checked⟩

end all
end Sys2Proof.Machine
end

section
/-! The start of a new task (43_tasks.md R544, R545 phase D, R553): the images its registers are loaded from, its exceptions,
and, while paging is off, the state it starts in. -/

namespace Sys2Proof.Machine

open Sys2Proof

section registers
variable {kind : SwitchKind} {wide : Bool} {cr3new image : Word32} {vs : List Nat} {s : State}

/-- A general register holds what the TSS gave it, of which a 16-bit TSS gives the low half (43_tasks.md R525, U27). -/
def State.HoldsReg (t : State) (wide : Bool) (vs : List Nat) (r : Reg) (i : Nat) : Prop :=
  if wide = true then t.reg r = word vs i else lo16 (t.reg r) = half vs i

/-- The general registers, with the places of their values among the fields of a TSS (43_tasks.md R521, R525). -/
def gprPlaces : List (Reg × Nat) :=
  [(.eax, 2), (.ecx, 3), (.edx, 4), (.ebx, 5), (.esp, 6), (.ebp, 7), (.esi, 8), (.edi, 9)]

/-- The load of the general registers uses free values at most (43_tasks.md R525, U27). -/
theorem loadGprs_eq (wide : Bool) (vs : List Nat) (s : State) : ∃ g n, loadGprs wide vs s = .ok g { s with free := n } ∧
    ∀ x ∈ gprPlaces, ∀ t : State, t.gpr = g → t.HoldsReg wide vs x.1 x.2 := by
  cases wide with
  | true =>
    refine ⟨_, s.free, rfl, ?_⟩
    simp only [gprPlaces, List.forall_mem_cons]
    refine ⟨?_, ?_, ?_, ?_, ?_, ?_, ?_, ?_, by simp⟩ <;> (rintro t h; rw [State.HoldsReg, State.reg, h]; rfl)
  | false =>
    refine ⟨_, s.free + 8, rfl, ?_⟩
    simp only [gprPlaces, List.forall_mem_cons]
    refine ⟨?_, ?_, ?_, ?_, ?_, ?_, ?_, ?_, by simp⟩ <;>
      (rintro t h; rw [State.HoldsReg, State.reg, h]; exact lo16_setLo16 _ _)

/-- The images of EFLAGS and, where it is loaded, CR3 are admitted (00_scope.md R8, U1; log entry 22). -/
def State.AdmitsTask (s : State) (wide : Bool) (cr3new image : Word32) : Prop :=
  admitsImage s.params wide image ∧ (s.taskLoadsCr3 wide = true → admitsCr3 s cr3new)

theorem admitsTask_iff : s.AdmitsTask wide cr3new image ↔ s.params.reservedWrites = .keep ∨
    (eflagsAsRead s.params wide image && (!s.taskLoadsCr3 wide || cr3AsRead s.cr4Pae cr3new)) = true := by
  rw [State.AdmitsTask, ← eflagsAsRead_iff, ← cr3AsRead_iff]
  cases s.taskLoadsCr3 wide with
  | true => simp; tauto
  | false => simp

theorem requireTaskImages_admitted (admits : s.AdmitsTask wide cr3new image) :
    requireTaskImages wide cr3new image s = .ok () s := requireAsRead_ok (admitsTask_iff.mp admits)

theorem requireTaskImages_refused (refused : ¬s.AdmitsTask wide cr3new image) :
    requireTaskImages wide cr3new image s = .error (.refuse .reservedBits) s := by
  rw [admitsTask_iff, not_or, Bool.not_eq_true] at refused
  exact requireAsRead_no refused.1 refused.2

theorem admits_of_requireTaskImages {a : Unit} {t : State} (h : requireTaskImages wide cr3new image s = .ok a t) :
    s.AdmitsTask wide cr3new image := by
  by_contra refused
  cases (requireTaskImages_refused refused).symm.trans h

end registers

section rest
variable {kind : SwitchKind} {wide ext : Bool} {cr3new : Word32} {vs : List Nat} {code : Option Word32} {g : GprFile}
  {s t u v w : State} {e : Err} {x : Exn}

/-- The rest of phase D once the registers are loaded: the segments, the target, the error code, the trap (43_tasks.md R545). -/
def beginTask (wide ext : Bool) (vs : List Nat) (code : Option Word32) : M Unit := do
  afterCommit do
    loadTaskSegments ext
    let s ← get
    checkTarget s.cs.limit s.eip ext
    pushTaskCode wide ext code
  modify (fun s => s.trapTask (trapBit wide vs))

theorem startTask_refused (registers : loadGprs wide vs s = .ok g u) (refused : ¬u.AdmitsTask wide cr3new (word vs 1)) :
    startTask kind wide cr3new vs ext code s = .error (.refuse .reservedBits) u :=
  (run_bind_ok registers).trans (run_bind_error (requireTaskImages_refused refused))

theorem startTask_admitted (registers : loadGprs wide vs s = .ok g u) (admits : u.AdmitsTask wide cr3new (word vs 1)) :
    startTask kind wide cr3new vs ext code s = beginTask wide ext vs code (u.enterTask kind wide cr3new vs g) :=
  (run_bind_ok registers).trans (run_bind_ok (requireTaskImages_admitted admits))

theorem afterCommit_ok {m : M Unit} (h : m s = .ok () t) : afterCommit m s = .ok () t := by simp [afterCommit, h]

theorem afterCommit_exn {m : M Unit} (h : m s = .error (.exn x) t) :
    afterCommit m s = .error (.exn { x with committed := true }) t := by simp [afterCommit, h]

/-- An exception of the loads is one of the new task (43_tasks.md R544). -/
theorem beginTask_stops (stops : loadTaskSegments ext w = .error (.exn x) v) :
    beginTask wide ext vs code w = .error (.exn { x with committed := true }) v :=
  run_bind_error (afterCommit_exn (run_bind_error stops))

variable (loaded : loadTaskSegments ext w = .ok () v)
include loaded

theorem beginTask_beyond (beyond : v.cs.limit.toNat < v.eip.toNat) :
    beginTask wide ext vs code w = .error (.exn ⟨.gp, some (selectorErrorCode 0 ext), true⟩) v := by
  refine run_bind_error (afterCommit_exn (x := ⟨.gp, some (selectorErrorCode 0 ext), false⟩) ?_)
  rw [run_bind_ok loaded, run_bind_ok (run_get v)]
  exact run_bind_error (by simp [checkTarget, beyond])

variable (within : v.eip.toNat ≤ v.cs.limit.toNat)
include within

theorem beginTask_pushStops (stops : pushTaskCode wide ext code v = .error (.exn x) u) :
    beginTask wide ext vs code w = .error (.exn { x with committed := true }) u := by
  refine run_bind_error (afterCommit_exn ?_)
  rw [run_bind_ok loaded, run_bind_ok (run_get v), run_bind_ok (checkTarget_ok within), stops]

theorem beginTask_ok (pushed : pushTaskCode wide ext code v = .ok () u) :
    beginTask wide ext vs code w = .ok () (u.trapTask (trapBit wide vs)) := by
  refine run_bind_ok (afterCommit_ok ?_)
  rw [run_bind_ok loaded, run_bind_ok (run_get v), run_bind_ok (checkTarget_ok within), pushed]

end rest

section push
variable {wide ext : Bool} {code : Option Word32} {c : Word32} {b : Nat} {s t : State}

/-- Where an error code of `b` bytes is pushed (42_control_transfer.md R452). -/
def State.codeOffset (s : State) (b : Nat) : Word32 := spAfter s.ss.attr.db (s.reg .esp) b 1

/-- The state once an error code is pushed while paging is off (43_tasks.md R553). -/
def State.pushTask (s : State) (b : Nat) : Option Word32 → State
  | none => s
  | some c => State.setSp (s.withMem (setCells s.mem (linearSpan (s.ss.base + s.codeOffset b) b) (bytesOf b c.toNat)))
      (s.codeOffset b)

section fields
variable (s b code)

@[simp] theorem State.pushTask_eip : (s.pushTask b code).eip = s.eip := by cases code <;> rfl
@[simp] theorem State.pushTask_eflags : (s.pushTask b code).eflags = s.eflags := by cases code <;> rfl
@[simp] theorem State.pushTask_es : (s.pushTask b code).es = s.es := by cases code <;> rfl
@[simp] theorem State.pushTask_cs : (s.pushTask b code).cs = s.cs := by cases code <;> rfl
@[simp] theorem State.pushTask_ss : (s.pushTask b code).ss = s.ss := by cases code <;> rfl
@[simp] theorem State.pushTask_ds : (s.pushTask b code).ds = s.ds := by cases code <;> rfl
@[simp] theorem State.pushTask_fs : (s.pushTask b code).fs = s.fs := by cases code <;> rfl
@[simp] theorem State.pushTask_gs : (s.pushTask b code).gs = s.gs := by cases code <;> rfl
@[simp] theorem State.pushTask_gdtr : (s.pushTask b code).gdtr = s.gdtr := by cases code <;> rfl
@[simp] theorem State.pushTask_ldtr : (s.pushTask b code).ldtr = s.ldtr := by cases code <;> rfl
@[simp] theorem State.pushTask_cr3 : (s.pushTask b code).cr3 = s.cr3 := by cases code <;> rfl
@[simp] theorem State.pushTask_tlb : (s.pushTask b code).tlb = s.tlb := by cases code <;> rfl
@[simp] theorem State.pushTask_dbPending : (s.pushTask b code).dbPending = s.dbPending := by cases code <;> rfl

theorem State.pushTask_reg {r : Reg} (other : r ≠ .esp) : (s.pushTask b code).reg r = s.reg r := by
  cases code with
  | none => rfl
  | some c => exact State.setReg_reg_other _ _ _ _ other

end fields

theorem pushQuiet_noRoom {v : Nat} (full : segOk s.protectedMode s.ss (s.codeOffset b) b true = false) :
    pushQuiet b v ext s = .error (.exn ⟨.ss, some (selectorErrorCode 0 ext), false⟩) s := by
  rw [State.codeOffset] at full
  simp [pushQuiet, full]

theorem pushQuiet_flat (flat : s.Flat) (room : segOk s.protectedMode s.ss (s.codeOffset b) b true = true) (c : Word32) :
    pushQuiet b c.toNat ext s = .ok () (s.pushTask b (some c)) := by
  have written := physWriteAt_flat flat s.mem (s.ss.base + s.codeOffset b) b c.toNat
  rw [State.codeOffset] at room
  rw [pushQuiet, run_bind_ok (run_get s)]
  simp only [room, Bool.not_true, Bool.false_eq_true, if_false]
  rw [run_bind_ok (linAddrs_unpaged flat.pg _ _ _)]
  exact run_bind_ok written

/-- With paging off the push that completes is the push of the code, if there is one. -/
theorem pushTaskCode_flat (flat : s.Flat) (h : pushTaskCode wide ext code s = .ok () t) :
    t = s.pushTask (if wide = true then 4 else 2) code := by
  cases code with
  | none => cases h; rfl
  | some c =>
    cases room : segOk s.protectedMode s.ss (s.codeOffset (if wide = true then 4 else 2)) (if wide = true then 4 else 2) true with
    | true => cases (pushQuiet_flat flat room c).symm.trans h; rfl
    | false => cases (pushQuiet_noRoom room).symm.trans h

theorem pushTask_sp (c : Word32) : (s.pushTask b (some c)).sp = s.codeOffset b :=
  (State.setSp_sp _ _).trans (spOf_spAfter _ _ _ _)

/-- The error code stands where it was pushed (43_tasks.md R553). -/
theorem ofBytes_pushTask (wf : Memory.wf s.mem = true) (small : b ≤ 4) (c : Word32) :
    ofBytes ((linearSpan (s.ss.base + s.codeOffset b) b).map (s.pushTask b (some c)).byteAt) = c.toNat % 256 ^ b := by
  have bytes := map_cellByte_setCells (nodup_linearSpan (la := s.ss.base + s.codeOffset b) (by omega)) wf
    ((bytesOf_length b c.toNat).trans (linearSpan_length _ b).symm)
  rw [← ofBytes_bytesOf, ← bytes]
  rfl

end push
end Sys2Proof.Machine
end

section
/-! A task switch while paging is off (43_tasks.md R543 to R553): the state in which the new task's segments are loaded, and
the state it completes in. -/

namespace Sys2Proof.Machine

open Sys2Proof

section held
variable {kind : SwitchKind} {wide : Bool} {cr3new : Word32} {vs : List Nat} {s t u : State}

/-- The selectors of the new task, of which FS and GS are null from a 16-bit TSS (43_tasks.md R525, R547). -/
def taskSel (wide : Bool) (vs : List Nat) : SegReg → Word16
  | .es => half vs 10
  | .cs => half vs 11
  | .ss => half vs 12
  | .ds => half vs 13
  | .fs => if wide then half vs 14 else 0
  | .gs => if wide then half vs 15 else 0

/-- `t` holds what a switch from `s` loads from the values of the new TSS, but for ESP, which the push of an error code moves
(43_tasks.md R545, R548, R552). -/
structure State.HoldsTask (t s : State) (kind : SwitchKind) (wide : Bool) (cr3new : Word32) (vs : List Nat) : Prop where
  eip : t.eip = word vs 0
  eflags : t.eflags = taskEflags s.params kind (word vs 1)
  gprs : ∀ x ∈ gprPlaces, x.1 ≠ .esp → t.HoldsReg wide vs x.1 x.2
  sels : ∀ r, (t.seg r).sel = taskSel wide vs r
  ldtr : t.ldtr.sel = half vs (if wide then 16 else 14)
  cr3 : t.cr3 = if s.taskLoadsCr3 wide = true then cr3Value s.cr4Pae cr3new else s.cr3

theorem State.HoldsReg.congr {r : Reg} {i : Nat} (h : u.HoldsReg wide vs r i) (same : t.reg r = u.reg r) :
    t.HoldsReg wide vs r i := by
  unfold State.HoldsReg
  rwa [same]

/-- A register that holds its value holds its low half. -/
theorem State.HoldsReg.low {r : Reg} {i : Nat} (h : t.HoldsReg false vs r i) : lo16 (t.reg r) = half vs i := h

theorem State.HoldsTask.congr (h : u.HoldsTask s kind wide cr3new vs) (eip : t.eip = u.eip) (eflags : t.eflags = u.eflags)
    (gprs : ∀ r, r ≠ .esp → t.reg r = u.reg r) (sels : ∀ r, (t.seg r).sel = (u.seg r).sel) (ldtr : t.ldtr.sel = u.ldtr.sel)
    (cr3 : t.cr3 = u.cr3) : t.HoldsTask s kind wide cr3new vs :=
  ⟨eip.trans h.eip, eflags.trans h.eflags, fun x hx other => (h.gprs x hx other).congr (gprs _ other),
    fun r => (sels r).trans (h.sels r), ldtr.trans h.ldtr, cr3.trans h.cr3⟩

end held

section entered
variable {kind : SwitchKind} {sel : Word16} {ret : Word32} {ext rf : Bool} {d : Desc} {code : Option Word32} {s t w : State}

/-- CR3 of the new TSS, where it is a 32-bit one. -/
theorem flatPlan_cr3new (wide : gate32 d = true) :
    (s.flatPlan kind sel d).cr3new = BitVec.ofNat 32 (valueAt s.mem (descBase d) 0x1C 4) :=
  congrArg (BitVec.ofNat 32) (if_pos wide)

/-- With paging off CR3 is loaded from a 32-bit TSS, unless the implementation loads it only under paging (43_tasks.md R548,
U26). -/
theorem taskLoadsCr3_flat (flat : s.Flat) (wide : Bool) :
    s.taskLoadsCr3 wide = true ↔ wide = true ∧ s.params.taskCr3IfPg = false := by
  simp [State.taskLoadsCr3, flat.pg]

/-- `w` is the state of a switch from `s` once the registers of the new task are loaded, and before its segments are checked. -/
structure State.Entered (s w : State) (kind : SwitchKind) (sel : Word16) (ret : Word32) (rf : Bool) (d : Desc) : Prop where
  holds : w.HoldsTask s kind (gate32 d) (s.flatPlan kind sel d).cr3new (s.newValues kind ret rf d)
  esp : w.HoldsReg (gate32 d) (s.newValues kind ret rf d) .esp 6
  mem : w.mem = s.takenMem kind ret rf sel d
  tr : w.tr = ⟨sel, descBase d, descLimit d, tssAttr d, true⟩
  cr0 : w.cr0 = s.cr0 ||| 8
  gdtr : w.gdtr = s.gdtr
  params : w.params = s.params
  invalid : ∀ r, (w.seg r).valid = false
  ldtrInvalid : w.ldtr.valid = false
  tlb : ∀ e, e ∈ w.tlb ↔ e ∈ s.tlb ∧ (s.taskLoadsCr3 (gate32 d) = true → e.global = true ∧ s.cr4Pge = true)
  bt : w.dbPending.bt = s.dbPending.bt

theorem State.Entered.ts (h : s.Entered w kind sel ret rf d) : w.ts = true := by
  rw [State.ts, h.cr0]
  exact bit_setBit_same s.cr0 (n := 3) (by decide) true

theorem State.Entered.flat (h : s.Entered w kind sel ret rf d) (flat : s.Flat) : w.Flat where
  pg := by
    rw [State.pg, h.cr0]
    exact (bit_setBit_other s.cr0 3 31 true (by decide)).trans flat.pg
  map := by rw [h.params, flat.map]

theorem committed_taskLoadsCr3 (n : Nat) (wide : Bool) :
    State.taskLoadsCr3 { s.committed kind ret rf sel d with free := n } wide = s.taskLoadsCr3 wide :=
  congrArg (fun pg => wide && (pg || !s.params.taskCr3IfPg)) (bit_setBit_other s.cr0 3 31 true (by decide))

theorem committed_admitsTask (n : Nat) (wide : Bool) (cr3new image : Word32) :
    State.AdmitsTask { s.committed kind ret rf sel d with free := n } wide cr3new image ↔ s.AdmitsTask wide cr3new image := by
  unfold State.AdmitsTask
  rw [committed_taskLoadsCr3]
  rfl

theorem enterTask_entered {g : GprFile} (n : Nat)
    (hg : ∀ x ∈ gprPlaces, ∀ t : State, t.gpr = g → t.HoldsReg (gate32 d) (s.newValues kind ret rf d) x.1 x.2) :
    s.Entered (State.enterTask { s.committed kind ret rf sel d with free := n } kind (gate32 d) (s.flatPlan kind sel d).cr3new
      (s.newValues kind ret rf d) g) kind sel ret rf d where
  holds := ⟨rfl, rfl, fun x hx _ => hg x hx _ rfl, fun r => by cases r <;> rfl, rfl,
    by rw [State.enterTask_cr3, committed_taskLoadsCr3]; rfl⟩
  esp := hg (.esp, 6) (by decide) _ rfl
  mem := State.enterTask_mem ..
  tr := State.enterTask_tr ..
  cr0 := State.enterTask_cr0 ..
  gdtr := State.enterTask_gdtr ..
  params := State.enterTask_params ..
  invalid r := by cases r <;> rfl
  ldtrInvalid := rfl
  tlb e := by
    rw [State.enterTask_tlb, committed_taskLoadsCr3]
    split
    · next loads => exact (mem_flushTlb _ e).trans (and_congr_right' ⟨fun h _ => h, fun h => h loads⟩)
    · next keeps => exact ⟨fun h => ⟨h, fun loads => absurd loads keeps⟩, fun h => h.1⟩
  bt := rfl

/-- A switch that may leave its task comes to the start of the new one, unless the images are refused (43_tasks.md R545). -/
theorem taskSwitch_enters (flat : s.Flat) (fetched : fetchTss sel kind ext s = .ok d s) (leaves : s.CanLeave kind) :
    ∃ w, s.Entered w kind sel ret rf d ∧
      (¬s.AdmitsTask (gate32 d) (s.flatPlan kind sel d).cr3new (word (s.newValues kind ret rf d) 1) →
        ∃ z, taskSwitch kind sel ret ext rf code s = .error (.refuse .reservedBits) z) ∧
      (s.AdmitsTask (gate32 d) (s.flatPlan kind sel d).cr3new (word (s.newValues kind ret rf d) 1) →
        taskSwitch kind sel ret ext rf code s = beginTask (gate32 d) ext (s.newValues kind ret rf d) code w) := by
  obtain ⟨g, n, registers, hg⟩ := loadGprs_eq (gate32 d) (s.newValues kind ret rf d) (s.committed kind ret rf sel d)
  have starts : taskSwitch kind sel ret ext rf code s = startTask kind (gate32 d) (s.flatPlan kind sel d).cr3new
      (s.newValues kind ret rf d) ext code (s.committed kind ret rf sel d) :=
    (run_bind_ok (planSwitch_flat flat fetched leaves)).trans (run_bind_ok (commitSwitch_flat flat))
  rw [starts]
  exact ⟨_, enterTask_entered n hg,
    fun refused => ⟨_, startTask_refused registers (mt (committed_admitsTask ..).mp refused)⟩,
    fun admits => startTask_admitted registers ((committed_admitsTask ..).mpr admits)⟩

end entered

section completed
variable {kind : SwitchKind} {sel : Word16} {ret : Word32} {ext rf wide : Bool} {d : Desc} {vs : List Nat}
  {code : Option Word32} {s t v w : State}

/-- The bytes an error code is pushed with, by the size of the TSS (43_tasks.md R553). -/
def codeSize (wide : Bool) : Nat := if wide = true then 4 else 2

theorem beginTask_eq_ok (h : beginTask wide ext vs code w = .ok () t) : ∃ v u, loadTaskSegments ext w = .ok () v ∧
    v.eip.toNat ≤ v.cs.limit.toNat ∧ pushTaskCode wide ext code v = .ok () u ∧ t = u.trapTask (trapBit wide vs) := by
  obtain ⟨_, u, begun, h⟩ := run_bind_eq_ok.mp h
  cases h
  obtain ⟨_, v, loaded, rest⟩ := run_bind_eq_ok.mp (afterCommit_eq_ok begun)
  rw [run_bind_ok (run_get v)] at rest
  obtain ⟨within, pushed⟩ := checkTarget_then_eq_ok rest
  exact ⟨v, u, loaded, within, pushed, rfl⟩

/-- A switch from `s` completes in `t`: the new task's registers are entered, its segments loaded, its error code pushed. -/
theorem taskSwitch_completes (flat : s.Flat) (fetched : fetchTss sel kind ext s = .ok d s)
    (h : taskSwitch kind sel ret ext rf code s = .ok () t) :
    s.AdmitsTask (gate32 d) (s.flatPlan kind sel d).cr3new (word (s.newValues kind ret rf d) 1) ∧
    ∃ w v, s.Entered w kind sel ret rf d ∧ loadTaskSegments ext w = .ok () v ∧ v.eip.toNat ≤ v.cs.limit.toNat ∧ v.Flat ∧
      t = (v.pushTask (codeSize (gate32 d)) code).trapTask (trapBit (gate32 d) (s.newValues kind ret rf d)) := by
  obtain ⟨plan, _, _, _, planned, -, -⟩ := taskSwitch_eq_ok h
  obtain ⟨w, entered, refused, admitted⟩ :=
    taskSwitch_enters (ret := ret) (rf := rf) (code := code) flat fetched (canLeave_of_planSwitch fetched planned)
  have admits : s.AdmitsTask (gate32 d) (s.flatPlan kind sel d).cr3new (word (s.newValues kind ret rf d) 1) := by
    by_contra no
    obtain ⟨z, stops⟩ := refused no
    cases stops.symm.trans h
  refine ⟨admits, w, ?_⟩
  rw [admitted admits] at h
  obtain ⟨v, u, loaded, within, pushed, rfl⟩ := beginTask_eq_ok h
  obtain ⟨g, -, -, load, -, -⟩ := loadTaskSegments_flat (entered.flat flat) entered.invalid loaded
  have flatV : v.Flat := load.flat ⟨(entered.flat flat).pg, (entered.flat flat).map⟩
  exact ⟨v, entered, loaded, within, flatV, congrArg (State.trapTask · _) (pushTaskCode_flat flatV pushed)⟩

end completed
end Sys2Proof.Machine
end

section
/-! What a completed task switch leaves while paging is off (43_tasks.md R543 to R553). -/

namespace Sys2Proof.Machine

open Sys2Proof

section canonical
variable {kind : SwitchKind} {sel : Word16} {ret : Word32} {rf : Bool} {d : Desc} {s : State}

theorem wf_storedAt (base : Word32) (fs : List (Nat × Nat × Nat)) {m : List Host.Cell} (wf : Memory.wf m = true) :
    Memory.wf (storedAt m base fs) = true := by
  induction fs generalizing m with
  | nil => exact wf
  | cons f fs ih => exact ih (wf_setCells _ _ _ wf)

/-- What a switch stores keeps memory in its canonical form. -/
theorem wf_takenMem (wf : Memory.wf s.mem = true) : Memory.wf (s.takenMem kind ret rf sel d) = true := by
  have saved : Memory.wf (s.savedMem kind ret rf) = true := wf_storedAt _ _ wf
  have freed : Memory.wf (s.freedMem kind ret rf) = true := by
    unfold State.freedMem
    split
    · exact wf_storedAt _ _ saved
    · exact saved
  have linked : Memory.wf (s.linkedMem kind ret rf d) = true := by
    unfold State.linkedMem
    split
    · exact wf_storedAt _ _ freed
    · exact freed
  unfold State.takenMem
  split
  · exact linked
  · exact wf_storedAt _ _ linked

end canonical

section frame
variable {rs : List SegReg} {s t : State} (h : TaskLoaded rs s t)
include h

theorem TaskLoaded.reg (r : Reg) : t.reg r = s.reg r := by rw [h.frame]; rfl
theorem TaskLoaded.eip : t.eip = s.eip := by rw [h.frame]
theorem TaskLoaded.eflags : t.eflags = s.eflags := by rw [h.frame]
theorem TaskLoaded.ldtr : t.ldtr = s.ldtr := by rw [h.frame]
theorem TaskLoaded.cr3 : t.cr3 = s.cr3 := by rw [h.frame]
theorem TaskLoaded.tlb : t.tlb = s.tlb := by rw [h.frame]
theorem TaskLoaded.dbPending : t.dbPending = s.dbPending := by rw [h.frame]

end frame

section pushed
variable (s : State) (b : Nat) (code : Option Word32)

@[simp] theorem State.pushTask_seg (r : SegReg) : (s.pushTask b code).seg r = s.seg r := by
  cases code <;> cases r <;> rfl

theorem State.pushTask_descAddr (sel : Word16) (off : Nat) : (s.pushTask b code).descAddr sel off = s.descAddr sel off := by
  cases code <;> rfl

/-- Where an error code of `b` bytes stands on a stack it was pushed on. -/
def State.codePlace (t : State) (b : Nat) (code : Option Word32) : List Nat :=
  code.toList.flatMap fun _ => linearSpan (t.ss.base + t.sp) b

theorem State.pushTask_codePlace_some (c : Word32) :
    (s.pushTask b (some c)).codePlace b (some c) = linearSpan (s.ss.base + s.codeOffset b) b := by
  rw [State.codePlace, pushTask_sp, State.pushTask_ss]
  exact List.append_nil _

/-- No other byte changes (43_tasks.md R553). -/
theorem State.pushTask_byteAt_other {a : Nat} (other : a ∉ (s.pushTask b code).codePlace b code) :
    (s.pushTask b code).byteAt a = s.byteAt a := by
  cases code with
  | none => rfl
  | some c =>
    rw [State.pushTask_codePlace_some] at other
    exact cellByte_setCells_other _ _ _ _ other

end pushed

section completed
variable {kind : SwitchKind} {sel : Word16} {ret cr3new : Word32} {ext rf wide : Bool} {d : Desc} {vs : List Nat} {b : Nat}
  {code : Option Word32} {g : SegState} {s t v w : State}

theorem lo16_word (vs : List Nat) (i : Nat) : lo16 (word vs i) = half vs i :=
  BitVec.eq_of_toNat_eq (by simp [lo16, word, half])

/-- The place of an error code depends on the part of ESP that the TSS gives, where it is a 32-bit one or the stack a 16-bit one. -/
theorem codeOffset_of_holdsReg (h : t.HoldsReg wide vs .esp 6) (known : wide = true ∨ t.ss.attr.db = false) :
    t.codeOffset b = spAfter t.ss.attr.db (word vs 6) b 1 := by
  have same : spOf t.ss.attr.db (t.reg .esp) = spOf t.ss.attr.db (word vs 6) := by
    cases wide with
    | true => exact congrArg _ h
    | false =>
      have small : t.ss.attr.db = false := by simpa using known
      rw [small]
      exact congrArg (BitVec.setWidth 32) (h.low.trans (lo16_word vs 6).symm)
  rw [State.codeOffset, spAfter, spAfter, same]

/-- The loads of the segments change no selector, and no other register that the TSS gave. -/
theorem State.HoldsTask.loaded (h : w.HoldsTask s kind wide cr3new vs) (load : TaskLoaded allSegs { w with ldtr := g } v)
    (sel : g.sel = w.ldtr.sel) : v.HoldsTask s kind wide cr3new vs :=
  h.congr load.eip load.eflags (fun r _ => load.reg r) (fun r => (load.sel r).trans (by cases r <;> rfl))
    ((congrArg SegState.sel load.ldtr).trans sel) load.cr3

/-- The state a switch from `s` completes in (43_tasks.md R543 to R553, R564). -/
structure State.Switched (t s : State) (kind : SwitchKind) (sel : Word16) (ret : Word32) (rf : Bool) (d : Desc)
    (code : Option Word32) : Prop where
  holds : t.HoldsTask s kind (gate32 d) (s.flatPlan kind sel d).cr3new (s.newValues kind ret rf d)
  esp : code = none → t.HoldsReg (gate32 d) (s.newValues kind ret rf d) .esp 6
  ldtr : t.ldtr.valid = !isNull t.ldtr.sel
  tlb : ∀ e, e ∈ t.tlb ↔ e ∈ s.tlb ∧ (s.taskLoadsCr3 (gate32 d) = true → e.global = true ∧ s.cr4Pge = true)
  bt : t.dbPending.bt = (s.dbPending.bt || trapBit (gate32 d) (s.newValues kind ret rf d))
  v86 : t.vm = true → ∀ r, t.seg r = v86Seg (t.seg r).sel
  checked : t.vm = false → t.SegmentsChecked
  within : t.eip.toNat ≤ t.cs.limit.toNat
  sp : ∀ c, code = some c → gate32 d = true ∨ t.ss.attr.db = false →
    t.sp = spAfter t.ss.attr.db (word (s.newValues kind ret rf d) 6) (codeSize (gate32 d)) 1
  pushed : ∀ c, code = some c →
    ofBytes ((t.codePlace (codeSize (gate32 d)) code).map t.byteAt) = c.toNat % 256 ^ codeSize (gate32 d)
  others : ∀ a, a ∉ t.codePlace (codeSize (gate32 d)) code → t.byteAt a = cellByte (s.takenMem kind ret rf sel d) a ∨
    t.byteAt a = cellByte (s.takenMem kind ret rf sel d) a ||| 1 ∧ ∃ r, a = (t.descAddr (t.seg r).sel 5).toNat

theorem SegmentsChecked_congr (h : v.SegmentsChecked) (same : ∀ r, t.seg r = v.seg r) : t.SegmentsChecked := by
  unfold State.SegmentsChecked at h ⊢
  have hes : t.es = v.es := same .es
  have hcs : t.cs = v.cs := same .cs
  have hss : t.ss = v.ss := same .ss
  have hds : t.ds = v.ds := same .ds
  have hfs : t.fs = v.fs := same .fs
  have hgs : t.gs = v.gs := same .gs
  rwa [hes, hcs, hss, hds, hfs, hgs]

theorem codeSize_le (wide : Bool) : codeSize wide ≤ 4 := by cases wide <;> decide

section last
variable {trap : Bool} (ht : t = (v.pushTask b code).trapTask trap)
include ht

/-! The push of an error code and the pending trap leave every register but ESP. -/

theorem finished_seg (r : SegReg) : t.seg r = v.seg r := by
  rw [ht, ← v.pushTask_seg b code r]
  cases r <;> rfl

theorem finished_eip : t.eip = v.eip := by rw [ht]; exact State.pushTask_eip ..
theorem finished_eflags : t.eflags = v.eflags := by rw [ht]; exact State.pushTask_eflags ..
theorem finished_ldtr : t.ldtr = v.ldtr := by rw [ht]; exact State.pushTask_ldtr ..
theorem finished_cr3 : t.cr3 = v.cr3 := by rw [ht]; exact State.pushTask_cr3 ..
theorem finished_tlb : t.tlb = v.tlb := by rw [ht]; exact State.pushTask_tlb ..
theorem finished_descAddr (sel : Word16) (off : Nat) : t.descAddr sel off = v.descAddr sel off := by
  rw [ht]; exact State.pushTask_descAddr ..
theorem finished_bt : t.dbPending.bt = (v.dbPending.bt || trap) := by
  rw [ht]; exact congrArg (·.bt || trap) (State.pushTask_dbPending ..)

theorem State.HoldsTask.finished (h : v.HoldsTask s kind wide cr3new vs) : t.HoldsTask s kind wide cr3new vs :=
  h.congr (finished_eip ht) (finished_eflags ht) (fun r other => by rw [ht]; exact State.pushTask_reg _ _ _ other)
    (fun r => congrArg SegState.sel (finished_seg ht r)) (congrArg SegState.sel (finished_ldtr ht)) (finished_cr3 ht)

theorem finished_codePlace : t.codePlace b code = (v.pushTask b code).codePlace b code := by rw [ht]; rfl

end last

/-- The bytes a switch leaves: as it stored them, but for the marks in the descriptors of the segments. -/
theorem loaded_marks (entered : s.Entered w kind sel ret rf d) (load : TaskLoaded allSegs { w with ldtr := g } v) (a : Nat) :
    v.byteAt a = cellByte (s.takenMem kind ret rf sel d) a ∨ v.byteAt a = cellByte (s.takenMem kind ret rf sel d) a ||| 1 ∧
      ∃ r, a = (v.descAddr (v.seg r).sel 5).toNat := by
  have marks := load.marks a
  have before : State.byteAt { w with ldtr := g } a = cellByte (s.takenMem kind ret rf sel d) a := by rw [← entered.mem]; rfl
  rw [before] at marks
  refine marks.imp id fun ⟨marked, r, place⟩ => ⟨marked, r, ?_⟩
  rw [load.descAddr, load.sel]
  exact place

/-- The last steps of a switch: from the state that the registers were entered in, the segments, the error code, the trap. -/
theorem switched_of_loaded (flat : s.Flat) (wf : Memory.wf s.mem = true) (entered : s.Entered w kind sel ret rf d)
    (loaded : loadTaskSegments ext w = .ok () v) (within : v.eip.toNat ≤ v.cs.limit.toNat)
    (ht : t = (v.pushTask (codeSize (gate32 d)) code).trapTask (trapBit (gate32 d) (s.newValues kind ret rf d))) :
    t.Switched s kind sel ret rf d code := by
  obtain ⟨g, gsel, gvalid, load, v86, checked⟩ := loadTaskSegments_flat (entered.flat flat) entered.invalid loaded
  have seg := finished_seg ht
  have vm : t.vm = w.vm := congrArg (bit · 17) ((finished_eflags ht).trans load.eflags)
  have wfV : Memory.wf v.mem = true := load.wf ((congrArg Memory.wf entered.mem).trans (wf_takenMem wf))
  have espV : v.HoldsReg (gate32 d) (s.newValues kind ret rf d) .esp 6 := entered.esp.congr (load.reg .esp)
  have ldtr : t.ldtr = g := (finished_ldtr ht).trans load.ldtr
  have ss : t.ss = v.ss := seg .ss
  refine
    { holds := (entered.holds.loaded load gsel).finished ht
      esp := fun none => espV.congr (by rw [ht, none]; rfl)
      ldtr := by rw [ldtr]; exact gvalid entered.ldtrInvalid
      tlb := fun e => by rw [finished_tlb ht, load.tlb]; exact entered.tlb e
      bt := (finished_bt ht).trans (congrArg (· || _) ((congrArg DbPending.bt load.dbPending).trans entered.bt))
      v86 := fun mode r => ?_
      checked := fun mode => SegmentsChecked_congr (checked (vm.symm.trans mode)) seg
      within := ?_
      sp := ?_
      pushed := ?_
      others := fun a other => ?_ }
  · have image := v86 (vm.symm.trans mode) r
    rw [seg r, image]
    rfl
  · have cs : t.cs = v.cs := seg .cs
    rw [finished_eip ht, cs]
    exact within
  · rintro c rfl known
    rw [ss] at known ⊢
    rw [ht]
    exact (pushTask_sp c).trans (codeOffset_of_holdsReg espV known)
  · rintro c rfl
    rw [finished_codePlace ht, State.pushTask_codePlace_some, ht]
    exact ofBytes_pushTask wfV (codeSize_le _) c
  · have kept : t.byteAt a = v.byteAt a := by
      rw [finished_codePlace ht] at other
      rw [ht]
      exact State.pushTask_byteAt_other _ _ _ other
    rw [kept]
    refine (loaded_marks entered load a).imp id fun ⟨marked, r, place⟩ => ⟨marked, r, ?_⟩
    rw [finished_descAddr ht, seg r]
    exact place

end completed
end Sys2Proof.Machine
end

section
/-! The images of a task as they stand in memory, and the statement about them (43_tasks.md R521, R525, R543 to R553). -/

namespace Sys2Proof.Machine

open Sys2Proof

section images
variable {kind : SwitchKind} {sel : Word16} {ret : Word32} {rf wide : Bool} {d : Desc} {vs : List Nat} {code : Option Word32}
  {s t : State}

/-- A value of a TSS in memory, of its own size in a 32-bit TSS and of 2 bytes in a 16-bit one. -/
def tssValue (m : List Host.Cell) (base : Word32) (wide : Bool) (off32 n off16 : Nat) : Nat :=
  if wide = true then valueAt m base off32 n else valueAt m base off16 2

/-- The values of a new TSS in the order they are read: the place in that order, the offset and size in a 32-bit TSS, the offset in
a 16-bit one (43_tasks.md R521, R525). -/
def imagePlaces : List (Nat × Nat × Nat × Nat) :=
  [(0, 0x20, 4, 0x0E), (1, 0x24, 4, 0x10), (2, 0x28, 4, 0x12), (3, 0x2C, 4, 0x14), (4, 0x30, 4, 0x16), (5, 0x34, 4, 0x18),
    (6, 0x38, 4, 0x1A), (7, 0x3C, 4, 0x1C), (8, 0x40, 4, 0x1E), (9, 0x44, 4, 0x20), (10, 0x48, 2, 0x22), (11, 0x4C, 2, 0x24),
    (12, 0x50, 2, 0x26), (13, 0x54, 2, 0x28)]

theorem getD_fieldValues (m : List Host.Cell) (base : Word32) (wide : Bool) : ∀ x ∈ imagePlaces,
    (fieldValues m base (readFieldsOf wide)).getD x.1 0 = tssValue m base wide x.2.1 x.2.2.1 x.2.2.2 := by
  simp only [imagePlaces, List.forall_mem_cons]
  cases wide <;> exact ⟨rfl, rfl, rfl, rfl, rfl, rfl, rfl, rfl, rfl, rfl, rfl, rfl, rfl, rfl, fun _ h => by cases h⟩

/-- The values that only a 32-bit TSS holds: FS, GS and the word with the T bit. -/
def widePlaces : List (Nat × Nat) := [(14, 0x58), (15, 0x5C), (17, 0x64)]

theorem getD_fieldValues_wide (m : List Host.Cell) (base : Word32) : ∀ x ∈ widePlaces,
    (fieldValues m base (readFieldsOf true)).getD x.1 0 = tssValue m base true x.2 2 0 := by
  simp only [widePlaces, List.forall_mem_cons]
  exact ⟨rfl, rfl, rfl, fun _ h => by cases h⟩

theorem getD_fieldValues_ldtr (m : List Host.Cell) (base : Word32) (wide : Bool) :
    (fieldValues m base (readFieldsOf wide)).getD (if wide then 16 else 14) 0 = tssValue m base wide 0x60 2 0x2A := by
  cases wide <;> rfl

/-- The new TSS as a switch finds it: once the old task is saved and its busy bit cleared (43_tasks.md R545). -/
def State.newImage (s : State) (kind : SwitchKind) (ret : Word32) (rf : Bool) (d : Desc) : Nat → Nat → Nat → Nat :=
  tssValue (s.freedMem kind ret rf) (descBase d) (gate32 d)

theorem word_newValues {i a b : Nat} (place : (i, a, 4, b) ∈ imagePlaces) :
    word (s.newValues kind ret rf d) i = BitVec.ofNat 32 (s.newImage kind ret rf d a 4 b) :=
  congrArg (BitVec.ofNat 32) (getD_fieldValues _ _ _ _ place)

theorem half_newValues {i a b : Nat} (place : (i, a, 2, b) ∈ imagePlaces) :
    half (s.newValues kind ret rf d) i = BitVec.ofNat 16 (s.newImage kind ret rf d a 2 b) :=
  congrArg (BitVec.ofNat 16) (getD_fieldValues _ _ _ _ place)

theorem getD_newValues_wide {i a : Nat} (wide : gate32 d = true) (place : (i, a) ∈ widePlaces) :
    (s.newValues kind ret rf d).getD i 0 = s.newImage kind ret rf d a 2 0 := by
  rw [State.newValues, State.newImage, wide]
  exact getD_fieldValues_wide _ _ _ place

theorem half_newValues_wide {i a : Nat} (place : (i, a) ∈ widePlaces) :
    (if gate32 d = true then half (s.newValues kind ret rf d) i else 0) =
      if gate32 d = true then BitVec.ofNat 16 (s.newImage kind ret rf d a 2 0) else 0 :=
  ite_congr rfl (fun wide => congrArg (BitVec.ofNat 16) (getD_newValues_wide wide place)) fun _ => rfl

theorem half_newValues_ldtr : half (s.newValues kind ret rf d) (if gate32 d then 16 else 14) =
    BitVec.ofNat 16 (s.newImage kind ret rf d 0x60 2 0x2A) := congrArg (BitVec.ofNat 16) (getD_fieldValues_ldtr _ _ _)

theorem trapBit_newValues : trapBit (gate32 d) (s.newValues kind ret rf d) =
    (gate32 d && decide (s.newImage kind ret rf d 0x64 2 0 % 2 = 1)) := by
  cases wide : gate32 d with
  | true => exact congrArg (fun v => decide (v % 2 = 1)) (getD_newValues_wide (i := 17) (a := 0x64) wide (by decide))
  | false => rfl

/-- A general register that holds its value, by its place in the new TSS. -/
theorem State.HoldsReg.image {r : Reg} {i a b : Nat} (h : t.HoldsReg (gate32 d) (s.newValues kind ret rf d) r i)
    (place : (i, a, 4, b) ∈ imagePlaces) :
    if gate32 d = true then t.reg r = BitVec.ofNat 32 (s.newImage kind ret rf d a 4 b)
    else lo16 (t.reg r) = BitVec.ofNat 16 (s.newImage kind ret rf d a 4 b) := by
  rw [State.newImage, ← getD_fieldValues _ _ _ _ place]
  exact h

theorem pow_codeSize (wide : Bool) : 256 ^ codeSize wide = if wide = true then 2 ^ 32 else 2 ^ 16 := by cases wide <;> rfl

/-- The six registers, one by one. -/
theorem forall_segs {p : SegState → Prop} (h : ∀ r, p (t.seg r)) : ∀ g ∈ [t.es, t.cs, t.ss, t.ds, t.fs, t.gs], p g := by
  simp only [List.forall_mem_cons]
  exact ⟨h .es, h .cs, h .ss, h .ds, h .fs, h .gs, fun _ h => by cases h⟩

theorem seg_mem (t : State) (r : SegReg) : t.seg r ∈ [t.cs, t.ss, t.es, t.ds, t.fs, t.gs] := by
  cases r <;> simp [State.seg]

end images

/-- Settles O47: with paging off each phase of the switch is computed, from the plan to the push of the error code. -/
theorem taskSwitchImages : Obligations.TaskSwitchImages := by
  unfold Obligations.TaskSwitchImages
  intro kind sel ret ext rf code nd s t u y x pg map wf fetched switched leaves wide img m1 oldByte newByte m2 m3 m4 got flags loads
    admitted holds given
  have flat : s.Flat := ⟨pg, map⟩
  cases calm_fetchTss sel kind ext flat fetched
  have hm1 : m1 = s.savedMem kind ret rf := by
    refine congrArg (storedAt s.mem s.tr.base) ?_
    cases s.tss32 <;> rfl
  have hm2 : m2 = s.freedMem kind ret rf := by
    refine (if_congr (clears_iff kind).symm rfl rfl).trans ?_
    rw [hm1]
    rfl
  have hm4 : m4 = s.takenMem kind ret rf sel nd := by
    have hm3 : m3 = s.linkedMem kind ret rf nd := by
      unfold State.linkedMem
      rw [← hm2]
    unfold State.takenMem
    rw [← hm3]
  have hgot : got = s.newImage kind ret rf nd := by
    show tssValue m2 (descBase nd) (gate32 nd) = _
    rw [hm2]
    rfl
  clear_value got m4
  subst hgot hm4
  have hloads : s.taskLoadsCr3 (gate32 nd) = true ↔ loads := taskLoadsCr3_flat flat _
  have hcr3 : loads → (s.flatPlan kind sel nd).cr3new = BitVec.ofNat 32 (valueAt s.mem (descBase nd) 0x1C 4) :=
    fun h => flatPlan_cr3new h.1
  have hadmits : admitted ↔ s.AdmitsTask (gate32 nd) (s.flatPlan kind sel nd).cr3new (word (s.newValues kind ret rf nd) 1) := by
    unfold State.AdmitsTask
    rw [hloads, word_newValues (i := 1) (a := 0x24) (b := 0x10) (by decide)]
    exact and_congr_right' (forall_congr' fun h => by rw [hcr3 h])
  have hgiven : ∀ t : State, t.HoldsTask s kind (gate32 nd) (s.flatPlan kind sel nd).cr3new (s.newValues kind ret rf nd) →
      given t := fun t held => by
    refine ⟨held.eip.trans (word_newValues (by decide)), ?_, ?_, ?_, ?_, ?_, ?_⟩
    · rw [held.eflags, word_newValues (i := 1) (a := 0x24) (b := 0x10) (by decide)]
      rfl
    · have hgpr : ∀ x ∈ gprPlaces, x.1 ≠ .esp → ∀ a b, (x.2, a, 4, b) ∈ imagePlaces → holds t (x.1, a, b) :=
        fun x hx other a b place => (held.gprs x hx other).image place
      simp only [gprPlaces, List.forall_mem_cons] at hgpr
      obtain ⟨eax, ecx, edx, ebx, -, ebp, esi, edi, -⟩ := hgpr
      simp only [List.forall_mem_cons]
      exact ⟨eax nofun _ _ (by decide), ecx nofun _ _ (by decide), edx nofun _ _ (by decide), ebx nofun _ _ (by decide),
        ebp nofun _ _ (by decide), esi nofun _ _ (by decide), edi nofun _ _ (by decide), fun _ h => by cases h⟩
    · simp only [List.forall_mem_cons]
      exact ⟨(held.sels .es).trans (half_newValues (by decide)), (held.sels .cs).trans (half_newValues (by decide)),
        (held.sels .ss).trans (half_newValues (by decide)), (held.sels .ds).trans (half_newValues (by decide)),
        held.ldtr.trans half_newValues_ldtr, fun _ h => by cases h⟩
    · exact (held.sels .fs).trans (half_newValues_wide (by decide))
    · exact (held.sels .gs).trans (half_newValues_wide (by decide))
    · exact held.cr3.trans (ite_congr (propext hloads) (fun h => by rw [hcr3 h]) fun _ => rfl)
  refine ⟨fun completes => ?_, fun task long inside => ?_⟩
  · obtain ⟨admits, w, v, entered, loaded, within, -, ht⟩ := taskSwitch_completes flat fetched completes
    have run := switched_of_loaded flat wf entered loaded within ht
    refine ⟨hadmits.mpr admits, hgiven t run.holds, fun none => (run.esp none).image (by decide), run.ldtr, ?_, ?_, ?_,
      run.checked, run.within, ?_, ?_, ?_⟩
    · exact fun e => (run.tlb e).trans (by rw [hloads])
    · exact run.bt.trans (congrArg (_ || ·) trapBit_newValues)
    · exact fun mode => forall_segs (p := fun g => g = v86Seg g.sel) (run.v86 mode)
    · intro c hcode known
      rw [← word_newValues (i := 6) (by decide)]
      exact run.sp c hcode known
    · exact fun c hcode => (run.pushed c hcode).trans (congrArg (c.toNat % ·) (pow_codeSize _))
    · exact fun a other => (run.others a other).imp id fun ⟨marked, r, place⟩ => ⟨marked, _, seg_mem t r, place⟩
  · obtain ⟨w, entered, refused, enters⟩ := taskSwitch_enters (ret := ret) (rf := rf) (code := code) flat fetched
      ⟨task, long, fun clears => inside ((clears_iff kind).mp clears)⟩
    refine ⟨fun no => refused (mt hadmits.mpr no), fun admits => ⟨w, hgiven w entered.holds,
      entered.esp.image (by decide), entered.mem, entered.ts, entered.tr, entered.gdtr, entered.cr0,
      entered.params, ?_, ?_, ?_⟩⟩
    · simp only [List.forall_mem_cons]
      exact ⟨entered.invalid .es, entered.invalid .cs, entered.invalid .ss, entered.invalid .ds, entered.invalid .fs,
        entered.invalid .gs, entered.ldtrInvalid, fun _ h => by cases h⟩
    · exact fun stops => (enters (hadmits.mp admits)).trans (beginTask_stops stops)
    · intro loaded
      obtain ⟨g, -, -, load, -, -⟩ := loadTaskSegments_flat (entered.flat flat) entered.invalid loaded
      have flatY : y.Flat := load.flat ⟨(entered.flat flat).pg, (entered.flat flat).map⟩
      have eip : w.eip = y.eip := load.eip.symm
      rw [eip]
      have begun := enters (hadmits.mp admits)
      refine ⟨fun beyond => begun.trans (beginTask_beyond loaded beyond), fun within => ⟨?_, ?_⟩⟩
      · rintro rfl
        exact ⟨_, begun.trans (beginTask_ok loaded within rfl), rfl⟩
      · rintro c b rfl rfl room hroom
        refine ⟨fun full => ?_, fun fits => ?_⟩
        · have stops : pushTaskCode (gate32 nd) ext (some c) y = _ :=
            pushQuiet_noRoom (eq_false_of_ne_true (mt hroom.mpr full))
          exact begun.trans (beginTask_pushStops loaded within stops)
        · exact ⟨_, begun.trans (beginTask_ok loaded within (pushQuiet_flat flatY (hroom.mp fits) c))⟩
end Sys2Proof.Machine
end

section
/-! Input and output (44_io.md R585 to R596): when a port access is permitted, what an access to a port does, and the string
instructions element by element and iteration by iteration. -/

namespace Sys2Proof.Machine

open Sys2Proof

section permission
variable {port : Word16} {n base w : Nat} {s u v : State}

/-- A port access is checked against the bit map: in virtual-8086 mode, and in protected mode at a level above IOPL (44_io.md
R585). -/
def State.ConsultsMap (s : State) : Prop := s.v86 = true ∨ s.protectedMode = true ∧ s.iopl.toNat < s.cpl.toNat

/-- A bit map can be there: TR holds a 32-bit TSS that reaches its I/O map base (44_io.md R585, decision D62). -/
def State.HasIoMap (s : State) : Prop := s.tr.valid = true ∧ s.tss32 = true ∧ 0x67 ≤ s.tr.limit.toNat

theorem ioPermission_real (mode : s.pe = false) : ioPermission port n s = .ok () s := by
  simp [ioPermission, mode]

theorem ioPermission_level (mode : s.protectedMode = true) (level : s.cpl.toNat ≤ s.iopl.toNat) :
    ioPermission port n s = .ok () s := by
  have admits : (!s.vm && decide (s.cpl.toNat ≤ s.iopl.toNat)) = true := by
    simp only [State.protectedMode, Bool.and_eq_true] at mode
    simp [mode.2, level]
  rw [ioPermission, run_bind_ok (run_get s), if_pos admits, ite_self, run_pure]

/-- The two ways past the bit map are closed where it is consulted. -/
theorem State.ConsultsMap.admitsNone (h : s.ConsultsMap) :
    s.pe = true ∧ ¬(!s.vm && decide (s.cpl.toNat ≤ s.iopl.toNat)) = true := by
  rcases h with mode | ⟨mode, level⟩
  · simp only [State.v86, Bool.and_eq_true] at mode
    simp [mode]
  · simp only [State.protectedMode, Bool.and_eq_true] at mode
    simp [mode.1, level]

theorem ioPermission_noMap (consults : s.ConsultsMap) (none : ¬s.HasIoMap) :
    ioPermission port n s = .error (.exn ⟨.gp, some 0, false⟩) s := by
  obtain ⟨mode, level⟩ := consults.admitsNone
  rw [ioPermission, run_bind_ok (run_get s), if_neg (by simp [mode]), if_neg level]
  split_ifs with valid wide long
  · rfl
  · rfl
  · rfl
  · exact absurd ⟨by simpa using valid, by simpa using wide, by omega⟩ none

/-- Where there is a map, what is left of the check is the read of the map's base, the limit, and the read of the map. -/
theorem ioPermission_map (consults : s.ConsultsMap) (map : s.HasIoMap)
    (placed : linRead (s.tr.base + 0x66) 2 Acc.supRead s = .ok base u) : ioPermission port n s =
      (if base + port.toNat / 8 + 1 > s.tr.limit.toNat then raiseGp0 else do
        let w ← linRead (s.tr.base + BitVec.ofNat 32 (base + port.toNat / 8)) 2 Acc.supRead
        if (w >>> (port.toNat % 8)) % 2 ^ n ≠ 0 then raiseGp0 else pure () : M Unit) u := by
  obtain ⟨mode, level⟩ := consults.admitsNone
  obtain ⟨valid, wide, long⟩ := map
  rw [ioPermission, run_bind_ok (run_get s), if_neg (by simp [mode]), if_neg level, if_neg (by simp [valid]),
    if_neg (by simp [wide]), if_neg (by omega), run_bind_ok placed]

theorem ioPermission_beyond (consults : s.ConsultsMap) (map : s.HasIoMap)
    (placed : linRead (s.tr.base + 0x66) 2 Acc.supRead s = .ok base u)
    (beyond : s.tr.limit.toNat < base + port.toNat / 8 + 1) :
    ioPermission port n s = .error (.exn ⟨.gp, some 0, false⟩) u := by
  rw [ioPermission_map consults map placed, if_pos beyond, run_raiseGp0]

/-- A field of a number is 0 when each of its bits is. -/
theorem field_eq_zero_iff (w k n : Nat) : (w >>> k) % 2 ^ n = 0 ↔ ∀ i < n, w.testBit (k + i) = false := by
  have bits : ∀ i, ((w >>> k) % 2 ^ n).testBit i = (decide (i < n) && w.testBit (k + i)) := fun i => by
    rw [Nat.testBit_mod_two_pow, Nat.testBit_shiftRight]
  constructor
  · intro zero i hi
    have bit := bits i
    rw [zero, Nat.zero_testBit, decide_eq_true hi, Bool.true_and] at bit
    exact bit.symm
  · intro clear
    refine Nat.eq_of_testBit_eq fun i => ?_
    rw [bits, Nat.zero_testBit]
    by_cases hi : i < n
    · rw [clear i hi, Bool.and_false]
    · rw [decide_eq_false hi, Bool.false_and]

variable (consults : s.ConsultsMap) (map : s.HasIoMap) (placed : linRead (s.tr.base + 0x66) 2 Acc.supRead s = .ok base u)
  (within : base + port.toNat / 8 + 1 ≤ s.tr.limit.toNat)
  (read : linRead (s.tr.base + BitVec.ofNat 32 (base + port.toNat / 8)) 2 Acc.supRead u = .ok w v)
include consults map placed within read

/-- The bits of the map are those of the ports of the access (44_io.md R585). -/
theorem ioPermission_read : ioPermission port n s =
    if ∀ k < n, w.testBit (port.toNat % 8 + k) = false then .ok () v else .error (.exn ⟨.gp, some 0, false⟩) v := by
  rw [ioPermission_map consults map placed, if_neg (by omega), run_bind_ok read, run_ite, run_raiseGp0, run_pure]
  simp only [ne_eq, ite_not, field_eq_zero_iff]

end permission

/-- Settles O25: real mode and a level up to IOPL pass, and otherwise the bit map is read, where there is one. -/
theorem portPermission : Obligations.PortPermission := by
  intro port n s u v base w _ _
  refine ⟨ioPermission_real, ioPermission_level, fun consults => ⟨fun none => ioPermission_noMap consults ?_,
    fun valid wide long placed => ⟨ioPermission_beyond consults ⟨valid, wide, long⟩ placed, fun within read => ?_⟩⟩⟩
  · rintro ⟨valid, wide, long⟩
    rcases none with h | h | h
    · simp [h] at valid
    · simp [h] at wide
    · omega
  · rw [ioPermission_read consults ⟨valid, wide, long⟩ placed within read]
    exact ⟨fun clear => if_pos clear, fun ⟨k, hk, set⟩ => if_neg fun clear => by simp [clear k hk] at set⟩

section port
variable {port : Word16} {n : Nat} {s u : State} {e : Err}

@[simp] theorem touches_ioPermission (port : Word16) (n : Nat) : Touches (ioPermission port n) := by
  simp (maxDischargeDepth := 99) [ioPermission]

@[simp] theorem touches_portAccess (port : Word16) (n : Nat) : Touches (portAccess port n) :=
  touches_ite (touches_throw _) (touches_ioPermission port n)

theorem lowBytes_lt (n : Nat) (v : Word32) : (lowBytes n v).toNat < 2 ^ (8 * n) := by
  have below : (lowBytes n v).toNat ≤ (2 ^ (8 * n) - 1) % 2 ^ 32 := by
    rw [lowBytes, BitVec.toNat_and, BitVec.toNat_ofNat]
    exact Nat.and_le_right
  have positive := Nat.two_pow_pos (8 * n)
  have := Nat.mod_le (2 ^ (8 * n) - 1) (2 ^ 32)
  omega

theorem lowBytes_idem (n : Nat) (v : Word32) : lowBytes n (lowBytes n v) = lowBytes n v := by
  rw [lowBytes, lowBytes, BitVec.and_assoc, BitVec.and_self]

/-- What the platform answers to a read of a port (20_memory.md R140, R142; log entry 9). -/
def State.portAnswer (s : State) (port : Word16) (n : Nat) : Word32 := lowBytes n (Config.portValue s.free port n)

/-- The state once a read of a port is answered: the free value is used, the transaction is recorded (20_memory.md R140). -/
def State.portRead (s : State) (port : Word16) (n : Nat) : State :=
  { s with free := s.free + 1, io := .read port n (s.portAnswer port n) :: s.io }

/-- The state once a value is written to a port: the transaction is recorded (20_memory.md R140). -/
def State.portWritten (s : State) (port : Word16) (n : Nat) (v : Word32) : State :=
  { s with io := .write port n (lowBytes n v) :: s.io }

theorem ioRead_eq (port : Word16) (n : Nat) (s : State) : ioRead port n s = .ok (s.portAnswer port n) (s.portRead port n) := rfl

theorem ioWrite_eq (port : Word16) (n : Nat) (v : Word32) (s : State) :
    ioWrite port n v s = .ok () (s.portWritten port n v) := rfl

theorem inPort_stops (stops : portAccess port n s = .error e u) : inPort port n s = .error e u := run_bind_error stops

theorem outPort_stops (stops : portAccess port n s = .error e u) : outPort port n s = .error e u := run_bind_error stops

/-- A port read that is permitted loads the low bytes of EAX with the answer (44_io.md R590). -/
theorem inPort_ok (permitted : portAccess port n s = .ok () u) : inPort port n s = .ok () ((u.portRead port n).setReg .eax
    ((s.reg .eax &&& ~~~(BitVec.ofNat 32 (2 ^ (8 * n) - 1))) ||| u.portAnswer port n)) := by
  have answer : u.portAnswer port n &&& BitVec.ofNat 32 (2 ^ (8 * n) - 1) = u.portAnswer port n := lowBytes_idem n _
  have eax : (u.portRead port n).reg .eax = s.reg .eax := ((touches_portAccess port n).accessed permitted).reg .eax
  rw [inPort, run_bind_ok permitted, run_bind_ok (ioRead_eq port n u), run_modify, State.setAcc, mergeBits, answer, eax]

/-- A port write that is permitted sends the low bytes of EAX (44_io.md R592). -/
theorem outPort_ok (permitted : portAccess port n s = .ok () u) :
    outPort port n s = .ok () (u.portWritten port n (s.reg .eax)) := by
  rw [outPort, run_bind_ok permitted, run_bind_ok (run_get u), ioWrite_eq, ((touches_portAccess port n).accessed permitted).reg]

end port

section forms
variable {p : Prefixes} {imm : BitVec 8} {i : Instr × Word16 × Nat × Nat} {s u : State} {e : Err}

/-- The forms of IN, each with its port, the bytes it reads and its length without prefixes (44_io.md R590, R591). -/
def inForms (p : Prefixes) (imm : BitVec 8) (s : State) : List (Instr × Word16 × Nat × Nat) :=
  [(.inAlImm p imm, imm.setWidth 16, 1, 2), (.inAxImm p imm, imm.setWidth 16, s.opBytes p, 2),
    (.inAlDx p, lo16 (s.reg .edx), 1, 1), (.inAxDx p, lo16 (s.reg .edx), s.opBytes p, 1)]

/-- The forms of OUT, each with its port, the bytes it writes and its length without prefixes (44_io.md R592, R593). -/
def outForms (p : Prefixes) (imm : BitVec 8) (s : State) : List (Instr × Word16 × Nat × Nat) :=
  [(.outImmAl p imm, imm.setWidth 16, 1, 2), (.outImmAx p imm, imm.setWidth 16, s.opBytes p, 2),
    (.outDxAl p, lo16 (s.reg .edx), 1, 1), (.outDxAx p, lo16 (s.reg .edx), s.opBytes p, 1)]

theorem inForms_begin (p : Prefixes) (imm : BitVec 8) (s : State) : inForms p imm s.begin = inForms p imm s := by
  simp [inForms]

theorem outForms_begin (p : Prefixes) (imm : BitVec 8) (s : State) : outForms p imm s.begin = outForms p imm s := by
  simp [outForms]

/-- An instruction that reads the state first. -/
theorem runInstr_get (k : State → M Done) (s : State) : runInstr (do let t ← get; k t) s = runInstr (k s.begin) s := rfl

theorem exec_in (plain : Prefixes.plain p = true) (hi : i ∈ inForms p imm s) :
    exec i.1 s = runInstr (do inPort i.2.1 i.2.2.1; advance p i.2.2.2) s := by
  rw [← inForms_begin] at hi
  fin_cases hi
  · exact runInstr_plain plain
  · exact (runInstr_plain plain).trans (runInstr_get _ s)
  · exact (runInstr_plain plain).trans (runInstr_get _ s)
  · exact (runInstr_plain plain).trans (runInstr_get _ s)

theorem exec_out (plain : Prefixes.plain p = true) (hi : i ∈ outForms p imm s) :
    exec i.1 s = runInstr (do outPort i.2.1 i.2.2.1; advance p i.2.2.2) s := by
  rw [← outForms_begin] at hi
  fin_cases hi
  · exact runInstr_plain plain
  · exact (runInstr_plain plain).trans (runInstr_get _ s)
  · exact (runInstr_plain plain).trans (runInstr_get _ s)
  · exact (runInstr_plain plain).trans (runInstr_get _ s)

/-- What the check of the port raises is the instruction's. -/
theorem exec_port_stops (plain : Prefixes.plain p = true) (hi : i ∈ inForms p imm s ++ outForms p imm s)
    (stops : portAccess i.2.1 i.2.2.1 s.begin = .error e u) : exec i.1 s = failed s e u := by
  rcases List.mem_append.mp hi with hi | hi
  · exact (exec_in plain hi).trans (runInstr_stops (inPort_stops stops))
  · exact (exec_out plain hi).trans (runInstr_stops (outPort_stops stops))

theorem port_beginsWith (hi : i ∈ inForms p imm s ++ outForms p imm s) : BeginsWith (plainPrefixes p) i.1 := by
  fin_cases hi <;> exact ⟨_, fun _ => rfl⟩

end forms

/-- Settles O24: each form is the check of its port and then one transaction. -/
theorem portInOut : Obligations.PortInOut := by
  intro p port s u e
  refine ⟨fun lock i hi => ?locked, fun plain i hi permitted => ?reads, fun plain i hi stops => ?stops,
    fun plain i hi permitted => ?writes⟩
  case locked =>
    obtain ⟨form, hform, rfl⟩ := List.mem_map.mp (show i ∈ (inForms p port s ++ outForms p port s).map (·.1) from hi)
    exact (port_beginsWith hform).raised (plainPrefixes_lock lock _)
  case reads =>
    have done := inPort_ok permitted
    rw [State.begin_reg] at done
    exact ⟨_, u.portAnswer i.2.1 i.2.2.1, (exec_in plain hi).trans (runInstr_retire (run_bind_ok done)), sameBytes_of_mem rfl _,
      lowBytes_lt _ _, rfl⟩
  case stops =>
    obtain ⟨form, hform, rfl⟩ := List.mem_map.mp
      (show i ∈ (inForms p port s ++ outForms p port s).map (fun j => (j.1, j.2.1, j.2.2.1)) from hi)
    exact exec_port_stops plain hform stops
  case writes =>
    have done := outPort_ok permitted
    rw [State.begin_reg] at done
    exact ⟨_, (exec_out plain hi).trans (runInstr_retire (run_bind_ok done)), sameBytes_of_mem rfl _, rfl⟩

section element
variable {p : Prefixes} {n v : Nat} {x : Slot} {s u w : State}

/-- One element of INS: the state after its checks, with the answer stored and (E)DI moved (44_io.md R595). -/
theorem insOnce_ok (permitted : portAccess s.dx n s = .ok () u)
    (checked : memProbe .es (s.addrReg p .edi) n n true u = .ok x w) (ram : x.isRam w = true) : insOnce p n s = .ok ()
      (State.moveAddrReg ((w.portRead s.dx n).stored x (w.portAnswer s.dx n).toNat) p .edi (s.stringDelta n)) := by
  have ram' : x.isRam (w.portRead s.dx n) = true := ram
  rw [insOnce, run_bind_ok (run_get s), run_bind_ok permitted, run_bind_ok checked, run_bind_ok (ioRead_eq s.dx n w),
    run_bind_ok (slotWrite_ok ram' _), run_modify]

/-- One element of OUTS: the state after its reads, with the value written to the port and (E)SI moved (44_io.md R594). -/
theorem outsOnce_ok (permitted : portAccess s.dx n s = .ok () u)
    (read : memRead (p.segOverride.getD .ds) (s.addrReg p .esi) n n u = .ok v w) : outsOnce p n s = .ok ()
      (State.moveAddrReg (w.portWritten s.dx n (BitVec.ofNat 32 v)) p .esi (s.stringDelta n)) := by
  rw [outsOnce, run_bind_ok (run_get s), run_bind_ok permitted, run_bind_ok read, run_bind_ok (ioWrite_eq _ _ _ w), run_modify]

end element

/-- Settles O26: an element is its checks, its two transfers and the move of its index. -/
theorem stringElements : Obligations.StringElements := by
  intro p n s u w x v _ permitted
  refine ⟨fun checked ram => ⟨_, w.portAnswer s.dx n, insOnce_ok permitted checked ram, fun a outside => ?_, lowBytes_lt _ _, rfl⟩,
    fun read => ⟨_, outsOnce_ok permitted read, sameBytes_of_mem ?_ _, rfl⟩⟩
  · rw [State.byteAt, State.moveAddrReg_mem]
    exact sameBytes_stored (w.portRead s.dx n) x _ a outside
  · rw [State.moveAddrReg_mem, State.portWritten]

section repetition
variable {p : Prefixes} {once : M Unit} {s u : State}

@[simp] theorem State.begin_addrReg (s : State) (p : Prefixes) (r : Reg) : s.begin.addrReg p r = s.addrReg p r := by
  have size : s.begin.addr32 p = s.addr32 p := by rw [State.addr32, State.addr32, State.begin_cs]
  rw [State.addrReg, State.addrReg, size, State.begin_reg]

/-- The four forms differ in their element. -/
theorem exec_string {i : Instr × M Unit} (hi : i ∈ [(Instr.insb p, insOnce p 1), (.insv p, insOnce p (s.opBytes p)),
      (.outsb p, outsOnce p 1), (.outsv p, outsOnce p (s.opBytes p))]) :
    ∃ once, exec i.1 s = runInstr (stringInstr p once) s ∧ once s.begin = i.2 s.begin := by
  have reads (f : Nat → M Unit) : (do f ((← get).opBytes p) : M Unit) s.begin = f (s.opBytes p) s.begin := by
    rw [run_bind_ok (run_get _), State.begin_opBytes]
  fin_cases hi
  · exact ⟨_, rfl, rfl⟩
  · exact ⟨_, rfl, reads (insOnce p)⟩
  · exact ⟨_, rfl, rfl⟩
  · exact ⟨_, rfl, reads (outsOnce p)⟩

variable (lock : p.has .lock = false)
include lock

theorem stringInstr_once (none : p.hasRep = false) (done : once s = .ok () u) :
    stringInstr p once s = advance p 1 u := by
  rw [stringInstr, run_bind_ok (noLock_ok lock s), if_pos (by simp [none]), run_bind_ok done]

theorem stringInstr_zero (rep : p.hasRep = true) (zero : s.addrReg p .ecx = 0) : stringInstr p once s = advance p 1 s := by
  rw [stringInstr, run_bind_ok (noLock_ok lock s), if_neg (by simp [rep]), run_bind_ok (run_get s), if_pos zero]

/-- An iteration is one element, then (E)CX less one, and the test of what is left (44_io.md R596). -/
theorem stringInstr_iteration (rep : p.hasRep = true) (more : s.addrReg p .ecx ≠ 0) (done : once s = .ok () u) :
    stringInstr p once s = if State.addrReg (u.moveAddrReg p .ecx (-1)) p .ecx = 0
      then advance p 1 (u.moveAddrReg p .ecx (-1)) else .ok .iterate (u.moveAddrReg p .ecx (-1)) := by
  rw [stringInstr, run_bind_ok (noLock_ok lock s), if_neg (by simp [rep]), run_bind_ok (run_get s), if_neg more,
    run_bind_ok done, run_bind_ok (run_modify _ u), run_bind_ok (run_get _), run_ite, run_pure]

end repetition

/-- Settles O27: what is left of a string instruction after its element, by whether it repeats and by its count. -/
theorem stringRepetition : Obligations.StringRepetition := by
  intro p s u lock i hi
  obtain ⟨once, form, element⟩ := exec_string hi
  rw [form, ← element, ← State.begin_addrReg]
  refine ⟨fun none done => ⟨_, runInstr_retire (stringInstr_once lock none done), rfl, sameBytes_of_mem rfl _⟩,
    fun rep zero => ⟨_, runInstr_retire (stringInstr_zero lock rep zero), rfl, sameBytes_of_mem (by simp) _⟩,
    fun rep more done => ?_⟩
  have run := stringInstr_iteration lock rep more done
  by_cases last : State.addrReg (u.moveAddrReg p .ecx (-1)) p .ecx = 0
  · rw [if_pos last] at run
    exact ⟨_, runInstr_retire run, sameBytes_of_mem (by simp) _, fun _ => rfl, absurd last⟩
  · rw [if_neg last] at run
    exact ⟨_, runInstr_ok run, sameBytes_of_mem (by simp) _, fun zero => absurd zero last, fun _ => rfl⟩

end Sys2Proof.Machine
end

section
/-! The instructions of the flags: CLI and STI, PUSHF and POPF (44_io.md R600 to R604). -/

namespace Sys2Proof.Machine

open Sys2Proof

section level
variable {s : State}

@[simp] theorem State.begin_iopl (s : State) : s.begin.iopl = s.iopl := by simp [State.iopl]

@[simp] theorem State.begin_v86 (s : State) : s.begin.v86 = s.v86 := by simp [State.v86, State.pe, State.vm]

@[simp] theorem State.begin_ioplDenies (s : State) : s.begin.ioplDenies = s.ioplDenies := by simp [State.ioplDenies]

@[simp] theorem State.begin_hasVirtualIf (s : State) : s.begin.hasVirtualIf = s.hasVirtualIf := by simp [State.hasVirtualIf]

/-- Where IOPL denies CLI and STI (44_io.md R600, R601). -/
theorem ioplDenies_iff (s : State) : s.ioplDenies = true ↔ s.pe = true ∧ s.iopl.toNat < s.cpl.toNat := by
  simp [State.ioplDenies]

theorem ioplDenies_eq_false (admits : s.pe = true → s.cpl.toNat ≤ s.iopl.toNat) : s.ioplDenies = false :=
  eq_false_of_ne_true fun denies => by
    obtain ⟨mode, above⟩ := (ioplDenies_iff s).mp denies
    exact absurd (admits mode) (by omega)

/-- Where CLI acts on VIF (44_io.md R600). -/
theorem hasVirtualIf_iff (s : State) : s.hasVirtualIf = true ↔ s.params.hasVME = true ∧ (s.v86 = true ∧ bit s.cr4 0 = true ∨
    s.protectedMode = true ∧ s.cpl = 3 ∧ bit s.cr4 1 = true) := by
  simp [State.hasVirtualIf, and_assoc]

theorem requireIopl_ok (admits : s.ioplDenies = false) : requireIopl s = .ok () s := by simp [requireIopl, admits]

theorem requireIopl_no (denies : s.ioplDenies = true) : requireIopl s = .error (.exn ⟨.gp, some 0, false⟩) s := by
  simp [requireIopl, denies]

theorem iopl_lt_three_iff (l : BitVec 2) : l.toNat < 3 ↔ l ≠ 3 := by decide +revert

theorem requireV86Iopl_ok (admits : s.v86 = true → s.iopl = 3) : requireV86Iopl s = .ok () s := by
  simpa [requireV86Iopl, iopl_lt_three_iff] using admits

theorem requireV86Iopl_no (mode : s.v86 = true) (below : s.iopl ≠ 3) :
    requireV86Iopl s = .error (.exn ⟨.gp, some 0, false⟩) s := by
  simp [requireV86Iopl, mode, (iopl_lt_three_iff _).mpr below]

end level

section interruptFlag
variable {p : Prefixes} {s : State}

/-- Giving a flag a value and going on to the next instruction, whose boundary clears RF alone. -/
theorem ifl_retire_setFlag (t : State) (n : Nat) (b : Bool) :
    State.ifl ((t.setFlag n b).retire p 1) = bit (setBit t.eflags n b) 9 :=
  bit_setBit_other _ 16 9 false (by decide)

theorem exec_cli (plain : Prefixes.plain p = true) (s : State) : exec (.cli p) s = runInstr
    (if s.ioplDenies = false then do modify fun t : State => t.setFlag 9 false; advance p 1
      else if s.hasVirtualIf = true then do modify fun t : State => t.setFlag 19 false; advance p 1
      else do raiseGp0; advance p 1) s := by
  refine (runInstr_plain plain).trans ((runInstr_get _ s).trans ?_)
  simp only [State.begin_ioplDenies, State.begin_hasVirtualIf, Bool.not_eq_true']

theorem exec_cli_clearsIf (plain : Prefixes.plain p = true) (admits : s.ioplDenies = false) :
    exec (.cli p) s = .next ((s.begin.setFlag 9 false).retire p 1) := by
  rw [exec_cli plain, if_pos admits]
  exact runInstr_retire rfl

theorem exec_cli_clearsVif (plain : Prefixes.plain p = true) (denies : s.ioplDenies = true) (virtual : s.hasVirtualIf = true) :
    exec (.cli p) s = .next ((s.begin.setFlag 19 false).retire p 1) := by
  rw [exec_cli plain, if_neg (by simp [denies]), if_pos virtual]
  exact runInstr_retire rfl

theorem exec_cli_denied (plain : Prefixes.plain p = true) (denies : s.ioplDenies = true) (virtual : ¬s.hasVirtualIf = true) :
    exec (.cli p) s = raised s s.begin .gp (some 0) := by
  rw [exec_cli plain, if_neg (by simp [denies]), if_neg virtual]
  exact runInstr_stops (run_raiseGp0 _)

/-- STI opens the one-instruction hold where the implementation has it and IF was clear (44_io.md R601, D65). -/
theorem exec_sti_setsIf (plain : Prefixes.plain p = true) (admits : s.ioplDenies = false) : exec (.sti p) s =
    .next (State.retire (State.setFlag { s.begin with inhibitSti := s.inhibitSti || (!s.ifl && s.params.stiShadow) }
      9 true) p 1) := by
  have ifl : s.begin.ifl = s.ifl := by rw [State.ifl, State.ifl, State.begin_eflags]
  rw [← ifl, ← State.begin_inhibitSti, ← State.begin_params]
  exact (runInstr_plain plain).trans (runInstr_retire (run_bind_ok (requireIopl_ok (by rwa [State.begin_ioplDenies]))))

theorem exec_sti_denied (plain : Prefixes.plain p = true) (denies : s.ioplDenies = true) :
    exec (.sti p) s = raised s s.begin .gp (some 0) :=
  runInstr_plain_stops plain (requireIopl_no (by rwa [State.begin_ioplDenies]))

end interruptFlag

/-- Settles O28: the check of IOPL, and then one flag. -/
theorem cliStiWriteIf : Obligations.CliStiWriteIf := by
  intro p s
  refine ⟨fun lock => ⟨?cliLocked, ?stiLocked⟩, fun plain admits => ?admitted, fun plain mode above => ?denied⟩
  case cliLocked => exact BeginsWith.raised ⟨_, fun _ => rfl⟩ (plainPrefixes_lock lock _)
  case stiLocked => exact BeginsWith.raised ⟨_, fun _ => rfl⟩ (plainPrefixes_lock lock _)
  case admitted =>
    have admits := ioplDenies_eq_false admits
    exact ⟨⟨_, exec_cli_clearsIf plain admits, rfl, sameBytes_of_mem (by simp) _,
        (ifl_retire_setFlag _ 9 false).trans (bit_setBit_same _ (by decide) _)⟩,
      ⟨_, exec_sti_setsIf plain admits, sameBytes_of_mem (by simp) _,
        (ifl_retire_setFlag _ 9 true).trans (bit_setBit_same _ (by decide) _), rfl⟩⟩
  case denied =>
    have denies := (ioplDenies_iff s).mpr ⟨mode, above⟩
    rw [← hasVirtualIf_iff]
    refine ⟨fun virtual => ⟨_, exec_cli_clearsVif plain denies virtual, rfl, sameBytes_of_mem (by simp) _, ?_⟩,
      exec_cli_denied plain denies, exec_sti_denied plain denies⟩
    rw [ifl_retire_setFlag, bit_setBit_other _ 19 9 false (by decide), State.begin_eflags, State.ifl]

section loads
variable {p : Params} {iopl cpl : BitVec 2} {wide : Bool} {mask old new v w : Word32} {k : Nat}

theorem bit_mergeBits (hk : k < 32) : bit (mergeBits mask old new) k = if bit mask k = true then bit new k else bit old k := by
  rw [mergeBits, bit_or]
  unfold bit
  rw [BitVec.getLsbD_and, BitVec.getLsbD_and, BitVec.getLsbD_not]
  cases mask.getLsbD k <;> simp [hk]

theorem bit_fixEflags (p : Params) (v : Word32) (k : Nat) :
    bit (fixEflags p v) k = (bit v k && bit (eflagsMask p) k || bit 2 k) := by
  rw [fixEflags, bit_or, bit, bit, bit, bit, BitVec.getLsbD_and]

/-- A flag that exists is the new one where the mask has it, and otherwise the old one (10_state.md R40). -/
theorem bit_fixEflags_mergeBits (hk : k < 32) (defined : ¬flagReserved p k) :
    bit (fixEflags p (mergeBits mask old new)) k = if bit mask k = true then bit new k else bit old k := by
  have there : bit (eflagsMask p) k = true := eq_true_of_ne_false (mt (bit_eflagsMask p hk).mp defined)
  have two : bit 2 k = decide (k = 1) := (by decide : ∀ k < 32, bit 2 k = decide (k = 1)) k hk
  have other : k ≠ 1 := fun one => defined (.inl (by simp [one]))
  rw [bit_fixEflags, there, two, decide_eq_false other, Bool.and_true, Bool.or_false, bit_mergeBits hk]

/-- A flag outside the mask, reserved or not, is the old one, whose reserved bits are as they read (10_state.md R40). -/
theorem bit_fixEflags_mergeBits_kept (hk : k < 32) (fixed : fixEflags p old = old) (kept : bit mask k = false) :
    bit (fixEflags p (mergeBits mask old new)) k = bit old k := by
  rw [bit_fixEflags, bit_mergeBits hk, if_neg (by simp [kept]), ← bit_fixEflags, fixed]

theorem bit_iteProp (c : Prop) [Decidable c] (x : Word32) (k : Nat) :
    bit (if c then x else 0) k = (decide c && bit x k) := by
  rw [← bit_ite]
  simp only [decide_eq_true_eq]

/-- The bits POPF loads, one by one (44_io.md R604). -/
theorem bit_popfMask (hk : k < 32) : bit (popfMask p iopl wide cpl) k =
    (decide (k ∈ [0, 2, 4, 6, 7, 8, 10, 11, 14]) || decide (cpl.toNat ≤ iopl.toNat) && decide (k = 9) ||
      decide (cpl = 0) && decide (k ∈ [12, 13]) ||
      wide && (decide (k = 16) || p.hasAC && decide (k = 18) || p.hasID && decide (k = 21))) := by
  have masks : ∀ k < 32, bit 0x00004DD5 k = decide (k ∈ [0, 2, 4, 6, 7, 8, 10, 11, 14]) ∧ bit 0x00000200 k = decide (k = 9) ∧
      bit 0x00003000 k = decide (k ∈ [12, 13]) ∧ bit 0x00010000 k = decide (k = 16) ∧ bit 0x00040000 k = decide (k = 18) ∧
      bit 0x00200000 k = decide (k = 21) := by decide
  obtain ⟨low, bit9, bits12, bit16, bit18, bit21⟩ := masks k hk
  rw [popfMask, bit_or, bit_or, bit_or, bit_iteProp, bit_iteProp, bit_ite, bit_or, bit_or, bit_ite, bit_ite, low, bit9, bits12,
    bit16, bit18, bit21]

theorem bits2_eq (low : bit v k = bit w k) (high : bit v (k + 1) = bit w (k + 1)) : bits2 v k = bits2 w k := by
  refine BitVec.eq_of_getLsbD_eq fun i hi => ?_
  rw [bits2, bits2, BitVec.getLsbD_extractLsb', BitVec.getLsbD_extractLsb']
  obtain rfl | rfl : i = 0 ∨ i = 1 := by omega
  · exact congrArg _ low
  · exact congrArg _ high

theorem bit_ofNat (img : Nat) (hk : k < 32) : bit (BitVec.ofNat 32 img) k = img.testBit k := by
  rw [bit, BitVec.getLsbD_ofNat, decide_eq_true hk, Bool.true_and]

end loads

section popped
variable {p : Prefixes} {s v : State} {img k : Nat}

/-- What a POPF loads of EFLAGS from an image (44_io.md R604). -/
def State.popMask (s : State) (p : Prefixes) : Word32 := popfMask s.params s.iopl (s.op32 p) s.cpl

/-- EFLAGS once POPF has loaded an image, RF clear after a 16-bit one (44_io.md R604, 46_debug.md R677). -/
def State.poppedFlags (s : State) (p : Prefixes) (img : Nat) : Word32 :=
  let loaded := fixEflags s.params (mergeBits (s.popMask p) s.eflags (BitVec.ofNat 32 img))
  if s.op32 p = true then loaded else setBit loaded 16 false

theorem bit_poppedFlags_of_ne (other : k ≠ 16) : bit (s.poppedFlags p img) k =
    bit (fixEflags s.params (mergeBits (s.popMask p) s.eflags (BitVec.ofNat 32 img))) k := by
  unfold State.poppedFlags
  split
  · rfl
  · exact bit_setBit_other _ 16 k false other

/-- A flag that exists, but RF. -/
theorem bit_poppedFlags (hk : k < 32) (other : k ≠ 16) (defined : ¬flagReserved s.params k) :
    bit (s.poppedFlags p img) k = if bit (s.popMask p) k = true then img.testBit k else bit s.eflags k := by
  rw [bit_poppedFlags_of_ne other, bit_fixEflags_mergeBits hk defined, bit_ofNat img hk]

theorem bit_poppedFlags_kept (hk : k < 32) (other : k ≠ 16) (fixed : fixEflags s.params s.eflags = s.eflags)
    (kept : bit (s.popMask p) k = false) : bit (s.poppedFlags p img) k = bit s.eflags k := by
  rw [bit_poppedFlags_of_ne other, bit_fixEflags_mergeBits_kept hk fixed kept]

theorem rf_poppedFlags : bit (s.poppedFlags p img) 16 = (s.op32 p && img.testBit 16) := by
  unfold State.poppedFlags
  cases wide : s.op32 p with
  | true =>
    have loads : bit (s.popMask p) 16 = true := by simp [State.popMask, bit_popfMask, wide]
    rw [if_pos rfl, bit_fixEflags_mergeBits (by decide) (by simp [flagReserved]), if_pos loads, bit_ofNat img (by decide),
      Bool.true_and]
  | false => exact bit_setBit_same _ (by decide) false

/-- The flags every POPF loads (44_io.md R604). -/
theorem bit_poppedFlags_always (hk : k ∈ [0, 2, 4, 6, 7, 8, 10, 11, 14]) :
    bit (s.poppedFlags p img) k = img.testBit k := by
  obtain ⟨low, other, defined⟩ : k < 32 ∧ k ≠ 16 ∧ ¬flagReserved s.params k := by
    fin_cases hk <;> simp [flagReserved]
  rw [bit_poppedFlags low other defined, if_pos (by simp [State.popMask, bit_popfMask low, hk])]

theorem if_poppedFlags : bit (s.poppedFlags p img) 9 =
    if s.cpl.toNat ≤ s.iopl.toNat then img.testBit 9 else bit s.eflags 9 := by
  rw [bit_poppedFlags (by decide) (by decide) (by simp [flagReserved])]
  simp [State.popMask, bit_popfMask]

theorem iopl_poppedFlags : bits2 (s.poppedFlags p img) 12 = if s.cpl = 0 then bits2 (BitVec.ofNat 32 img) 12 else s.iopl := by
  have half (k : Nat) (hk : k ∈ [12, 13]) : bit (s.poppedFlags p img) k =
      if s.cpl = 0 then bit (BitVec.ofNat 32 img) k else bit s.eflags k := by
    obtain ⟨low, other, defined, mask⟩ : k < 32 ∧ k ≠ 16 ∧ ¬flagReserved s.params k ∧
        (bit (s.popMask p) k = true ↔ s.cpl = 0) := by
      fin_cases hk <;> simp [flagReserved, State.popMask, bit_popfMask]
    rw [bit_poppedFlags low other defined, bit_ofNat img low]
    simp only [mask]
  have half12 := half 12 (by decide)
  have half13 := half 13 (by decide)
  split
  · next outer =>
    rw [if_pos outer] at half12 half13
    exact bits2_eq half12 half13
  · next outer =>
    rw [if_neg outer] at half12 half13
    exact bits2_eq half12 half13

/-- AC and ID, each where the implementation has it: loaded by a 32-bit POPF alone (44_io.md R604). -/
theorem feature_poppedFlags {has : Bool} (hk : (k, has) ∈ [(18, s.params.hasAC), (21, s.params.hasID)])
    (fixed : fixEflags s.params s.eflags = s.eflags) :
    bit (s.poppedFlags p img) k = if (s.op32 p && has) = true then img.testBit k else bit s.eflags k := by
  obtain ⟨low, other, defined, mask⟩ : k < 32 ∧ k ≠ 16 ∧ (has = true → ¬flagReserved s.params k) ∧
      bit (s.popMask p) k = (s.op32 p && has) := by
    fin_cases hk <;> simp [flagReserved, State.popMask, bit_popfMask]
  split
  · next loads =>
    rw [bit_poppedFlags low other (defined (Bool.and_eq_true_iff.mp loads).2), if_pos (mask.trans loads)]
  · next keeps => exact bit_poppedFlags_kept low other fixed (mask.trans (eq_false_of_ne_true keeps))

/-- VM, VIF, VIP and the bits that are always reserved are never loaded (44_io.md R604). -/
theorem bit_poppedFlags_never (fixed : fixEflags s.params s.eflags = s.eflags)
    (hk : k ∈ [1, 3, 5, 15, 17, 19, 20] ++ [22, 23, 24, 25, 26, 27, 28, 29, 30, 31]) :
    bit (s.poppedFlags p img) k = bit s.eflags k := by
  obtain ⟨low, other, kept⟩ : k < 32 ∧ k ≠ 16 ∧ bit (s.popMask p) k = false := by
    fin_cases hk <;> simp [State.popMask, bit_popfMask]
  exact bit_poppedFlags_kept low other fixed kept

end popped

section stack
variable {p : Prefixes} {s u v : State} {x : Slot} {img : Nat} {e : Err}

theorem exec_pushf (plain : Prefixes.plain p = true) (admits : s.v86 = true → s.iopl = 3) :
    exec (.pushf p) s = runInstr (do push (s.opBytes p) s.eflags.toNat; advance p 1) s := by
  rw [← State.begin_opBytes, ← State.begin_eflags]
  exact (runInstr_plain plain).trans ((runInstr_passes (requireV86Iopl_ok (by simpa using admits))).trans (runInstr_get _ s))

/-- What POPF does once IOPL admits it (44_io.md R604). -/
def popFlags (p : Prefixes) : M Done := do
  let s ← get
  let v ← readStack s.sp (s.opBytes p)
  modify (fun x => x.setSp (x.sp + BitVec.ofNat 32 (s.opBytes p)))
  loadEflags (s.op32 p) (s.popMask p) (BitVec.ofNat 32 v)
  let d ← advance p 1
  pure (if s.op32 p then .keepRf else d)

theorem exec_popf (plain : Prefixes.plain p = true) (admits : s.v86 = true → s.iopl = 3) :
    exec (.popf p) s = runInstr (popFlags p) s :=
  (runInstr_plain plain).trans (runInstr_passes (requireV86Iopl_ok (by simpa using admits)))

theorem popFlags_unread (stops : readStack s.sp (s.opBytes p) s = .error e u) : popFlags p s = .error e u := by
  rw [popFlags, run_bind_ok (run_get s), run_bind_error stops]

/-- The state once POPF has read its image in the state `v`: the item is released, the flags are loaded (44_io.md R604). -/
def State.popped (s v : State) (p : Prefixes) (img : Nat) : State :=
  { v.setSp (v.sp + BitVec.ofNat 32 (s.opBytes p)) with eip := s.nextPc p 1, eflags := s.poppedFlags p img }

theorem popped_begin (s v : State) (p : Prefixes) (img : Nat) : s.begin.popped v p img = s.popped v p img := by
  simp only [State.popped, State.poppedFlags, State.popMask, State.begin_opBytes, State.begin_nextPc, State.begin_params,
    State.begin_eflags, State.begin_iopl, State.begin_op32, State.begin_cpl]

variable (read : readStack s.sp (s.opBytes p) s = .ok img v)
include read

theorem popFlags_refused (refused : ¬admitsImage s.params (s.op32 p) (BitVec.ofNat 32 img)) :
    ∃ t, popFlags p s = .error (.refuse .reservedBits) t := by
  have same := (touches_readStack _ _).accessed read
  rw [← same.params] at refused
  rw [popFlags, run_bind_ok (run_get s), run_bind_ok read, run_bind_ok (run_modify _ v)]
  exact ⟨_, run_bind_error (loadEflags_refused refused)⟩

/-- Once the image is loaded, RF stays as it was loaded after a 32-bit POPF, and is clear after a 16-bit one (46_debug.md R677). -/
theorem popFlags_ok (admitted : admitsImage s.params (s.op32 p) (BitVec.ofNat 32 img)) :
    ∃ d t, popFlags p s = .ok d t ∧ t.finish d = s.popped v p img := by
  have same := (touches_readStack _ _).accessed read
  rw [← same.params, ← State.setSp_params v (v.sp + BitVec.ofNat 32 (s.opBytes p))] at admitted
  rw [popFlags, run_bind_ok (run_get s), run_bind_ok read, run_bind_ok (run_modify _ v),
    run_bind_ok (loadEflags_admitted admitted), run_bind_ok (advance_ok p 1 _)]
  refine ⟨_, _, rfl, ?_⟩
  rw [State.popped, ← same.nextPc, State.poppedFlags, ← same.params, ← same.eflags]
  cases s.op32 p <;> rfl

end stack

section popf
variable {p : Prefixes} {s v : State} {img : Nat} (plain : Prefixes.plain p = true)
include plain

/-- In virtual-8086 mode below IOPL 3 both PUSHF and POPF fault (44_io.md R603, R604). -/
theorem raised_of_requireV86Iopl {k : M Done} (mode : s.v86 = true) (below : s.iopl ≠ 3) :
    runInstr (do plainPrefixes p; requireV86Iopl; k) s = raised s s.begin .gp (some 0) := by
  rw [← State.begin_v86] at mode
  rw [← State.begin_iopl] at below
  exact runInstr_plain_stops plain (requireV86Iopl_no mode below)

variable (admits : s.v86 = true → s.iopl = 3) (read : readStack s.sp (s.opBytes p) s.begin = .ok img v)
include admits read

theorem exec_popf_ok (admitted : admitsImage s.params (s.op32 p) (BitVec.ofNat 32 img)) :
    exec (.popf p) s = .next (s.popped v p img) := by
  rw [← State.begin_sp, ← State.begin_opBytes] at read
  rw [← State.begin_params, ← State.begin_op32] at admitted
  obtain ⟨d, t, run, done⟩ := popFlags_ok read admitted
  rw [exec_popf plain admits, runInstr_ok run, done, popped_begin]

theorem exec_popf_refused (refused : ¬admitsImage s.params (s.op32 p) (BitVec.ofNat 32 img)) :
    exec (.popf p) s = .refused .reservedBits := by
  rw [← State.begin_sp, ← State.begin_opBytes] at read
  rw [← State.begin_params, ← State.begin_op32] at refused
  obtain ⟨t, run⟩ := popFlags_refused read refused
  exact (exec_popf plain admits).trans (runInstr_refused run)

end popf

/-- Settles O29: the check of IOPL, then the push, or the read of an image and what each flag is once it is loaded. -/
theorem pushfPopfFlags : Obligations.PushfPopfFlags := by
  intro p s u v x img e plain
  refine ⟨fun admits => ⟨?pushStops, fun stops => ?popStops, exec_popf_refused plain admits⟩, fun admits => ?pushes,
    raised_of_requireV86Iopl plain, fun admits read admitted => ?pops, raised_of_requireV86Iopl plain⟩
  case pushStops =>
    rw [← State.begin_ss, ← State.begin_reg, exec_pushf plain admits]
    exact fun stops => runInstr_stops (push_stops stops _)
  case popStops =>
    rw [← State.begin_sp, ← State.begin_opBytes] at stops
    exact (exec_popf plain admits).trans (runInstr_error (popFlags_unread stops))
  case pushes =>
    rw [← State.begin_ss, ← State.begin_reg, exec_pushf plain admits]
    exact fun checked ram => ⟨_, runInstr_retire (run_bind_ok (push_ok checked ram _)), sameBytes_stored u x _, rfl⟩
  case pops =>
    exact ⟨_, exec_popf_ok plain admits read admitted, sameBytes_of_mem rfl _, rfl, fun k => bit_poppedFlags_always,
      if_poppedFlags, iopl_poppedFlags, rf_poppedFlags, fun fixed => ⟨feature_poppedFlags (.head _) fixed,
        feature_poppedFlags (.tail _ (.head _)) fixed, fun k => bit_poppedFlags_never fixed⟩⟩

end Sys2Proof.Machine
end

section
/-! The return from an exception (45_interrupt_instructions.md R640 to R644): the flags an image loads, the frame's three items, the
return outside protected mode, and which return a mode makes. -/

namespace Sys2Proof.Machine

open Sys2Proof

section flags
variable {p : Params} {iopl cpl : BitVec 2} {wide vm : Bool} {image : Word32} {k : Nat} {s t u : State}

/-- The bits IRET loads, one by one; VM it loads from a doubleword image at level 0 alone (45_interrupt_instructions.md R642,
R643). -/
theorem bit_iretMask (hk : k < 32) (toV86 : vm = true → wide = true ∧ cpl = 0) :
    bit (iretMask p iopl wide cpl vm) k = true ↔ iretLoads p iopl cpl wide vm k := by
  have masks : ∀ k < 32, bit 0x00180000 k = decide (k ∈ [19, 20]) ∧ bit 0x00020000 k = decide (k = 17) := by decide
  obtain ⟨bits19, bit17⟩ := masks k hk
  rw [iretMask, bit_or, bit_popfMask hk, bit_ite, bit_or, bit_ite, bit_ite, bits19, bit17, iretLoads]
  have bitVm : (wide = true ∧ cpl = 0) ∧ vm = true ∧ k = 17 ↔ k = 17 ∧ vm = true :=
    ⟨fun h => h.2.symm, fun h => ⟨toV86 h.2, h.symm⟩⟩
  simp only [Bool.or_eq_true, Bool.and_eq_true, decide_eq_true_eq, and_or_left, bitVm]
  simp only [and_comm, and_left_comm, and_assoc, or_comm, or_left_comm, or_assoc]

/-- EFLAGS once IRET has loaded an image (45_interrupt_instructions.md R642). -/
def State.iretFlags (s : State) (wide vm : Bool) (image : Word32) : Word32 :=
  fixEflags s.params (mergeBits (iretMask s.params s.iopl wide s.cpl vm) s.eflags image)

theorem iretFlags_begin (s : State) : s.begin.iretFlags wide vm image = s.iretFlags wide vm image := by
  simp only [State.iretFlags, State.begin_params, State.begin_iopl, State.begin_cpl, State.begin_eflags]

theorem defined_of_eflagsMask (defined : bit (eflagsMask p) k = true) : k < 32 ∧ ¬flagReserved p k := by
  have hk : k < 32 := by
    by_contra beyond
    rw [bit, BitVec.getLsbD_of_ge _ _ (not_lt.mp beyond)] at defined
    cases defined
  exact ⟨hk, fun reserved => by simp [(bit_eflagsMask p hk).mpr reserved] at defined⟩

/-- Each flag that exists is the image's where IRET loads it, and otherwise as it was (45_interrupt_instructions.md R642). -/
theorem flagsLoaded_of_eflags (loaded : t.eflags = s.iretFlags wide vm image) (toV86 : vm = true → wide = true ∧ s.cpl = 0) :
    flagsLoaded s t wide vm image := by
  intro k there
  obtain ⟨hk, defined⟩ := defined_of_eflagsMask there
  rw [loaded, State.iretFlags, bit_fixEflags_mergeBits hk defined, ← bit_iretMask hk toV86]
  exact ⟨fun loads => if_pos loads, fun keeps => if_neg keeps⟩

section load
variable (params : u.params = s.params) (eflags : u.eflags = s.eflags)
include params

theorem loadEflags_iret_refused (refused : ¬admitsImage s.params wide image) (mask : Word32) :
    loadEflags wide mask image u = .error (.refuse .reservedBits) u := loadEflags_refused (by rwa [params])

include eflags

/-- The load of an image that is admitted, in a state that has the parameters and the flags IRET began with. -/
theorem loadEflags_iret (admitted : admitsImage s.params wide image) :
    loadEflags wide (iretMask s.params s.iopl wide s.cpl vm) image u = .ok () { u with eflags := s.iretFlags wide vm image } := by
  rw [loadEflags_admitted (by rwa [params]), State.mergeEflags, params, eflags, State.iretFlags]

end load

/-- How every return ends: the flags are loaded, then the rest of the state takes its values (45_interrupt_instructions.md R641,
R643). -/
def iretEnds (wide vm : Bool) (s : State) (image : Word32) (after : State → State) : M Done := do
  loadEflags wide (iretMask s.params s.iopl wide s.cpl vm) image
  modify after
  pure .keepRf

/-- The end of a return but for the flags: EIP is taken and NMI unblocked (45_interrupt_instructions.md R641, R643). -/
def State.resumeAt (eip : Word32) (t : State) : State := { t with eip := eip, nmiBlocked := false }

section ends
variable {after : State → State} {dn : Done}

/-- A return that ends has loaded an image that is admitted. -/
theorem iretEnds_eq_ok (h : iretEnds wide vm s image after u = .ok dn t) (params : u.params = s.params)
    (eflags : u.eflags = s.eflags) : dn = .keepRf ∧ t = after { u with eflags := s.iretFlags wide vm image } := by
  obtain ⟨_, v, loaded, rest⟩ := run_bind_eq_ok.mp h
  cases rest
  by_cases admitted : admitsImage s.params wide image
  · cases (loadEflags_iret params eflags admitted).symm.trans loaded
    exact ⟨rfl, rfl⟩
  · cases (loadEflags_iret_refused params admitted _).symm.trans loaded

variable (params : u.params = s.params)
include params

theorem iretEnds_refused (refused : ¬admitsImage s.params wide image) :
    ∃ z, iretEnds wide vm s image after u = .error (.refuse .reservedBits) z :=
  ⟨u, run_bind_error (loadEflags_iret_refused params refused _)⟩

variable (eflags : u.eflags = s.eflags)
include eflags

theorem iretEnds_ok (admitted : admitsImage s.params wide image) :
    iretEnds wide vm s image after u = .ok .keepRf (after { u with eflags := s.iretFlags wide vm image }) :=
  run_bind_ok (loadEflags_iret params eflags admitted)

end ends

end flags

section items
variable {x : Word32 × Nat} {xs : List (Word32 × Nat)} {v : Nat} {vs : List Nat} {s t : State}

@[simp] theorem touches_readItems (xs : List (Word32 × Nat)) : Touches (readItems xs) := by
  induction xs with
  | nil => exact touches_pure _
  | cons x xs ih => exact touches_bind (touches_readStack _ _) fun _ => touches_bind ih fun _ => touches_pure _

theorem readItems_nil_eq_ok (h : readItems [] s = .ok vs t) : t = s := by
  cases h
  rfl

/-- Items that are read are read one after another (45_interrupt_instructions.md R641). -/
theorem readItems_cons_eq_ok (h : readItems (x :: xs) s = .ok (v :: vs) t) :
    ∃ u, readStack x.1 x.2 s = .ok v u ∧ readItems xs u = .ok vs t := by
  obtain ⟨a, u, first, rest⟩ := run_bind_eq_ok.mp h
  obtain ⟨as, w, others, done⟩ := run_bind_eq_ok.mp rest
  cases done
  exact ⟨u, first, others⟩

end items

section frame
variable {wide : Bool} {x c f : Nat} {s u : State} {k : State → Word32 → Word16 → Word32 → M Done}

/-- What IRET does with the frame's three items, EIP, CS and the image of EFLAGS, whichever return it makes
(45_interrupt_instructions.md R641, R643). -/
def takeFrame (wide : Bool) (k : State → Word32 → Word16 → Word32 → M Done) : M Done := do
  let s ← get
  requireStack s.sp (3 * itemSize wide)
  let neip ← readStack s.sp (itemSize wide)
  let csel ← readStack (s.sp + BitVec.ofNat 32 (itemSize wide)) 2
  let fl ← readStack (s.sp + BitVec.ofNat 32 (2 * itemSize wide)) (itemSize wide)
  k s (BitVec.ofNat 32 neip) (BitVec.ofNat 16 csel) (BitVec.ofNat 32 fl)

/-- Where the three items are, with their sizes. -/
def State.frameItems (s : State) (wide : Bool) : List (Word32 × Nat) :=
  [(s.sp, itemSize wide), (s.sp + BitVec.ofNat 32 (itemSize wide), 2),
    (s.sp + BitVec.ofNat 32 (2 * itemSize wide), itemSize wide)]

theorem takeFrame_noRoom (full : inLimit s.ss s.sp (3 * itemSize wide) = false) :
    takeFrame wide k s = .error (.exn ⟨.ss, some 0, false⟩) s :=
  (run_bind_ok (run_get s)).trans (run_bind_error (requireStack_no full))

theorem takeFrame_read (room : inLimit s.ss s.sp (3 * itemSize wide) = true)
    (read : readItems (s.frameItems wide) s = .ok [x, c, f] u) :
    takeFrame wide k s = k s (BitVec.ofNat 32 x) (BitVec.ofNat 16 c) (BitVec.ofNat 32 f) u := by
  obtain ⟨v, offset, read⟩ := readItems_cons_eq_ok read
  obtain ⟨w, code, read⟩ := readItems_cons_eq_ok read
  obtain ⟨y, flags, read⟩ := readItems_cons_eq_ok read
  cases readItems_nil_eq_ok read
  rw [takeFrame, run_bind_ok (run_get s), run_bind_ok (requireStack_ok room), run_bind_ok offset, run_bind_ok code,
    run_bind_ok flags]

end frame

section real
variable {wide : Bool} {eip image : Word32} {csel : Word16} {s u : State}

/-- The return of real-address and virtual-8086 mode, once its items are read (45_interrupt_instructions.md R643). -/
def returnReal (wide : Bool) (s : State) (eip : Word32) (csel : Word16) (image : Word32) : M Done := do
  checkTarget s.cs.limit eip false
  modify fun t : State => t.setSp (s.sp + BitVec.ofNat 32 (3 * itemSize wide))
  modify fun t : State => t.realLoad .cs csel
  iretEnds wide false s image (State.resumeAt eip)

theorem iretReal_eq (wide : Bool) : iretReal wide = takeFrame wide (returnReal wide) := rfl

/-- The state in which such a return loads the flags: the three items released, CS loaded (45_interrupt_instructions.md R643). -/
def State.poppedReal (s u : State) (wide : Bool) (csel : Word16) : State :=
  { u.setSp (s.sp + BitVec.ofNat 32 (3 * itemSize wide)) with cs := realSeg s.v86 true s.cs csel }

theorem poppedReal_begin (s u : State) (wide : Bool) (csel : Word16) :
    s.begin.poppedReal u wide csel = s.poppedReal u wide csel := by
  simp only [State.poppedReal, State.begin_sp, State.begin_v86, State.begin_cs]

theorem returnReal_beyond (beyond : s.cs.limit.toNat < eip.toNat) :
    returnReal wide s eip csel image u = .error (.exn ⟨.gp, some 0, false⟩) u := run_bind_error (checkTarget_no beyond)

variable (same : Accessed s u) (within : eip.toNat ≤ s.cs.limit.toNat)
include same within

theorem returnReal_within : returnReal wide s eip csel image u =
    iretEnds wide false s image (State.resumeAt eip) (s.poppedReal u wide csel) := by
  have mode : u.v86 = s.v86 := by rw [State.v86, State.v86, State.pe, State.pe, State.vm, State.vm, same.cr0, same.eflags]
  rw [returnReal, run_bind_ok (checkTarget_ok within), run_bind_ok (run_modify _ _), run_bind_ok (run_modify _ _),
    State.poppedReal, ← mode, ← same.cs]
  rfl

theorem returnReal_refused (refused : ¬admitsImage s.params wide image) :
    ∃ z, returnReal wide s eip csel image u = .error (.refuse .reservedBits) z := by
  rw [returnReal_within same within]
  exact iretEnds_refused same.params refused

theorem returnReal_ok (admitted : admitsImage s.params wide image) : returnReal wide s eip csel image u = .ok .keepRf
    { s.poppedReal u wide csel with eip := eip, eflags := s.iretFlags wide false image, nmiBlocked := false } := by
  rw [returnReal_within same within]
  exact iretEnds_ok same.params same.eflags admitted

end real

section mode

@[simp] theorem State.begin_nt (s : State) : s.begin.nt = s.nt := by simp [State.nt]

variable {wide : Bool} {ret : Word32} {p : Prefixes} {s : State}

theorem exec_iret (plain : Prefixes.plain p = true) :
    exec (.iret p) s = runInstr (exceptionReturn (s.op32 p) (s.nextPc p 1)) s := by
  rw [← State.begin_op32, ← State.begin_nextPc]
  exact (runInstr_plain plain).trans (runInstr_get _ s)

theorem v86_iff (s : State) : s.v86 = true ↔ s.pe = true ∧ s.vm = true := Bool.and_eq_true_iff

/-- Real-address mode, and virtual-8086 mode at IOPL 3 (45_interrupt_instructions.md R640, R644). -/
theorem exceptionReturn_real (likeReal : s.pe = false ∨ s.v86 = true ∧ s.iopl = 3) :
    exceptionReturn wide ret s = takeFrame wide (returnReal wide) s := by
  rw [exceptionReturn, run_bind_ok (run_get s), ← iretReal_eq]
  obtain real | ⟨v86, top⟩ := likeReal
  · simp [real]
  · obtain ⟨pe, vm⟩ := (v86_iff s).mp v86
    simp [pe, vm, top]

theorem exceptionReturn_denied (v86 : s.v86 = true) (below : s.iopl ≠ 3) :
    exceptionReturn wide ret s = .error (.exn ⟨.gp, some 0, false⟩) s := by
  obtain ⟨pe, vm⟩ := (v86_iff s).mp v86
  rw [exceptionReturn, run_bind_ok (run_get s)]
  simp [pe, vm, (iopl_lt_three_iff _).mpr below]

/-- The return of protected mode that is no task return, once its items are read (45_interrupt_instructions.md R641). -/
def returnProtected (wide : Bool) (s : State) (eip : Word32) (csel : Word16) (image : Word32) : M Done :=
  if wide = true ∧ bit image 17 = true ∧ s.cpl = 0 then iretToV86 s.sp eip csel image else iretWithin wide s.sp eip csel image

theorem iretProtected_eq (wide : Bool) : iretProtected wide = takeFrame wide (returnProtected wide) := by
  have toV86 (s : State) (f : Nat) : (wide && f.testBit 17 && decide (s.cpl = 0)) = true ↔
      wide = true ∧ bit (BitVec.ofNat 32 f) 17 = true ∧ s.cpl = 0 := by
    rw [bit_ofNat f (by decide), Bool.and_eq_true, Bool.and_eq_true, decide_eq_true_eq, and_assoc]
  simp only [iretProtected, takeFrame, returnProtected, toV86]

theorem exceptionReturn_protected (mode : s.protectedMode = true) (nt : s.nt = false) :
    exceptionReturn wide ret s = takeFrame wide (returnProtected wide) s := by
  simp only [State.protectedMode, Bool.and_eq_true, Bool.not_eq_true'] at mode
  rw [exceptionReturn, run_bind_ok (run_get s), ← iretProtected_eq]
  simp [mode, nt]

theorem not_likeReal_of_protectedMode (mode : s.protectedMode = true) : ¬(s.pe = false ∨ s.v86 = true ∧ s.iopl = 3) := by
  simp only [State.protectedMode, Bool.and_eq_true, Bool.not_eq_true'] at mode
  simp [State.v86, mode]

/-- Every return but a task return, where IOPL admits it, is one of the frame's three items. -/
theorem exceptionReturn_frame (kind : (s.pe = false ∨ s.v86 = true ∧ s.iopl = 3) ∨ s.protectedMode = true ∧ s.nt = false) :
    ∃ k, exceptionReturn wide ret s = takeFrame wide k s := by
  obtain likeReal | ⟨mode, nt⟩ := kind
  · exact ⟨_, exceptionReturn_real likeReal⟩
  · exact ⟨_, exceptionReturn_protected mode nt⟩

end mode

/-- Settles O31: the mode names the return, its three items are read within the stack's limit, and the return outside protected mode
loads EIP, CS and the flags from them. -/
theorem interruptReturn : Obligations.InterruptReturn := by
  intro p s u dn er x c f plain b eip csel image returned likeReal
  have meaning : exec (.iret p) s = runInstr (exceptionReturn (s.op32 p) (s.nextPc p 1)) s := exec_iret plain
  have begun : (s.begin.pe = false ∨ s.begin.v86 = true ∧ s.begin.iopl = 3) ↔ likeReal := by
    rw [State.begin_pe, State.begin_v86, State.begin_iopl]
  refine ⟨fun ok => meaning.trans (runInstr_ok ok), fun stops => meaning.trans (runInstr_error stops), fun v86 below => ?denied,
    fun kind => ⟨fun full => ?noRoom, fun room read => ?items⟩⟩
  case denied =>
    rw [← State.begin_v86] at v86
    rw [← State.begin_iopl] at below
    exact meaning.trans (runInstr_error (exceptionReturn_denied v86 below))
  case noRoom =>
    rw [← begun, ← State.begin_protectedMode, ← State.begin_nt] at kind
    rw [← State.begin_ss, ← State.begin_sp] at full
    obtain ⟨k, frame⟩ := exceptionReturn_frame (wide := s.op32 p) (ret := s.nextPc p 1) kind
    exact meaning.trans (runInstr_error (frame.trans (takeFrame_noRoom full)))
  case items =>
    have same : Accessed s.begin u := (touches_readItems _).accessed read
    have items {k : State → Word32 → Word16 → Word32 → M Done} :
        takeFrame (s.op32 p) k s.begin = k s.begin eip csel image u := by
      rw [← State.begin_ss, ← State.begin_sp] at room
      rw [← State.begin_sp] at read
      exact takeFrame_read room read
    have back (real : likeReal) : returned = returnReal (s.op32 p) s.begin eip csel image u :=
      (exceptionReturn_real (begun.mpr real)).trans items
    rw [← State.begin_cs, ← State.begin_params]
    refine ⟨fun real beyond => ?beyond, fun real within refused => ?refused, fun real within admitted => ?loaded,
      fun mode => ?protectedMode⟩
    case beyond => exact meaning.trans (runInstr_error ((back real).trans (returnReal_beyond beyond)))
    case refused =>
      obtain ⟨z, stops⟩ := returnReal_refused (csel := csel) same within refused
      exact meaning.trans (runInstr_refused ((back real).trans stops))
    case loaded =>
      have done := (back real).trans (returnReal_ok same within admitted)
      rw [poppedReal_begin, iretFlags_begin] at done
      rw [State.begin_cs]
      exact ⟨_, meaning.trans (runInstr_ok done), sameBytes_of_mem rfl _, flagsLoaded_of_eflags rfl (by simp), rfl⟩
    case protectedMode =>
      have nt := (kind.resolve_left (not_likeReal_of_protectedMode mode)).2
      rw [← State.begin_protectedMode] at mode
      rw [← State.begin_nt] at nt
      refine (exceptionReturn_protected mode nt).trans (items.trans ?_)
      rw [returnProtected, run_ite, State.begin_cpl, State.begin_sp]

end Sys2Proof.Machine
end

section
/-! The returns of IRET in protected mode (45_interrupt_instructions.md R641 to R643): within a level, to an outer level and to
virtual-8086 mode, and the privilege that the first two never raise. -/

namespace Sys2Proof.Machine

open Sys2Proof

section within
variable {wide : Bool} {sp eip image : Word32} {csel : Word16} {s t u v w : State} {d : Desc} {a : List Nat} {dn : Done}

/-- The return within a level, once its code segment is accepted (45_interrupt_instructions.md R641). -/
def iretSame (wide : Bool) (s : State) (sp eip : Word32) (csel : Word16) (image : Word32) (d : Desc) : M Done := do
  checkTarget (descLimit d) eip false
  let acc ← probeAccessed csel d
  modify fun t : State => t.setSp (sp + BitVec.ofNat 32 (3 * itemSize wide))
  commitCs csel d s.cpl acc
  iretEnds wide false s image (State.resumeAt eip)

theorem iretSame_beyond (beyond : (descLimit d).toNat < eip.toNat) :
    iretSame wide s sp eip csel image d u = .error (.exn ⟨.gp, some 0, false⟩) u := run_bind_error (checkTarget_no beyond)

/-- The frame is released and the code segment marked and loaded before the flags are (45_interrupt_instructions.md R641). -/
theorem iretSame_within (level : rpl csel = s.cpl) (within : eip.toNat ≤ (descLimit d).toNat)
    (probed : probeAccessed csel d u = .ok a v)
    (marked : commitAccessed a (v.setSp (sp + BitVec.ofNat 32 (3 * itemSize wide))) = .ok () w) :
    iretSame wide s sp eip csel image d u =
      iretEnds wide false s image (State.resumeAt eip) { w with cs := segFrom csel d } := by
  have entered := commitCs_ok (csel := csel) (d := d) (level := rpl csel) marked
  rw [withRpl_rpl] at entered
  rw [iretSame, run_bind_ok (checkTarget_ok within), run_bind_ok probed, run_bind_ok (run_modify _ _), ← level,
    run_bind_ok entered]

theorem iretSame_eq_ok (level : rpl csel = s.cpl) (h : iretSame wide s sp eip csel image d u = .ok dn t) : ∃ a v w,
    probeAccessed csel d u = .ok a v ∧ commitAccessed a (v.setSp (sp + BitVec.ofNat 32 (3 * itemSize wide))) = .ok () w ∧
      iretEnds wide false s image (State.resumeAt eip) { w with cs := segFrom csel d } = .ok dn t := by
  obtain ⟨within, rest⟩ := checkTarget_then_eq_ok h
  obtain ⟨a, v, probed, rest⟩ := run_bind_eq_ok.mp rest
  rw [run_bind_ok (run_modify _ _)] at rest
  obtain ⟨_, _, entered, -⟩ := run_bind_eq_ok.mp rest
  obtain ⟨_, w, marked, -⟩ := run_bind_eq_ok.mp entered
  exact ⟨a, v, w, probed, marked, (iretSame_within level within probed marked).symm.trans h⟩

end within

section stack
variable {wide : Bool} {csel nss : Word16} {d sd : Desc} {nesp : Word32} {s t : State} {g g' : SegState}

/-- All that is in force of an outer level, besides what an access can change: its code segment and its stack
(42_control_transfer.md R491). -/
theorem commitOuter_takes (h : commitOuter csel d nss sd wide nesp s = .ok () t) :
    ∃ v, Accessed { s with cs := segFrom csel d } v ∧ t = v.takeStack nss sd wide nesp := by
  obtain ⟨a, a', t1, t2, t3, t4, probedCs, probedSs, markedCs, markedSs, rfl⟩ := commitOuter_eq_ok h
  have before : Accessed s t3 := ((touches_probeAccessed _ _).accessed probedCs).trans
    (((touches_probeAccessed _ _).accessed probedSs).trans ((touches_commitAccessed _).accessed markedCs))
  have entered : Accessed { s with cs := segFrom csel d } { t3 with cs := segFrom csel d } := by
    rw [before]
    rfl
  exact ⟨t4, entered.trans ((touches_commitAccessed _).accessed markedSs), rfl⟩

theorem lo16_ofNat (e : Nat) : lo16 (BitVec.ofNat 32 e) = BitVec.ofNat 16 e := by
  refine BitVec.eq_of_toNat_eq ?_
  rw [lo16_toNat, BitVec.toNat_ofNat, BitVec.toNat_ofNat]
  omega

/-- ESP on a 32-bit outer stack: a word sets its low half alone (42_control_transfer.md R491). -/
theorem takeStack_esp_big (big : (descAttr sd).db = true) (e : Nat) (t : State) :
    (t.takeStack nss sd wide (BitVec.ofNat 32 e)).reg .esp =
      if wide then BitVec.ofNat 32 e else setLo16 (t.reg .esp) (BitVec.ofNat 16 e) := by
  rw [State.takeStack, State.setReg_reg_same, big, ← lo16_ofNat]
  rfl

/-- On a 16-bit outer stack the low half of ESP is the frame's (42_control_transfer.md R491, U24). -/
theorem takeStack_esp_small (small : (descAttr sd).db = false) (e : Nat) (t : State) :
    lo16 ((t.takeStack nss sd wide (BitVec.ofNat 32 e)).reg .esp) = BitVec.ofNat 16 e := by
  rw [State.takeStack, State.setReg_reg_same, small]
  refine (lo16_setLo16 _ _).trans ?_
  cases wide with
  | true => exact lo16_ofNat e
  | false => exact (lo16_setLo16 _ _).trans (lo16_ofNat e)

/-- A data-segment register on a return to an outer level (42_control_transfer.md R498). -/
theorem nullOuter_eq (level : BitVec 2) (same : g' = g) : nullOuter level g' =
    if g.valid = true ∧ g.attr.dpl.toNat < level.toNat ∧ conforming g.attr = false then { g with sel := 0, valid := false }
      else g := by
  simp [nullOuter, and_assoc, same]

end stack

section outer
variable {wide : Bool} {sp eip image : Word32} {csel : Word16} {s t u v w y : State} {d sd : Desc} {e k : Nat} {dn : Done}
  {er : Err}

/-- How a return to an outer level ends: what data segments that level may not use become null (42_control_transfer.md R498). -/
def State.leftOuter (eip : Word32) (level : BitVec 2) (t : State) : State :=
  State.resumeAt eip (t.nullOuterSegments level)

/-- The rest of a return to an outer level, once SS and ESP are read (45_interrupt_instructions.md R641). -/
def iretOnStack (wide : Bool) (s : State) (eip : Word32) (csel : Word16) (image : Word32) (d : Desc) (nesp : Word32)
    (nss : Word16) : M Done := do
  let sd ← checkSs nss (rpl csel) .gp false
  checkTarget (descLimit d) eip false
  commitOuter csel d nss sd wide nesp
  iretEnds wide false s image (State.leftOuter eip (rpl csel))

/-- The return to an outer level, once its code segment is accepted (45_interrupt_instructions.md R641). -/
def iretOuter (wide : Bool) (s : State) (sp eip : Word32) (csel : Word16) (image : Word32) (d : Desc) : M Done := do
  requireStack sp (5 * itemSize wide)
  let nesp ← readStack (sp + BitVec.ofNat 32 (3 * itemSize wide)) (itemSize wide)
  let nss ← readStack (sp + BitVec.ofNat 32 (4 * itemSize wide)) 2
  iretOnStack wide s eip csel image d (BitVec.ofNat 32 nesp) (BitVec.ofNat 16 nss)

theorem iretOuter_noRoom (full : inLimit u.ss sp (5 * itemSize wide) = false) :
    iretOuter wide s sp eip csel image d u = .error (.exn ⟨.ss, some 0, false⟩) u := run_bind_error (requireStack_no full)

theorem iretOuter_read (room : inLimit u.ss sp (5 * itemSize wide) = true)
    (read : readItems [(sp + BitVec.ofNat 32 (3 * itemSize wide), itemSize wide),
      (sp + BitVec.ofNat 32 (4 * itemSize wide), 2)] u = .ok [e, k] v) :
    iretOuter wide s sp eip csel image d u =
      iretOnStack wide s eip csel image d (BitVec.ofNat 32 e) (BitVec.ofNat 16 k) v := by
  obtain ⟨z, pointer, read⟩ := readItems_cons_eq_ok read
  obtain ⟨y, segment, read⟩ := readItems_cons_eq_ok read
  cases readItems_nil_eq_ok read
  rw [iretOuter, run_bind_ok (requireStack_ok room), run_bind_ok pointer, run_bind_ok segment]

section checked
variable {nesp : Word32} {nss : Word16}

theorem iretOnStack_refused (stops : checkSs nss (rpl csel) .gp false v = .error er w) :
    iretOnStack wide s eip csel image d nesp nss v = .error er w := run_bind_error stops

variable (checked : checkSs nss (rpl csel) .gp false v = .ok sd w)
include checked

theorem iretOnStack_beyond (beyond : (descLimit d).toNat < eip.toNat) :
    iretOnStack wide s eip csel image d nesp nss v = .error (.exn ⟨.gp, some 0, false⟩) w :=
  (run_bind_ok checked).trans (run_bind_error (checkTarget_no beyond))

theorem iretOnStack_taken (within : eip.toNat ≤ (descLimit d).toNat)
    (taken : commitOuter csel d nss sd wide nesp w = .ok () y) :
    iretOnStack wide s eip csel image d nesp nss v = iretEnds wide false s image (State.leftOuter eip (rpl csel)) y := by
  rw [iretOnStack, run_bind_ok checked, run_bind_ok (checkTarget_ok within), run_bind_ok taken]

end checked

theorem iretOuter_eq_ok (h : iretOuter wide s sp eip csel image d u = .ok dn t) : ∃ nesp nss sd w y, Accessed u w ∧
    commitOuter csel d nss sd wide nesp w = .ok () y ∧
      iretEnds wide false s image (State.leftOuter eip (rpl csel)) y = .ok dn t := by
  obtain ⟨_, z, required, rest⟩ := run_bind_eq_ok.mp h
  cases requireStack_eq_ok required
  obtain ⟨e, v, pointer, rest⟩ := run_bind_eq_ok.mp rest
  obtain ⟨k, v', segment, rest⟩ := run_bind_eq_ok.mp rest
  obtain ⟨sd, w, checked, rest⟩ := run_bind_eq_ok.mp rest
  obtain ⟨-, rest⟩ := checkTarget_then_eq_ok rest
  obtain ⟨_, y, taken, rest⟩ := run_bind_eq_ok.mp rest
  exact ⟨_, _, sd, w, y, ((touches_readStack _ _).accessed pointer).trans
    (((touches_readStack _ _).accessed segment).trans ((touches_checkSs _ _ _ _).accessed checked)), taken, rest⟩

end outer

section privilege
variable {wide : Bool} {sp eip image : Word32} {csel : Word16} {s t : State} {dn : Done}

/-- Past the checks of the code segment, its selector decides between the two returns (45_interrupt_instructions.md R641). -/
theorem iretWithin_eq : iretWithin wide sp eip csel image s = (do
    let d ← returnCode csel
    if rpl csel = s.cpl then iretSame wide s sp eip csel image d else iretOuter wide s sp eip csel image d : M Done) s := rfl

/-- What a return within the task has loaded once it completes, whichever level it leads to (45_interrupt_instructions.md R641). -/
theorem iretWithin_eq_ok (h : iretWithin wide sp eip csel image s = .ok dn t) : ∃ d u, returnCode csel s = .ok d u ∧
    dn = .keepRf ∧ t.eip = eip ∧ t.nmiBlocked = false ∧ t.eflags = s.iretFlags wide false image ∧ t.cr0 = s.cr0 ∧
      t.cs = segFrom csel d := by
  rw [iretWithin_eq] at h
  obtain ⟨d, u, accepted, rest⟩ := run_bind_eq_ok.mp h
  have same := (touches_returnCode _).accessed accepted
  refine ⟨d, u, accepted, ?_⟩
  split at rest <;> rename_i level
  · obtain ⟨a, v, w, probed, marked, ends⟩ := iretSame_eq_ok level rest
    have before := same.trans ((touches_probeAccessed _ _).accessed probed)
    have after := (touches_commitAccessed _).accessed marked
    obtain ⟨rfl, rfl⟩ := iretEnds_eq_ok ends (after.params.trans before.params) (after.eflags.trans before.eflags)
    exact ⟨rfl, rfl, rfl, rfl, after.cr0.trans before.cr0, rfl⟩
  · obtain ⟨nesp, nss, sd, w, y, checks, taken, ends⟩ := iretOuter_eq_ok rest
    obtain ⟨v, outer, rfl⟩ := commitOuter_takes taken
    replace same := same.trans checks
    obtain ⟨rfl, rfl⟩ := iretEnds_eq_ok ends (outer.params.trans same.params) (outer.eflags.trans same.eflags)
    exact ⟨rfl, rfl, rfl, rfl, outer.cr0.trans same.cr0, outer.cs⟩

/-- A flag that exists and that IRET does not load is as it was (45_interrupt_instructions.md R642). -/
theorem flagsLoaded.kept {vm : Bool} {k : Nat} (h : flagsLoaded s t wide vm image) (hk : k < 32)
    (defined : ¬flagReserved s.params k) (keeps : ¬iretLoads s.params s.iopl s.cpl wide vm k) : bit t.eflags k = bit s.eflags k :=
  (h k (eq_true_of_ne_false (mt (bit_eflagsMask s.params hk).mp defined))).2 keeps

/-- A flag that exists and that IRET loads is the image's (45_interrupt_instructions.md R642). -/
theorem flagsLoaded.loaded {vm : Bool} {k : Nat} (h : flagsLoaded s t wide vm image) (hk : k < 32)
    (defined : ¬flagReserved s.params k) (loads : iretLoads s.params s.iopl s.cpl wide vm k) : bit t.eflags k = bit image k :=
  (h k (eq_true_of_ne_false (mt (bit_eflagsMask s.params hk).mp defined))).1 loads

/-- A state that holds the flags such a return loads and a code segment no further in is no more privileged
(45_interrupt_instructions.md R641, R642). -/
theorem privilege_kept (mode : s.protectedMode = true) (flags : flagsLoaded s t wide false image) (cr0 : t.cr0 = s.cr0)
    (outer : s.cpl.toNat ≤ (rpl t.cs.sel).toNat) : s.cpl.toNat ≤ t.cpl.toNat ∧ t.vm = false ∧
      (s.cpl ≠ 0 → t.iopl = s.iopl) ∧ (s.iopl.toNat < s.cpl.toNat → t.ifl = s.ifl) := by
  have mode' := mode
  simp only [State.protectedMode, Bool.and_eq_true, Bool.not_eq_true'] at mode'
  obtain ⟨pe, vm⟩ := mode'
  have kept17 : t.vm = false := (flags.kept (by decide) (by simp [flagReserved]) (by simp [iretLoads])).trans vm
  have pe' : t.pe = true := by rw [State.pe, cr0]; exact pe
  refine ⟨?_, kept17, fun above => bits2_eq ?_ ?_, fun above => ?_⟩
  · rwa [cpl_of_protectedMode (s := t) (by simp [State.protectedMode, pe', kept17])]
  · exact flags.kept (by decide) (by simp [flagReserved]) (by simpa [iretLoads] using above)
  · exact flags.kept (by decide) (by simp [flagReserved]) (by simpa [iretLoads] using above)
  · exact flags.kept (by decide) (by simp [flagReserved]) (by simp [iretLoads, above])

end privilege

section toV86
variable {sp eip image : Word32} {csel : Word16} {s u : State} {e k k1 k2 k3 k4 : Nat}

/-- The state a return to virtual-8086 mode ends in, the flags loaded: EIP and CS of the first items, ESP and the other five
segments of the rest of the frame (45_interrupt_instructions.md R643). -/
def State.enteredV86 (eip : Word32) (csel : Word16) (e k k1 k2 k3 k4 : Nat) (t : State) : State :=
  State.setReg { t with
    cs := v86Seg csel
    ss := v86Seg (BitVec.ofNat 16 k)
    es := v86Seg (BitVec.ofNat 16 k1)
    ds := v86Seg (BitVec.ofNat 16 k2)
    fs := v86Seg (BitVec.ofNat 16 k3)
    gs := v86Seg (BitVec.ofNat 16 k4)
    eip := eip
    nmiBlocked := false } .esp (BitVec.ofNat 32 e)

/-- Where a return to virtual-8086 mode finds ESP and its five segments, with their sizes (45_interrupt_instructions.md R643). -/
def v86Items (sp : Word32) : List (Word32 × Nat) :=
  [(sp + 12, 4), (sp + 16, 2), (sp + 20, 2), (sp + 24, 2), (sp + 28, 2), (sp + 32, 2)]

theorem iretToV86_noRoom (full : inLimit s.ss sp 36 = false) :
    iretToV86 sp eip csel image s = .error (.exn ⟨.ss, some 0, false⟩) s :=
  (run_bind_ok (run_get s)).trans (run_bind_error (requireStack_no full))

theorem iretToV86_read (level : s.cpl = 0) (room : inLimit s.ss sp 36 = true)
    (read : readItems (v86Items sp) s = .ok [e, k, k1, k2, k3, k4] u) : iretToV86 sp eip csel image s = (do
      checkTarget 0xFFFF eip false
      iretEnds true true s image (State.enteredV86 eip csel e k k1 k2 k3 k4) : M Done) u := by
  obtain ⟨u0, esp, read⟩ := readItems_cons_eq_ok read
  obtain ⟨u1, ss, read⟩ := readItems_cons_eq_ok read
  obtain ⟨u2, es, read⟩ := readItems_cons_eq_ok read
  obtain ⟨u3, ds, read⟩ := readItems_cons_eq_ok read
  obtain ⟨u4, fs, read⟩ := readItems_cons_eq_ok read
  obtain ⟨u5, gs, read⟩ := readItems_cons_eq_ok read
  cases readItems_nil_eq_ok read
  rw [iretToV86, run_bind_ok (run_get s), run_bind_ok (requireStack_ok room), run_bind_ok esp, run_bind_ok ss, run_bind_ok es,
    run_bind_ok ds, run_bind_ok fs, run_bind_ok gs, iretEnds, level]
  rfl

end toV86

/-- Settles O32: past the checks of the code segment either return loads what its frame holds, and neither raises privilege; the
return to virtual-8086 mode loads the frame's six selectors. -/
theorem interruptReturnKeepsPrivilege : Obligations.InterruptReturnKeepsPrivilege := by
  intro wide sp eip image csel s t u v w y dn er d sd a e k k1 k2 k3 k4 b returned code toV86 seg86
  refine ⟨fun mode done => ?privilege, fun stops => iretWithin_eq.trans (run_bind_error stops), fun accepted level => ?within,
    fun accepted outer => ?outer, fun level vm => ⟨iretToV86_noRoom, fun room read => ?toV86⟩⟩
  case privilege =>
    obtain ⟨d', u', accepted, rfl, heip, nmi, eflags, cr0, cs⟩ := iretWithin_eq_ok done
    refine ⟨rfl, heip, nmi, privilege_kept mode (flagsLoaded_of_eflags eflags (by simp)) cr0 ?_⟩
    rw [cs]
    exact cpl_le_of_returnCode accepted
  case within =>
    have same := (touches_returnCode _).accessed accepted
    rw [show returned = _ from iretWithin_eq.trans ((run_bind_ok accepted).trans (congrFun (if_pos level) u))]
    refine ⟨iretSame_beyond, fun within probed marked => ?_⟩
    have before := same.trans ((touches_probeAccessed _ _).accessed probed)
    have after := (touches_commitAccessed _).accessed marked
    rw [iretSame_within level within probed marked]
    exact ⟨iretEnds_refused (after.params.trans before.params), fun admitted =>
      ⟨_, iretEnds_ok (after.params.trans before.params) (after.eflags.trans before.eflags) admitted,
        flagsLoaded_of_eflags rfl (by simp), rfl⟩⟩
  case outer =>
    have same := (touches_returnCode _).accessed accepted
    rw [show returned = _ from iretWithin_eq.trans ((run_bind_ok accepted).trans (congrFun (if_neg outer) u)), ← same.ss]
    refine ⟨iretOuter_noRoom, fun room read => ?_⟩
    rw [iretOuter_read room read]
    refine ⟨iretOnStack_refused, fun checked => ⟨iretOnStack_beyond checked, fun within taken => ?_⟩⟩
    rw [iretOnStack_taken checked within taken]
    obtain ⟨v', inForce, rfl⟩ := commitOuter_takes taken
    replace same := same.trans (((touches_readItems _).accessed read).trans ((touches_checkSs _ _ _ _).accessed checked))
    refine ⟨iretEnds_refused (inForce.params.trans same.params), fun admitted =>
      ⟨_, iretEnds_ok (inForce.params.trans same.params) (inForce.eflags.trans same.eflags) admitted,
        flagsLoaded_of_eflags rfl (by simp), rfl, inForce.cs, rfl, fun big => ?big, fun small => ?small, ?segments⟩⟩
    case big =>
      rw [← same.reg]
      exact (takeStack_esp_big ((withAccessed_db _).symm.trans big) e v').trans (by rw [inForce.reg]; rfl)
    case small => exact takeStack_esp_small ((withAccessed_db _).symm.trans small) e v'
    case segments =>
      simp only [List.forall_mem_cons, List.not_mem_nil, false_implies, implies_true, and_true]
      exact ⟨nullOuter_eq _ (inForce.es.trans same.es), nullOuter_eq _ (inForce.ds.trans same.ds),
        nullOuter_eq _ (inForce.fs.trans same.fs), nullOuter_eq _ (inForce.gs.trans same.gs)⟩
  case toV86 =>
    have same := (touches_readItems _).accessed read
    rw [show toV86 = _ from iretToV86_read level room read]
    refine ⟨fun beyond => run_bind_error (checkTarget_no beyond), fun within => ?_, fun within admitted => ?_⟩
    all_goals rw [run_bind_ok (checkTarget_ok within)]
    · exact iretEnds_refused same.params
    · have flags {t : State} (loaded : t.eflags = s.iretFlags true true image) : flagsLoaded s t true true image :=
        flagsLoaded_of_eflags loaded fun _ => ⟨rfl, level⟩
      exact ⟨_, iretEnds_ok same.params same.eflags admitted, flags rfl,
        ((flags rfl).loaded (by decide) (by simp [flagReserved]) (by simp [iretLoads])).trans vm, rfl⟩

end Sys2Proof.Machine
end

section
/-! INT 3, INT n, INTO and BOUND (45_interrupt_instructions.md R630 to R634). -/

namespace Sys2Proof.Machine

open Sys2Proof

section software
variable {p : Prefixes} {n vector : Byte} {next : Word32} {s u : State} {switched : Bool} {e : Err}

@[simp] theorem State.begin_off (s : State) : s.begin.off = s.off := by simp [State.off]

/-- A software interrupt whose delivery stops is stopped so (45_interrupt_instructions.md R630). -/
theorem softInterrupt_stops (stops : deliver vector true next none false s.begin = .error e u) :
    runInstr (softInterrupt vector next) s = failed s e u := runInstr_stops stops

/-- RF is clear afterwards, but for a task switch (46_debug.md R677). -/
theorem softInterrupt_delivers (delivered : deliver vector true next none false s.begin = .ok switched u) :
    runInstr (softInterrupt vector next) s = .next (if switched then u else u.setFlag 16 false) := by
  have done : softInterrupt vector next s.begin = .ok (if switched then .keepRf else .normal) u := run_bind_ok delivered
  rw [runInstr_ok done]
  cases switched <;> rfl

variable (plain : Prefixes.plain p = true)
include plain

theorem exec_int3 : exec (.int3 p) s = runInstr (softInterrupt 3 (s.nextPc p 1)) s := by
  rw [← State.begin_nextPc]
  exact (runInstr_plain plain).trans (runInstr_get _ s)

/-- INT n where IOPL admits it (45_interrupt_instructions.md R630). -/
theorem exec_intImm (admits : s.v86 = true → s.iopl = 3) :
    exec (.intImm p n) s = runInstr (softInterrupt n (s.nextPc p 2)) s := by
  refine (runInstr_plain plain).trans ((runInstr_get _ s).trans ?_)
  have passes : (s.begin.v86 && decide (s.begin.iopl.toNat < 3)) = false := by simpa [iopl_lt_three_iff] using admits
  rw [passes, State.begin_nextPc]
  rfl

theorem exec_intImm_denied (v86 : s.v86 = true) (below : s.iopl ≠ 3) :
    exec (.intImm p n) s = raised s s.begin .gp (some 0) := by
  refine (runInstr_plain plain).trans ((runInstr_get _ s).trans ?_)
  have denies : (s.begin.v86 && decide (s.begin.iopl.toNat < 3)) = true := by simpa [iopl_lt_three_iff, v86] using below
  rw [denies]
  exact runInstr_error (run_raiseGp0 _)

theorem exec_into : exec (.into p) s = runInstr (if s.off then softInterrupt 4 (s.nextPc p 1) else advance p 1) s := by
  rw [← State.begin_nextPc, ← State.begin_off]
  exact (runInstr_plain plain).trans (runInstr_get _ s)

end software

section bound
variable {p : Prefixes} {r : Reg} {m : MemOp} {s u v : State} {lo hi : Nat}

/-- Is the index within both signed bounds, at the operand size (45_interrupt_instructions.md R634)? -/
def State.insideBounds (s : State) (p : Prefixes) (r : Reg) (lo hi : Nat) : Bool :=
  if s.op32 p then
    decide ((BitVec.ofNat 32 lo).toInt ≤ (s.reg r).toInt) && decide ((s.reg r).toInt ≤ (BitVec.ofNat 32 hi).toInt)
  else
    decide ((BitVec.ofNat 16 lo).toInt ≤ (lo16 (s.reg r)).toInt) &&
      decide ((lo16 (s.reg r)).toInt ≤ (BitVec.ofNat 16 hi).toInt)

theorem insideBounds_iff : s.insideBounds p r lo hi = true ↔ if s.op32 p then
      (BitVec.ofNat 32 lo).toInt ≤ (s.reg r).toInt ∧ (s.reg r).toInt ≤ (BitVec.ofNat 32 hi).toInt
    else (BitVec.ofNat 16 lo).toInt ≤ (lo16 (s.reg r)).toInt ∧ (lo16 (s.reg r)).toInt ≤ (BitVec.ofNat 16 hi).toInt := by
  unfold State.insideBounds
  split <;> rw [Bool.and_eq_true, decide_eq_true_eq, decide_eq_true_eq]

/-- What BOUND does with a memory operand (45_interrupt_instructions.md R634). -/
def boundMem (p : Prefixes) (r : Reg) (m : MemOp) : M Done := do
  let s ← get
  checkExtent p m (2 * s.opBytes p) false
  let lower ← readMem p m 0 (s.opBytes p) (s.opBytes p)
  let upper ← readMem p m (s.opBytes p) (s.opBytes p) (s.opBytes p)
  if s.insideBounds p r lower upper then advance p (1 + m.size) else raisePlain .br

theorem exec_boundMem (plain : Prefixes.plain p = true) : exec (.bound p r (.mem m)) s = runInstr (boundMem p r m) s :=
  runInstr_plain plain

/-- The two bounds are one operand, of twice the operand size (20_memory.md R121, 21_segmentation.md R234). -/
theorem boundMem_outside
    (outside : segOk s.protectedMode (s.seg (operandSeg p m)) (s.ea m) (2 * s.opBytes p) false = false) :
    boundMem p r m s = .error (.exn ⟨if operandSeg p m = .ss then .ss else .gp, some 0, false⟩) s :=
  (run_bind_ok (run_get s)).trans (run_bind_error (checkExtent_no outside))

/-- Both bounds are read before the comparison (45_interrupt_instructions.md R634). -/
theorem boundMem_read
    (extent : segOk s.protectedMode (s.seg (operandSeg p m)) (s.ea m) (2 * s.opBytes p) false = true)
    (lower : readMem p m 0 (s.opBytes p) (s.opBytes p) s = .ok lo u)
    (upper : readMem p m (s.opBytes p) (s.opBytes p) (s.opBytes p) u = .ok hi v) :
    boundMem p r m s =
      if s.insideBounds p r lo hi then advance p (1 + m.size) v else .error (.exn ⟨.br, none, false⟩) v := by
  rw [boundMem, run_bind_ok (run_get s), run_bind_ok (checkExtent_ok extent), run_bind_ok lower, run_bind_ok upper, run_ite,
    run_raisePlain]

end bound

/-- Settles O30: INT 3, INT n and INTO are the delivery of their vector where it is made; BOUND reads its two bounds, then compares. -/
theorem interruptInstructions : Obligations.InterruptInstructions := by
  intro p n r q m s u v switched lo hi e plain
  refine ⟨fun stops => (exec_int3 plain).trans (softInterrupt_stops stops),
    fun admits stops => (exec_intImm plain admits).trans (softInterrupt_stops stops),
    fun overflow stops => ?intoStops,
    fun delivered => (exec_int3 plain).trans (softInterrupt_delivers delivered),
    fun admits delivered => (exec_intImm plain admits).trans (softInterrupt_delivers delivered),
    exec_intImm_denied plain, fun overflow delivered => ?intoDelivers, fun none => ?intoGoesOn, ?boundReg,
    fun outside => ?outside, fun extent lower upper inside hinside => ?compare⟩
  case intoStops =>
    rw [exec_into plain, if_pos overflow]
    exact softInterrupt_stops stops
  case intoDelivers =>
    rw [exec_into plain, if_pos overflow]
    exact softInterrupt_delivers delivered
  case intoGoesOn =>
    rw [exec_into plain, if_neg (by simp [none])]
    exact ⟨_, runInstr_retire rfl, rfl, sameBytes_of_mem (by simp) _⟩
  case boundReg => exact (runInstr_plain plain).trans (runInstr_error (run_raiseUd _))
  case outside =>
    rw [← State.begin_protectedMode, ← State.begin_seg, ← State.begin_ea, ← State.begin_opBytes] at outside
    exact (exec_boundMem plain).trans (runInstr_error (boundMem_outside outside))
  case compare =>
    rw [← State.begin_protectedMode, ← State.begin_seg, ← State.begin_ea, ← State.begin_opBytes] at extent
    rw [← State.begin_opBytes] at lower upper
    rw [← State.begin_op32, ← State.begin_reg, ← insideBounds_iff] at hinside
    have read := boundMem_read (r := r) extent lower upper
    rw [exec_boundMem plain, hinside]
    exact ⟨fun within => ⟨_, runInstr_retire (read.trans (if_pos within)), rfl, sameBytes_of_mem rfl _⟩,
      fun beyond => runInstr_error (read.trans (if_neg beyond))⟩

end Sys2Proof.Machine
end

section
/-! RESET (70_reset_and_hazards.md R900, R905) and the boundary of a running machine (60_exceptions.md R760, R790; 46_debug.md R676,
R686, R688): what it recognises, in which order, and the instruction it otherwise fetches and executes. -/

namespace Sys2Proof.Machine

open Sys2Proof

section reset

/-- RESET comes before anything else (70_reset_and_hazards.md R900). -/
theorem step_reset {s : State} (line : s.resetLine = true) : step s = .next s.resetFrom := if_pos line

/-- The bits of CR0 that RESET clears whatever RESET_CR0 holds there (70_reset_and_hazards.md R905). -/
theorem bit_cr0AtReset (p : Params) {k : Nat} (hk : k ∈ [0, 16, 31]) : bit (Params.cr0AtReset p) k = false := by
  have cleared : ∀ k ∈ [0, 16, 31], bit 0x7FFEFFFE k = false := by decide
  rw [Params.cr0AtReset, bit, BitVec.getLsbD_and]
  exact Bool.and_eq_false_imp.mpr fun _ => cleared k hk

end reset

/-- Settles O57: after RESET memory lists nothing, no reserved bit is set, and PG is clear. -/
theorem resetHasInvariant : Obligations.ResetHasInvariant where
  mem := wf_reset
  eflags := fixEflags_two _
  paging := fun pg => absurd pg (by rw [State.pg, State.reset, State.resetWith, bit_cr0AtReset _ (by decide)]; decide)
  cr4 := BitVec.zero_and
  dr6 := BitVec.zero_and
  dr7 := BitVec.zero_and

/-- Settles O58: the step is RESET, whose state has the values of R905 by definition; those of CR0 depend on a parameter. -/
theorem resetState : Obligations.ResetState := by
  refine ⟨fun s line => ?_, rfl, rfl, rfl, by decide, rfl, by decide⟩
  have pe : s.resetFrom.pe = false := bit_cr0AtReset s.params (by decide)
  have pg : s.resetFrom.pg = false := bit_cr0AtReset s.params (by decide)
  have wp : s.resetFrom.wp = false := bit_cr0AtReset s.params (by decide)
  have level : s.resetFrom.cpl = 0 := by rw [State.cpl, pe]; rfl
  have start : s.resetFrom.cs.base + s.resetFrom.eip = 0xFFFFFFF0 := by
    show (0xFFFF0000 : Word32) + 0x0000FFF0 = 0xFFFFFFF0
    decide
  exact ⟨_, step_reset line, sameBytes_of_mem rfl _, rfl, rfl, start, rfl, pe, pg, wp, level, rfl, rfl, rfl, rfl, rfl, rfl, rfl,
    rfl, rfl, rfl, rfl, rfl, rfl, rfl⟩

section boundary
variable {s : State} {v : Byte}

theorem boundary_of_running (running : s.run = .running) : boundary s = runBoundary s := by
  unfold boundary
  rw [running]

/-- A machine that runs goes on running. -/
theorem State.with_running (running : s.run = .running) : { s with run := .running } = s := by rw [← running]

theorem nmiReady_eq_false (noNmi : s.nmiPending = false ∨ s.nmiBlocked = true) : nmiReady s = false := by
  rcases noNmi with h | h <;> simp [nmiReady, h]

/-- The machine once nothing is to be reported at the boundary: holds and conditions that are not enabled are dropped
(46_debug.md R686). -/
def State.unreported (s : State) : State := { s with inhibitSti := false, dbPending := DbPending.none }

/-- A load of SS holds the boundary, and drops the single-step condition (60_exceptions.md R760). -/
theorem runBoundary_held (held : s.inhibitSs = true) : runBoundary s =
    executeOne { s with inhibitSs := false, inhibitSti := false, dbPending := { s.dbPending with bs := false } } :=
  if_pos held

section free
variable (free : s.inhibitSs = false)
include free

theorem runBoundary_reports (reports : s.dbPending.reports = true) :
    runBoundary s = reportDebug { s with inhibitSti := false } := by
  rw [runBoundary, if_neg (by simp [free])]
  exact if_pos reports

variable (quiet : s.dbPending.reports = false)
include quiet

theorem runBoundary_codeBp (fires : codeBpFires s.unreported = true) : runBoundary s = reportCodeBp s.unreported := by
  rw [runBoundary, if_neg (by simp [free])]
  exact (if_neg (by simp [quiet])).trans (if_pos fires)

variable (passes : codeBpFires s.unreported = false)
include passes

/-- Past the debug exceptions an NMI comes first (60_exceptions.md R760, R790). -/
theorem runBoundary_passed : runBoundary s =
    if nmiReady s then takeNmi s.unreported
    else match intrReady s with
      | some v => if s.inhibitSti then executeOne s.unreported else takeIntr v s.unreported
      | none => executeOne s.unreported := by
  rw [runBoundary, if_neg (by simp [free])]
  exact (if_neg (by simp [quiet])).trans (if_neg (by simpa [State.unreported] using passes))

theorem runBoundary_nmi (pending : s.nmiPending = true) (unblocked : s.nmiBlocked = false) :
    runBoundary s = takeNmi s.unreported :=
  (runBoundary_passed free quiet passes).trans (if_pos (by simp [nmiReady, pending, unblocked]))

variable (noNmi : s.nmiPending = false ∨ s.nmiBlocked = true)
include noNmi

theorem runBoundary_intr (admits : s.ifl = true) (asserted : s.intr = some v) : runBoundary s =
    if s.inhibitSti then executeOne s.unreported else takeIntr v s.unreported := by
  rw [runBoundary_passed free quiet passes, nmiReady_eq_false noNmi, intrReady, admits, asserted]
  rfl

theorem runBoundary_instr (none : s.ifl = false ∨ s.intr = none) : runBoundary s = executeOne s.unreported := by
  have noIntr : intrReady s = .none := by rcases none with h | h <;> simp [intrReady, h]
  rw [runBoundary_passed free quiet passes, nmiReady_eq_false noNmi, noIntr]
  rfl

end free

/-- The start of an instruction adds TF to the single-step condition, and time passes (46_debug.md R690, 10_state.md R108). -/
theorem begin_advances (s : State) :
    s.begin = { s with
        dbPending := { s.dbPending with bs := s.dbPending.bs || bit s.eflags 8 }, tsc := s.begin.tsc, free := s.begin.free } ∧
      (s.params.hasTSC = false → s.begin.tsc = s.tsc ∧ s.begin.free = s.free) ∧
      (s.params.hasTSC = true → ∃ d, 0 < d ∧ d ≤ 2 ^ 32 ∧ s.begin.tsc = s.tsc + BitVec.ofNat 64 d) := by
  obtain ⟨frame, without, advances⟩ := tick_advances { s with dbPending := { s.dbPending with bs := s.dbPending.bs || s.tf } }
  exact ⟨frame, fun none => ⟨(congrArg State.tsc (without none) :), (congrArg State.free (without none) :)⟩, advances⟩

theorem takeNmi_of_running (running : s.run = .running) :
    takeNmi s = deliverEvent 2 { s with nmiPending := false, nmiBlocked := true } := by
  rw [takeNmi, ← running]
  rfl

theorem takeIntr_of_running (running : s.run = .running) : takeIntr v s = deliverEvent v { s with intr := none } := by
  rw [takeIntr, ← running]

/-- What makes the handler of `#DB` the running task: the entry of vector 1 is a task gate that names its TSS (46_debug.md R688). -/
theorem ownDebugTask_iff (s : State) : s.ownDebugTask = true ↔ s.pe = true ∧ ∃ g u, readIdtGate 1 false s = .ok g u ∧
    descType g = 5 ∧ selTi (gateSelector g) = false ∧ selIndex (gateSelector g) = selIndex s.tr.sel := by
  have vector : Exc.db.vector = 1 := rfl
  unfold State.ownDebugTask
  rw [vector]
  cases readIdtGate 1 false s with
  | ok g u => simp [and_assoc]
  | error e u => simp

/-- The state in which a running machine delivers a debug trap (46_debug.md R686). -/
theorem debugTrapped_of_running (running : s.run = .running) : State.debugTrapped { s with inhibitSti := false } =
    { s with inhibitSti := false, dr6 := s.dr6 ||| s.dbPending.dr6Bits, dbPending := DbPending.none } := by
  rw [← State.with_running running]
  rfl

/-- Every breakpoint that matches is reported in DR6 by its bit (46_debug.md R676). -/
theorem reportCodeBp_unreported (s : State) : reportCodeBp s.unreported = deliverEvent 1 { s.unreported with dr6 := s.dr6 |||
    (if codeBpMatch s 0 s.dr0 then 1 else 0) ||| (if codeBpMatch s 1 s.dr1 then 2 else 0) |||
    (if codeBpMatch s 2 s.dr2 then 4 else 0) ||| (if codeBpMatch s 3 s.dr3 then 8 else 0) } := by
  simp only [BitVec.or_assoc]
  rw [reportCodeBp, hitBits]
  simp only [BitVec.or_assoc]
  rfl

end boundary

/-- Settles O59: the boundary of a running machine, branch by branch. -/
theorem boundaryPriority : Obligations.BoundaryPriority := by
  refine ⟨fun s t ht => ht ▸ begin_advances s, fun s v running reset => ⟨step_latches reset, fun edge held => ?held,
    fun edge free => ⟨fun reports b hb own hown => ?trap, fun bs bt enabled c hc => ?passed⟩⟩⟩
  case held => rw [step_of_run reset edge, boundary_of_running running, runBoundary_held held]
  case trap =>
    have pending : s.dbPending.reports = true := by simpa [DbPending.reports, or_assoc] using reports
    have trapped : step s = reportDebug { s with inhibitSti := false } := by
      rw [step_of_run reset edge, boundary_of_running running, runBoundary_reports free pending]
    obtain ⟨other, loops⟩ := reportDebug_eq { s with inhibitSti := false }
    rw [debugTrapped_of_running running, ← hb] at other loops
    have tied : own ↔ s.dbPending.bt = true ∧ b.ownDebugTask = true := by
      rw [hown, ownDebugTask_iff, hb]
      rfl
    rw [trapped, tied]
    refine ⟨fun notOwn => other ?_, fun ⟨bt, task⟩ => loops bt task⟩
    rwa [not_and_or, Bool.not_eq_true, Bool.not_eq_true] at notOwn
  case passed =>
    have quiet : s.dbPending.reports = false := by simp [DbPending.reports, bs, bt, enabled]
    have awake : s.unreported.run = .running := running
    obtain rfl : c = s.unreported := hc
    rw [step_of_run reset edge, boundary_of_running running, ← takeNmi_of_running awake, ← takeIntr_of_running awake]
    exact ⟨fun fires => (runBoundary_codeBp free quiet fires).trans (reportCodeBp_unreported s),
      runBoundary_nmi free quiet, runBoundary_intr free quiet, runBoundary_instr free quiet⟩

section fetch
variable {s : State} {db : Bool} {i : Instr} {n k fuel : Nat} {rest : List Byte}

/-- With nothing to recognise at the boundary a step fetches and executes from this very state (60_exceptions.md R760). -/
theorem step_of_quiet (quiet : s.quiet = true) : step s = executeOne s := by
  simp only [State.quiet, Bool.and_eq_true, Bool.not_eq_true', decide_eq_true_eq, Option.isNone_iff_eq_none] at quiet
  obtain ⟨⟨⟨⟨⟨⟨⟨⟨running, reset⟩, ss⟩, sti⟩, debug⟩, codeBp⟩, nmi⟩, edge⟩, noIntr⟩ := quiet
  have same : s.unreported = s := by rw [State.unreported, ← sti, ← debug]
  have silent : s.dbPending.reports = false := by rw [debug]; rfl
  have none : s.ifl = false ∨ s.intr = none := by cases admits : s.ifl <;> simp_all [intrReady]
  rw [step_of_run reset edge, boundary_of_running running, runBoundary_instr ss silent (same ▸ codeBp) (.inl nmi) none, same]

theorem executeOne_instr {t : State} (fetched : fetchInstr s = .ok (some i) t) : executeOne s = exec i t := by
  rw [executeOne, fetched]

theorem codeBytes_length (s : State) (k : Nat) : (s.codeBytes k).length = k := by
  induction k with
  | zero => rfl
  | succ k ih => rw [State.codeBytes, List.length_append, ih, List.length_singleton]

/-- Bytes that are a whole instruction end the fetch. -/
theorem fetchFrom_whole {bs : List Byte} (whole : decode db bs = .instr i rest) : fetchFrom db fuel bs = pure (some i) := by
  unfold fetchFrom
  rw [whole]

section unpaged
variable (flat : s.Flat) (within : s.eip.toNat + n - 1 ≤ s.cs.limit.toNat)
include flat within

/-- While paging is off a byte within the limit of CS is the one in memory at CS base plus its offset (20_memory.md R126). -/
theorem fetchByte_flat (hk : k < n) :
    fetchByte k s = .ok (s.byteAt (s.cs.base + s.eip + BitVec.ofNat 32 k).toNat) s := by
  have inside : (s.eip + BitVec.ofNat 32 k).toNat ≤ s.cs.limit.toNat := by
    have := s.cs.limit.isLt
    rw [BitVec.toNat_add, BitVec.toNat_ofNat]
    omega
  rw [fetchByte, run_bind_ok (run_get s), run_ite, if_neg (Nat.not_lt.mpr inside),
    run_bind_ok (linRead_unpaged flat.pg flat.map _ _ _)]
  simp [linearSpan, ofBytes]

/-- The fetch takes byte after byte until those in hand are an instruction (30_encoding.md R338). -/
theorem fetchFrom_flat {j d : Nat} (hj : j + d = n) (enough : d ≤ fuel) (more : ∀ k < n, decode db (s.codeBytes k) = .more)
    (whole : decode db (s.codeBytes n) = .instr i rest) : fetchFrom db fuel (s.codeBytes j) s = .ok (some i) s := by
  induction d generalizing j fuel with
  | zero =>
    obtain rfl : j = n := hj
    rw [fetchFrom_whole whole, run_pure]
  | succ d ih =>
    obtain ⟨fuel, rfl⟩ : ∃ f, fuel = f + 1 := ⟨fuel - 1, by omega⟩
    rw [fetchFrom, more j (by omega), codeBytes_length]
    exact (run_bind_ok (fetchByte_flat flat within (by omega))).trans (ih (j := j + 1) (by omega) (by omega))

end unpaged

end fetch

/-- Settles O53: a quiet step fetches from this state, and the fetch takes the bytes at CS:EIP one by one. -/
theorem stepRunsDecoded : Obligations.StepRunsDecoded := by
  intro s t i n rest quiet
  rw [step_of_quiet quiet]
  refine ⟨executeOne_instr, fun pg map _ short more whole within => executeOne_instr ?_⟩
  exact fetchFrom_flat ⟨pg, map⟩ within (j := 0) (Nat.zero_add n) short more whole

end Sys2Proof.Machine
end

section
/-! Breakpoints (46_debug.md R670, R673, R676, R677): the fields of DR7, the accesses that touch a
range, and the instructions that match. -/

namespace Sys2Proof.Machine

open Sys2Proof

section fields
variable (dr7 : Word32) (i : Nat)

/-- The two bits of DR7 that say which accesses a breakpoint is for (10_state.md R97). -/
theorem bpRw_eq : bpRw dr7 i = dr7.toNat / 2 ^ (16 + 4 * i) % 4 := toNat_extractLsb'_eq_div ..

/-- The LEN field of DR7 of a breakpoint (46_debug.md R673). -/
def bpLenField (dr7 : Word32) (i : Nat) : Nat := dr7.toNat / 2 ^ (18 + 4 * i) % 4

/-- The bytes of a breakpoint's range, where its LEN is defined (46_debug.md R673). -/
def bpSize (dr7 : Word32) (i : Nat) : Nat :=
  if bpLenField dr7 i = 0 then 1 else if bpLenField dr7 i = 1 then 2 else 4

theorem bpLen_eq : bpLen dr7 i = if bpLenField dr7 i = 2 then none else some (bpSize dr7 i) := by
  have field : (bits2 dr7 (18 + 4 * i)).toNat = bpLenField dr7 i := toNat_extractLsb'_eq_div ..
  have four : bpLenField dr7 i < 4 := Nat.mod_lt _ (by decide)
  rw [bpLen, field, bpSize]
  interval_cases bpLenField dr7 i <;> rfl

theorem bpSize_pos : 0 < bpSize dr7 i := by unfold bpSize; split_ifs <;> decide

theorem bpLen_one_iff : bpLen dr7 i = some 1 ↔ bpLenField dr7 i = 0 := by
  rw [bpLen_eq, bpSize]
  split_ifs <;> simp_all

theorem bpEnabled_iff : bpEnabled dr7 i = true ↔ bit dr7 (2 * i) = true ∨ bit dr7 (2 * i + 1) = true := by
  rw [bpEnabled, Bool.or_eq_true]

end fields

section data
variable {dr7 dr la : Word32} {i n : Nat} {write : Bool}

/-- An address is in the aligned range that holds another one (46_debug.md R673). -/
theorem mem_alignedRange_iff {size a x : Nat} (pos : 0 < size) :
    a - a % size ≤ x ∧ x < a - a % size + size ↔ x / size = a / size := by
  have parts := Nat.div_add_mod' a size
  rw [Nat.div_eq_iff pos]
  generalize a / size * size = start at parts ⊢
  generalize a % size = rest at parts ⊢
  omega

theorem exists_mem_linearSpan {P : Nat → Prop} :
    (∃ x ∈ linearSpan la n, P x) ↔ ∃ k, k < n ∧ P (la + BitVec.ofNat 32 k).toNat := by
  have same : ∀ k, (la + BitVec.ofNat 32 k).toNat = (la.toNat + k) % 2 ^ 32 := fun k => by
    rw [BitVec.toNat_add, BitVec.toNat_ofNat, Nat.add_mod_mod]
  simp only [mem_linearSpan, same]
  exact ⟨fun ⟨_, ⟨k, hk, hx⟩, holds⟩ => ⟨k, hk, hx ▸ holds⟩, fun ⟨k, hk, holds⟩ => ⟨_, ⟨k, hk, rfl⟩, holds⟩⟩

/-- The accesses a data breakpoint is met by: its kind, a defined length, and a byte of its range (46_debug.md R673, R676). -/
theorem bpHit_iff : bpHit dr7 dr i la n write = true ↔ (bpRw dr7 i = 1 ∧ write = true ∨ bpRw dr7 i = 3) ∧
    bpLenField dr7 i ≠ 2 ∧ ∃ k, k < n ∧ (la + BitVec.ofNat 32 k).toNat / bpSize dr7 i = dr.toNat / bpSize dr7 i := by
  have range : (linearSpan la n).any (fun x => decide (dr.toNat - dr.toNat % bpSize dr7 i ≤ x) &&
      decide (x < dr.toNat - dr.toNat % bpSize dr7 i + bpSize dr7 i)) = true ↔
      ∃ k, k < n ∧ (la + BitVec.ofNat 32 k).toNat / bpSize dr7 i = dr.toNat / bpSize dr7 i := by
    simp only [List.any_eq_true, Bool.and_eq_true, decide_eq_true_eq, mem_alignedRange_iff (bpSize_pos dr7 i),
      exists_mem_linearSpan]
  rw [bpHit, Bool.and_eq_true, bpLen_eq, ← range]
  refine and_congr (by simp) ?_
  split_ifs with undefined <;> simp [undefined]

end data

section code
variable {s : State} {i : Nat} {dr : Word32}

/-- The instruction a breakpoint matches (46_debug.md R676). -/
theorem codeBpMatch_iff :
    codeBpMatch s i dr = true ↔ bpRw s.dr7 i = 0 ∧ bpLenField s.dr7 i = 0 ∧ dr = s.cs.base + s.eip := by
  simp only [codeBpMatch, Bool.and_eq_true, decide_eq_true_eq, bpLen_one_iff, and_assoc]

end code

/-- The four breakpoints, by number and register (46_debug.md R670). -/
def State.breakpoints (s : State) : List (Nat × Word32) := [(0, s.dr0), (1, s.dr1), (2, s.dr2), (3, s.dr3)]

/-- Some breakpoint that meets a condition is enabled. -/
theorem exists_breakpoint_iff (s : State) (hit : Nat → Word32 → Bool) :
    ((hit 0 s.dr0 && bpEnabled s.dr7 0) || (hit 1 s.dr1 && bpEnabled s.dr7 1) || (hit 2 s.dr2 && bpEnabled s.dr7 2) ||
      (hit 3 s.dr3 && bpEnabled s.dr7 3)) = true ↔
    ∃ x ∈ s.breakpoints, hit x.1 x.2 = true ∧ (bit s.dr7 (2 * x.1) = true ∨ bit s.dr7 (2 * x.1 + 1) = true) := by
  simp [State.breakpoints, bpEnabled_iff, or_assoc]

/-- Settles O50: the check of an access and the match of an instruction, breakpoint by breakpoint. -/
theorem breakpoints : Obligations.Breakpoints := by
  intro la n write s kind len size enabled touched reached after
  have touches : ∀ i dr, bpHit s.dr7 dr i la n write = true ↔ touched i dr := fun i dr => by
    rw [bpHit_iff, bpRw_eq]
    rfl
  have reaches : ∀ i dr, codeBpMatch s i dr = true ↔ reached i dr := fun i dr => by
    rw [codeBpMatch_iff, bpRw_eq]
    rfl
  have joins : ∀ (old : Bool) (i : Nat) (dr : Word32), (old || bpHit s.dr7 dr i la n write) = true ↔
      old = true ∨ touched i dr := fun old i dr => by rw [Bool.or_eq_true, touches]
  refine ⟨rfl, rfl, rfl, ?_, fun x _ => reaches x.1 x.2, ?_, ?_⟩
  · simp only [List.forall_mem_cons, List.not_mem_nil, false_imp_iff, implies_true, and_true]
    exact ⟨joins _ 0 _, joins _ 1 _, joins _ 2 _, joins _ 3 _⟩
  · refine (Bool.or_eq_true_iff).trans (or_congr_right ?_)
    simp only [← touches]
    exact exists_breakpoint_iff s fun i dr => bpHit s.dr7 dr i la n write
  · rw [codeBpFires, Bool.and_eq_true, Bool.not_eq_true']
    simp only [← reaches]
    exact and_congr_right fun _ => exists_breakpoint_iff s fun i dr => codeBpMatch s i dr

end Sys2Proof.Machine
end

section
/-! The floating-point unit at system level (47_fpu_system.md): the checks of ESC and WAIT, the control instructions without a wait, and
those of them that store an area in memory. -/

namespace Sys2Proof.Machine

open Sys2Proof

section checks
variable {s : State}

@[simp] theorem State.begin_em (s : State) : s.begin.em = s.em := by simp [State.em]
@[simp] theorem State.begin_mp (s : State) : s.begin.mp = s.mp := by simp [State.mp]
@[simp] theorem State.begin_ts (s : State) : s.begin.ts = s.ts := by simp [State.ts]
@[simp] theorem State.begin_ne (s : State) : s.begin.ne = s.ne := by simp [State.ne]

theorem escAvailable_ok (em : s.em = false) (ts : s.ts = false) : escAvailable s = .ok () s := by simp [escAvailable, em, ts]

theorem escAvailable_no (unavailable : s.em = true ∨ s.ts = true) : escAvailable s = .error (.exn ⟨.nm, none, false⟩) s := by
  rcases unavailable with h | h <;> simp [escAvailable, h]

theorem fpuErrorPending_eq_true {f : FpuState} (h : f.status &&& ~~~f.control &&& 0x3F ≠ 0) : fpuErrorPending f = true :=
  decide_eq_true h

/-- Without an error, or with one that IGNNE# tells to ignore, the instruction goes on (47_fpu_system.md R720). -/
theorem checkFpError_passes (goesOn : fpuErrorPending s.fpu = false ∨ s.ne = false ∧ s.ignne = true) :
    checkFpError s = .ok false s := by
  rcases goesOn with none | ⟨ne, ignored⟩
  · simp [checkFpError, none]
  · cases pending : fpuErrorPending s.fpu <;> simp [checkFpError, pending, ne, ignored]

theorem checkFpError_mf (pending : fpuErrorPending s.fpu = true) (ne : s.ne = true) :
    checkFpError s = .error (.exn ⟨.mf, none, false⟩) s := by simp [checkFpError, pending, ne]

/-- The processor frozen by an error that is not reported (47_fpu_system.md R722; log entry 16). -/
def State.frozen (s : State) : State := { s with run := .fpFrozen, dbPending := { s.dbPending with bs := false } }

theorem checkFpError_freezes (pending : fpuErrorPending s.fpu = true) (ne : s.ne = false) (active : s.ignne = false) :
    checkFpError s = .ok true s.frozen := by
  simp [checkFpError, pending, ne, active, State.frozen]

end checks

section waiting
variable {p : Prefixes} {op reg : BitVec 3} {rm : Rm} {s : State} {i : Instr}

theorem runInstr_escAvailable {k : M Done} (plain : Prefixes.plain p = true) (em : s.em = false) (ts : s.ts = false) :
    runInstr (do plainPrefixes p; escAvailable; k) s = runInstr k s :=
  (runInstr_plain plain).trans (runInstr_passes (escAvailable_ok (by simp [em]) (by simp [ts])))

theorem raised_of_escAvailable {k : M Done} (plain : Prefixes.plain p = true) (unavailable : s.em = true ∨ s.ts = true) :
    runInstr (do plainPrefixes p; escAvailable; k) s = raised s s.begin .nm none :=
  (runInstr_plain plain).trans (runInstr_stops (escAvailable_no (by simpa using unavailable)))

/-- What an instruction that waits for the numeric unit does once the error check has let it (47_fpu_system.md R720). -/
def afterFpError (k : M Done) : M Done := do if ← checkFpError then pure .keepRf else k

/-- ESC with EM and TS clear (47_fpu_system.md R714, R716). -/
theorem exec_esc (plain : Prefixes.plain p = true) (em : s.em = false) (ts : s.ts = false) :
    exec (.esc p op reg rm) s = runInstr (afterFpError (refuse .fpuDataPath)) s := runInstr_escAvailable plain em ts

/-- WAIT where MP or TS is clear (47_fpu_system.md R715). -/
theorem exec_wait (plain : Prefixes.plain p = true) (available : s.mp = false ∨ s.ts = false) :
    exec (.wait p) s = runInstr (afterFpError (advance p 1)) s := by
  have goesOn : (s.begin.mp && s.begin.ts) = false := by rcases available with h | h <;> simp [h]
  refine (runInstr_plain plain).trans ?_
  rw [runInstr_get, goesOn]
  rfl

theorem exec_wait_unavailable (plain : Prefixes.plain p = true) (mp : s.mp = true) (ts : s.ts = true) :
    exec (.wait p) s = raised s s.begin .nm none := by
  have stops : (s.begin.mp && s.begin.ts) = true := by simp [mp, ts]
  refine (runInstr_plain plain).trans ?_
  rw [runInstr_get, stops]
  rfl

theorem runInstr_afterFpError {k : M Done} (goesOn : fpuErrorPending s.fpu = false ∨ s.ne = false ∧ s.ignne = true) :
    runInstr (afterFpError k) s = runInstr k s :=
  runInstr_passes (checkFpError_passes (by simpa using goesOn))

/-- WAIT that goes on is retired and changes nothing else (47_fpu_system.md R715). -/
theorem exec_wait_retires (plain : Prefixes.plain p = true) (available : s.mp = false ∨ s.ts = false)
    (goesOn : fpuErrorPending s.fpu = false ∨ s.ne = false ∧ s.ignne = true) :
    ∃ t, exec (.wait p) s = .next t ∧ t = s.begin.retire p 1 ∧ sameBytes s t [] :=
  ⟨_, (exec_wait plain available).trans ((runInstr_afterFpError goesOn).trans (runInstr_retire rfl)), rfl,
    sameBytes_of_mem (by simp) _⟩

/-- An error that stops an instruction: `#MF` with NE set, a frozen processor otherwise (47_fpu_system.md R720, R722). -/
theorem afterFpError_stops {k : M Done} (form : exec i s = runInstr (afterFpError k) s) (pending : fpuErrorPending s.fpu = true) :
    (s.ne = true → exec i s = raised s s.begin .mf none) ∧
      (s.ne = false → s.ignne = false → ∃ t, exec i s = .next t ∧ t.run = .fpFrozen ∧ t.eip = s.eip ∧ sameBytes s t []) := by
  rw [← State.begin_fpu] at pending
  refine ⟨fun ne => form.trans (runInstr_stops (checkFpError_mf pending (by simp [ne]))), fun ne active => ?_⟩
  have frozen := checkFpError_freezes pending (by simp [ne]) (by simp [active])
  refine ⟨_, form.trans (runInstr_ok (run_bind_ok frozen)), rfl, ?_, sameBytes_of_mem ?_ _⟩
  · exact State.begin_eip s
  · exact State.begin_mem s

end waiting

section control
variable {p : Prefixes} {s : State} {f : FpuState}

/-- A status word without its exception flags has no error pending, whatever is masked (47_fpu_system.md R734). -/
theorem fpuErrorPending_of_status {w : Word16} (cleared : f.status = w &&& 0x7F00) : fpuErrorPending f = false := by
  have apart : (0x7F00 : Word16) &&& 0x3F = 0 := by decide
  refine fpuErrorPending_eq_false ?_
  calc f.status &&& ~~~f.control &&& 0x3F
      = (w &&& ~~~f.control) &&& (0x7F00 &&& 0x3F) := by rw [cleared]; ac_rfl
    _ = 0 := by rw [apart]; exact BitVec.and_zero

theorem fpuErrorPending_fpuInitialised (f : FpuState) : fpuErrorPending (fpuInitialised f) = false :=
  fpuErrorPending_of_status (w := 0) BitVec.zero_and.symm

variable (plain : Prefixes.plain p = true) (em : s.em = false) (ts : s.ts = false)
include plain em ts

theorem exec_fninit : exec (.fninit p) s = .next (State.retire { s.begin with fpu := fpuInitialised s.fpu } p 2) :=
  (runInstr_escAvailable plain em ts).trans (runInstr_retire (by rw [run_bind, run_modify, State.begin_fpu]))

theorem exec_fnclex : exec (.fnclex p) s = .next (State.retire { s.begin with fpu := fpuCleared s.fpu } p 2) :=
  (runInstr_escAvailable plain em ts).trans (runInstr_retire (by rw [run_bind, run_modify, State.begin_fpu]))

theorem exec_fnstswAx : exec (.fnstswAx p) s = .next (State.retire (s.begin.setReg16 .eax (fpuStatusWord s.fpu)) p 2) :=
  (runInstr_escAvailable plain em ts).trans (runInstr_retire (by rw [run_bind, run_modify, State.begin_fpu]))

end control

section stores
variable {p : Prefixes} {m : MemOp} {s b u : State} {x : Slot} {e : Err} {n : Nat}

/-- A control instruction that stores an area: the area, the free values used up before it is checked, the value, and what becomes of
the unit (47_fpu_system.md R736 to R739). -/
structure FpuStore where
  instr : Instr
  size : Nat
  align : Nat
  free : Nat
  value : Nat
  after : FpuState → FpuState

/-- The four control instructions that store an area (47_fpu_system.md R736 to R739). -/
def fpuStoreForms (p : Prefixes) (m : MemOp) (s : State) : List FpuStore :=
  let env := fpuEnvironment s.fpu (s.op32 p) s.protectedMode s.begin.free
  [⟨.fnstswMem p m, 2, 2, s.begin.free, (fpuStatusWord s.fpu).toNat, id⟩,
   ⟨.fnstcw p m, 2, 2, s.begin.free, s.fpu.control.toNat, id⟩,
   ⟨.fnstenv p m, envSize (s.op32 p), s.opBytes p, s.begin.free + 5, packFields env,
     fun f => { fpuCleared f with control := f.control ||| 0x3F }⟩,
   ⟨.fnsave p m, envSize (s.op32 p) + 80, s.opBytes p, s.begin.free + 5, packFields (env ++ fpuStack s.fpu), fpuInitialised⟩]

/-- The state in which such an instruction checks its operand. -/
def State.beginFree (s : State) (k : Nat) : State := { s.begin with free := k }

/-- The store of an area, and then the change of the unit. -/
def FpuStore.run (i : FpuStore) (p : Prefixes) (m : MemOp) : M Done := do
  writeMem p m i.size i.align i.value
  modify fun s => { s with fpu := i.after s.fpu }
  advance p (1 + m.size)

section run
variable {i : FpuStore} (checkedAt : b.ea m = s.ea m)
include checkedAt

theorem FpuStore.run_stops (stops : memProbe (operandSeg p m) (s.ea m) i.size i.align true b = .error e u) :
    i.run p m b = .error e u := by
  rw [← checkedAt] at stops
  exact run_bind_error (memWrite_error stops i.value)

theorem FpuStore.run_ok (checked : memProbe (operandSeg p m) (s.ea m) i.size i.align true b = .ok x u) (ram : x.isRam u = true) :
    i.run p m b = advance p (1 + m.size) { u.stored x i.value with fpu := i.after u.fpu } := by
  rw [← checkedAt] at checked
  exact run_bind_ok (memWrite_ram checked ram i.value)

end run

@[simp] theorem State.beginFree_ea (s : State) (k : Nat) (m : MemOp) : (s.beginFree k).ea m = s.ea m := State.begin_ea s m

@[simp] theorem State.beginFree_op32 (s : State) (k : Nat) (p : Prefixes) : (s.beginFree k).op32 p = s.op32 p :=
  State.begin_op32 s p

@[simp] theorem State.beginFree_opBytes (s : State) (k : Nat) (p : Prefixes) : (s.beginFree k).opBytes p = s.opBytes p :=
  State.begin_opBytes s p

@[simp] theorem State.beginFree_protectedMode (s : State) (k : Nat) : (s.beginFree k).protectedMode = s.protectedMode :=
  State.begin_protectedMode s

@[simp] theorem State.beginFree_fpu (s : State) (k : Nat) : (s.beginFree k).fpu = s.fpu := State.begin_fpu s

/-- A store of a word keeps the unit as it is. -/
theorem FpuStore.run_word {i : FpuStore} (keeps : i.after = id) : i.run p m b = (do
    writeMem p m i.size i.align i.value
    advance p (1 + m.size) : M Done) b := by
  rw [FpuStore.run, run_bind, run_bind, keeps]
  cases writeMem p m i.size i.align i.value b <;> rfl

/-- A save area is checked and written as one operand, aligned as the operand size asks (47_fpu_system.md R738, 20_memory.md R132). -/
theorem storeArea_eq (fields : List (Nat × Nat)) :
    storeArea p m n fields b = writeMem p m n (b.opBytes p) (packFields fields) b := run_bind_ok (run_get b)

theorem run_storeArea {fields : List (Nat × Nat)} {k : M Done} : (do storeArea p m n fields; k : M Done) b = (do
    writeMem p m n (b.opBytes p) (packFields fields)
    k : M Done) b := by rw [run_bind, run_bind, storeArea_eq]

/-- The free values of an environment are taken before its operand is checked (log entry 17). -/
theorem run_takeEnvFree {k : Nat → State → M Done} : (do
    let n ← takeFree envFree
    let t ← get
    k n t : M Done) s.begin = k s.begin.free (s.beginFree (s.begin.free + 5)) (s.beginFree (s.begin.free + 5)) := rfl

/-- FNSTENV and FNSAVE store what the state they begin in holds. -/
theorem run_envStore (i : Instr) (size : Bool → Nat) (fields : FpuState → Bool → Bool → Nat → List (Nat × Nat))
    (after : FpuState → FpuState) : (do
      let k ← takeFree envFree
      let t ← get
      storeArea p m (size (t.op32 p)) (fields t.fpu (t.op32 p) t.protectedMode k)
      modify fun s => { s with fpu := after s.fpu }
      advance p (1 + m.size) : M Done) s.begin =
    FpuStore.run ⟨i, size (s.op32 p), s.opBytes p, s.begin.free + 5,
      packFields (fields s.fpu (s.op32 p) s.protectedMode s.begin.free), after⟩ p m (s.beginFree (s.begin.free + 5)) := by
  rw [run_takeEnvFree, run_storeArea, FpuStore.run, State.beginFree_op32, State.beginFree_opBytes, State.beginFree_protectedMode,
    State.beginFree_fpu]

/-- FNSTSW m16 and FNSTCW store a word of the unit. -/
theorem run_wordStore (i : Instr) (word : FpuState → Word16) : (do
      let t ← get
      writeMem p m 2 2 (word t.fpu).toNat
      advance p (1 + m.size) : M Done) s.begin =
    FpuStore.run ⟨i, 2, 2, s.begin.free, (word s.fpu).toNat, id⟩ p m (s.beginFree s.begin.free) := by
  rw [FpuStore.run_word rfl, run_bind_ok (run_get s.begin), State.begin_fpu]
  rfl

variable (plain : Prefixes.plain p = true) (em : s.em = false) (ts : s.ts = false)
include plain em ts

theorem exec_fpuStore {i : FpuStore} (hi : i ∈ fpuStoreForms p m s) : IsTransfer i.instr s (i.run p m) (s.beginFree i.free) := by
  have passes {k : M Done} : (do escAvailable; k : M Done) s.begin = k s.begin :=
    run_bind_ok (escAvailable_ok (by simp [em]) (by simp [ts]))
  simp only [fpuStoreForms, List.mem_cons, List.not_mem_nil, or_false] at hi
  rcases hi with rfl | rfl | rfl | rfl
  · exact isTransfer_of_run plain rfl (passes.trans (run_wordStore _ fpuStatusWord))
  · exact isTransfer_of_run plain rfl (passes.trans (run_wordStore _ FpuState.control))
  · exact isTransfer_of_run plain rfl (passes.trans (run_envStore _ envSize fpuEnvironment
      fun f => { fpuCleared f with control := f.control ||| 0x3F }))
  · exact isTransfer_of_run plain rfl (passes.trans (run_envStore _ (envSize · + 80)
      (fun f wide pm k => fpuEnvironment f wide pm k ++ fpuStack f) fpuInitialised))

/-- The check of the operand stops the instruction, and nothing else does (47_fpu_system.md R731). -/
theorem exec_fpuStore_stops {i : FpuStore} (hi : i ∈ fpuStoreForms p m s)
    (stops : memProbe (operandSeg p m) (s.ea m) i.size i.align true (s.beginFree i.free) = .error e u) :
    exec i.instr s = failed s e u :=
  (exec_fpuStore plain em ts hi).2 _ _ (FpuStore.run_stops (State.beginFree_ea ..) stops)

theorem exec_fpuStore_ok {i : FpuStore} (hi : i ∈ fpuStoreForms p m s)
    (checked : memProbe (operandSeg p m) (s.ea m) i.size i.align true (s.beginFree i.free) = .ok x u) (ram : x.isRam u = true) :
    exec i.instr s = .next (State.retire { u.stored x i.value with fpu := i.after u.fpu } p (1 + m.size)) :=
  (exec_fpuStore plain em ts hi).1 _ _ (FpuStore.run_ok (State.beginFree_ea ..) checked ram)

end stores

section checked
variable {r : SegReg} {off : Word32} {n align k : Nat} {s u : State} {x : Slot}

/-- The check of an operand leaves the unit, the run state and EIP as the instruction found them. -/
theorem accessed_beginFree (checked : memProbe r off n align true (s.beginFree k) = .ok x u) :
    u.fpu = s.fpu ∧ u.run = s.run ∧ u.eip = s.eip := by
  have same := (touches_memProbe r off n align true).accessed checked
  exact ⟨same.fpu.trans (State.begin_fpu s), same.run.trans (State.begin_run s), same.eip.trans (State.begin_eip s)⟩

end checked

/-- Settles O33: past its checks each instruction changes what it says of the unit or AX, and goes on. -/
theorem fpuControlInstructions : Obligations.FpuControlInstructions := by
  intro p s plain
  refine ⟨fun available none => exec_wait_retires plain available (.inl (fpuErrorPending_eq_false none)), fun em ts => ?_⟩
  exact ⟨⟨_, exec_fninit plain em ts, sameBytes_of_mem (by simp) _, rfl, fpuErrorPending_fpuInitialised _⟩,
    ⟨_, exec_fnclex plain em ts, sameBytes_of_mem (by simp) _, fpuErrorPending_of_status rfl, rfl⟩,
    ⟨_, exec_fnstswAx plain em ts, sameBytes_of_mem (by simp) _, rfl⟩⟩

/-- Settles O34: each of the four stores its area, and then the unit is as it says. -/
theorem fpuStores : Obligations.FpuStores := by
  intro p m s u x plain em ts
  have stored : ∀ i ∈ fpuStoreForms p m s,
      memProbe (operandSeg p m) (s.ea m) i.size i.align true (s.beginFree i.free) = .ok x u → x.isRam u = true →
      ∃ t, exec i.instr s = .next t ∧ sameBytes u t x.addrs ∧
        t = State.retire { u.stored x i.value with fpu := i.after u.fpu } p (1 + m.size) := fun i hi checked ram =>
    ⟨_, exec_fpuStore_ok plain em ts hi checked ram, sameBytes_stored u x _, rfl⟩
  simp only [fpuStoreForms, List.forall_mem_cons] at stored
  obtain ⟨status, control, environment, save, -⟩ := stored
  refine ⟨fun checked ram => ⟨status checked ram, control checked ram⟩, fun checked ram => ?_, fun checked ram => ?_⟩
  · obtain ⟨unit, -⟩ := accessed_beginFree checked
    obtain ⟨t, done, frame, ht⟩ := environment checked ram
    rw [unit] at ht
    exact ⟨t, done, frame, ht ▸ fpuErrorPending_of_status rfl, ht⟩
  · obtain ⟨unit, -⟩ := accessed_beginFree checked
    obtain ⟨t, done, frame, ht⟩ := save checked ram
    rw [unit] at ht
    exact ⟨t, done, frame, ht⟩

/-- Settles O35: the checks of ESC and WAIT in their order, and the instructions that make only the first of them. -/
theorem fpuErrorReporting : Obligations.FpuErrorReporting := by
  intro p op reg rm m s u x e plain
  refine ⟨fun unavailable i hi => ?unavailable, exec_wait_unavailable plain, fun i hi error => ?error,
    fun available error ne ignored => exec_wait_retires plain available (.inr ⟨ne, ignored⟩),
    fun em ts goesOn => ?dataPath, fun em ts => ⟨?plainForms, ?stores⟩⟩
  case unavailable =>
    simp only [List.mem_cons, List.not_mem_nil, or_false] at hi
    rcases hi with rfl | rfl | rfl | rfl | rfl | rfl | rfl | rfl <;> exact raised_of_escAvailable plain unavailable
  case error =>
    have pending := fpuErrorPending_eq_true error
    rcases hi with ⟨rfl, em, ts⟩ | ⟨rfl, available⟩
    · exact afterFpError_stops (exec_esc plain em ts) pending
    · exact afterFpError_stops (exec_wait plain available) pending
  case dataPath =>
    have passes := goesOn.imp_left fpuErrorPending_eq_false
    exact (exec_esc plain em ts).trans ((runInstr_afterFpError passes).trans (runInstr_refused rfl))
  case plainForms =>
    have goesOn : ∀ t : State, t.run = s.run → t.eip = s.eip → t.mem = s.mem →
        (t.retire p 2).run = s.run ∧ (t.retire p 2).eip = s.nextPc p 2 ∧ sameBytes s (t.retire p 2) [] :=
      fun t run eip mem => ⟨run, by rw [State.nextPc, ← eip]; rfl, sameBytes_of_mem mem _⟩
    simp only [List.forall_mem_cons, List.not_mem_nil, false_imp_iff, implies_true, and_true]
    exact ⟨⟨_, exec_fninit plain em ts, goesOn _ (State.begin_run s) (State.begin_eip s) (State.begin_mem s)⟩,
      ⟨_, exec_fnclex plain em ts, goesOn _ (State.begin_run s) (State.begin_eip s) (State.begin_mem s)⟩,
      ⟨_, exec_fnstswAx plain em ts, goesOn _ (State.begin_run s) (State.begin_eip s) (State.begin_mem s)⟩⟩
  case stores =>
    intro b hb
    subst hb
    refine (List.forall_mem_map (l := fpuStoreForms p m s) (f := fun i => (i.instr, i.size, i.align, s.beginFree i.free))).mpr ?_
    refine fun i hi => ⟨exec_fpuStore_stops plain em ts hi, fun checked ram => ?_⟩
    obtain ⟨-, run, eip⟩ := accessed_beginFree checked
    refine ⟨_, exec_fpuStore_ok plain em ts hi checked ram, run, ?_, sameBytes_stored u x _⟩
    rw [State.nextPc, ← eip]
    rfl

end Sys2Proof.Machine
end

section
/-! What an exception leaves of the instruction that raised it (60_exceptions.md R756), and an exception raised while another one is
delivered (61_exceptions_by_vector.md R841, R851). -/

namespace Sys2Proof.Machine

open Sys2Proof

section classes
variable {e first : Exc}

theorem cls_contributory_iff : e.cls = .contributory ↔ e ∈ [Exc.de, .ts, .np, .ss, .gp] := by cases e <;> decide

theorem cls_pageFault_iff : e.cls = .pageFault ↔ e = .pf := by cases e <;> decide

theorem cls_doubleFault_iff : e.cls = .doubleFault ↔ e = .df := by cases e <;> decide

/-- The pairs that make a double fault (61_exceptions_by_vector.md R841, decision D75). -/
theorem makesDoubleFault_iff : makesDoubleFault first.cls e.cls = true ↔
    first ∈ [Exc.de, .ts, .np, .ss, .gp] ∧ e ∈ [Exc.de, .ts, .np, .ss, .gp] ∨
      first = .pf ∧ (e ∈ [Exc.de, .ts, .np, .ss, .gp] ∨ e = .pf) := by
  simp only [makesDoubleFault, Bool.or_eq_true, Bool.and_eq_true, decide_eq_true_eq, cls_contributory_iff, cls_pageFault_iff]

end classes

section settle
variable {n : Nat} {cls : EvClass} {ev : M Bool} {e : Exc} {code : Option Word32} {s t : State}

/-- What an exception raised while an event is delivered leads to (61_exceptions_by_vector.md R841). -/
theorem settle_raised (raised : ev s = .error (.exn ⟨e, code, false⟩) t) : settle (n + 1) cls ev s =
    if cls = .doubleFault then .next (rollback s t false).shut
    else if makesDoubleFault cls e.cls then settle n .doubleFault (deliver 8 false s.eip (some 0) true) (rollback s t false)
    else settle n e.cls (deliver e.vector false s.eip code true) (rollback s t false) := by
  rw [settle, raised]
  rfl

end settle

/-- Settles O45: the class of the first event and that of the second decide. -/
theorem doubleFaultAndShutdown : Obligations.DoubleFaultAndShutdown := by
  intro n first e code ev s t raised notDouble contributory
  have single : ¬first.cls = .doubleFault := cls_doubleFault_iff.not.mpr notDouble
  refine ⟨fun pair => ?_, fun other => ?_, ⟨_, (settle_raised raised).trans (if_pos rfl), rfl⟩⟩
  · rw [settle_raised raised, if_neg single, if_pos (makesDoubleFault_iff.mpr pair)]
  · rw [settle_raised raised, if_neg single, if_neg (makesDoubleFault_iff.not.mpr other)]

section unwritten
variable {α β : Type}

/-- The operation leaves all of memory as it was, however it ends. -/
def LeavesMem (m : M α) : Prop := ∀ s, match m s with
  | .ok _ t => t.mem = s.mem
  | .error _ t => t.mem = s.mem

/-- The operation raises no exception: it completes, or it stops in another way. -/
def RaisesNone (m : M α) : Prop := ∀ s x t, m s ≠ .error (.exn x) t

/-- An exception that the operation raises has left all of memory as it was. -/
def RaisesClean (m : M α) : Prop := ∀ ⦃s x t⦄, m s = .error (.exn x) t → t.mem = s.mem

theorem leavesMem_pure (a : α) : LeavesMem (pure a : M α) := fun _ => rfl
theorem leavesMem_get : LeavesMem (get : M State) := fun _ => rfl
theorem leavesMem_throw (e : Err) : LeavesMem (throw e : M α) := fun _ => rfl
theorem leavesMem_modify {f : State → State} (h : ∀ s, (f s).mem = s.mem) : LeavesMem (modify f : M Unit) := h

theorem leavesMem_bind {m : M α} {k : α → M β} (hm : LeavesMem m) (hk : ∀ a, LeavesMem (k a)) : LeavesMem (m >>= k) := by
  intro s
  have first := hm s
  rw [run_bind]
  cases run : m s with
  | error e t => rwa [run] at first
  | ok a t =>
    rw [run] at first
    have second := hk a t
    dsimp only
    cases next : k a t with
    | ok b u => rw [next] at second; exact second.trans first
    | error e u => rw [next] at second; exact second.trans first

theorem leavesMem_ite {c : Prop} [Decidable c] {a b : M α} (ha : LeavesMem a) (hb : LeavesMem b) :
    LeavesMem (if c then a else b) := by split <;> assumption

theorem raisesNone_pure (a : α) : RaisesNone (pure a : M α) := fun _ _ _ h => nomatch h
theorem raisesNone_get : RaisesNone (get : M State) := fun _ _ _ h => nomatch h
theorem raisesNone_fault (f : Fault) : RaisesNone (throw (.fault f) : M α) := fun _ _ _ h => nomatch h
theorem raisesNone_modify (f : State → State) : RaisesNone (modify f : M Unit) := fun _ _ _ h => nomatch h

theorem raisesNone_bind {m : M α} {k : α → M β} (hm : RaisesNone m) (hk : ∀ a, RaisesNone (k a)) : RaisesNone (m >>= k) := by
  intro s x t h
  rw [run_bind] at h
  cases run : m s with
  | ok a u => rw [run] at h; exact hk a u x t h
  | error e u => rw [run] at h; cases h; exact hm s x t run

theorem LeavesMem.raisesClean {m : M α} (h : LeavesMem m) : RaisesClean m := by
  intro s x t run
  have kept := h s
  rwa [run] at kept

theorem RaisesNone.raisesClean {m : M α} (h : RaisesNone m) : RaisesClean m := fun s x t run => absurd run (h s x t)

/-- After what leaves memory alone, an exception is as clean as what follows. -/
theorem raisesClean_bind {m : M α} {k : α → M β} (hm : LeavesMem m) (hk : ∀ a, RaisesClean (k a)) : RaisesClean (m >>= k) := by
  intro s x t h
  have kept := hm s
  rw [run_bind] at h
  cases run : m s with
  | ok a u => rw [run] at h kept; exact (hk a h).trans kept
  | error e u => rw [run] at h kept; cases h; exact kept

/-- What follows may write memory where it raises no exception. -/
theorem RaisesClean.then {m : M α} {k : α → M β} (hm : RaisesClean m) (hk : ∀ a, RaisesNone (k a)) : RaisesClean (m >>= k) := by
  intro s x t h
  rw [run_bind] at h
  cases run : m s with
  | ok a u => rw [run] at h; exact absurd h (hk a u x t)
  | error e u => rw [run] at h; cases h; exact hm run

theorem raisesClean_ite {c : Prop} [Decidable c] {a b : M α} (ha : RaisesClean a) (hb : RaisesClean b) :
    RaisesClean (if c then a else b) := by split <;> assumption

end unwritten

section access

theorem leavesMem_physRead (a n : Nat) : LeavesMem (physRead a n) := by
  refine leavesMem_bind (leavesMem_bind leavesMem_get fun s => ?_) fun _ => leavesMem_bind leavesMem_get fun s =>
    leavesMem_bind (leavesMem_modify fun t => State.afterRead_mem ..) fun _ => leavesMem_pure _
  cases ofKind s.params .nothing (addrsFrom a n) with
  | nil => exact leavesMem_pure _
  | cons x xs => exact leavesMem_throw _

theorem raisesNone_requireMemory (as : List Nat) : RaisesNone (requireMemory as) := by
  refine raisesNone_bind raisesNone_get fun s => ?_
  cases ofKind s.params .nothing as with
  | nil => exact raisesNone_pure _
  | cons x xs => exact raisesNone_fault _

theorem raisesNone_physReadAt (as : List Nat) : RaisesNone (physReadAt as) :=
  raisesNone_bind (raisesNone_requireMemory as) fun _ => raisesNone_bind raisesNone_get fun _ =>
    raisesNone_bind (raisesNone_modify _) fun _ => raisesNone_pure _

theorem raisesNone_physWriteAt (as : List Nat) (v : Nat) : RaisesNone (physWriteAt as v) := by
  refine raisesNone_bind (raisesNone_requireMemory as) fun _ => raisesNone_bind raisesNone_get fun s => ?_
  cases ofKind s.params .rom as with
  | nil => exact raisesNone_modify _
  | cons x xs => exact raisesNone_fault _

theorem leavesMem_pageFault {α : Type} (la : Word32) (acc : Acc) (present rsvd : Bool) :
    LeavesMem (pageFault la acc present rsvd : M α) := fun _ => rfl

theorem leavesMem_checkRights (us rw : Bool) (acc : Acc) (la : Word32) : LeavesMem (checkRights us rw acc la) :=
  leavesMem_bind leavesMem_get fun _ => leavesMem_ite (leavesMem_pageFault _ _ _ _) (leavesMem_pure _)

/-- The walk of the page tables only reads (22_paging.md R270). -/
theorem leavesMem_walk32 (la : Word32) (acc : Acc) : LeavesMem (walk32 la acc) := by
  have fault : ∀ present rsvd, LeavesMem (pageFault la acc present rsvd : M Xlat) := leavesMem_pageFault la acc
  refine leavesMem_bind leavesMem_get fun s => leavesMem_bind (leavesMem_physRead _ _) fun pde => leavesMem_ite (fault _ _)
    (leavesMem_ite (leavesMem_ite (fault _ _) (leavesMem_bind (leavesMem_checkRights _ _ _ _) fun _ => leavesMem_pure _))
      (leavesMem_ite (fault _ _) (leavesMem_bind (leavesMem_checkRights _ _ _ _) fun _ => ?_)))
  exact leavesMem_bind (leavesMem_physRead _ _) fun pte => leavesMem_ite (fault _ _) (leavesMem_ite (fault _ _)
    (leavesMem_bind (leavesMem_checkRights _ _ _ _) fun _ => leavesMem_pure _))

theorem leavesMem_walkPae (la : Word32) (acc : Acc) : LeavesMem (walkPae la acc) := by
  have fault : ∀ present rsvd, LeavesMem (pageFault la acc present rsvd : M Xlat) := leavesMem_pageFault la acc
  refine leavesMem_bind leavesMem_get fun s => leavesMem_bind (leavesMem_physRead _ _) fun pdpte => leavesMem_ite (fault _ _)
    (leavesMem_bind (leavesMem_physRead _ _) fun pde => leavesMem_ite (fault _ _) (leavesMem_ite (fault _ _)
      (leavesMem_bind (leavesMem_checkRights _ _ _ _) fun _ => leavesMem_ite (leavesMem_pure _) ?_)))
  exact leavesMem_bind (leavesMem_physRead _ _) fun pte => leavesMem_ite (fault _ _) (leavesMem_ite (fault _ _)
    (leavesMem_bind (leavesMem_checkRights _ _ _ _) fun _ => leavesMem_pure _))

theorem leavesMem_chooseTlb (cs : List TlbEntry) : LeavesMem (chooseTlb cs) := by
  intro s
  rw [chooseTlb, run_get_bind]
  cases s.params.tlbPolicy with
  | none => rfl
  | ideal => rfl
  | arbitrary =>
    cases cs with
    | nil => rfl
    | cons c cs =>
      dsimp only
      rw [run_bind, run_set]
      dsimp only
      cases Config.tlbChoice s.free <;> rfl

theorem leavesMem_tlbLookup (la : Word32) (acc : Acc) : LeavesMem (tlbLookup la acc) := by
  refine leavesMem_bind leavesMem_get fun s => leavesMem_bind (leavesMem_chooseTlb _) fun found => ?_
  cases found with
  | none => exact leavesMem_pure _
  | some e => exact leavesMem_ite (leavesMem_bind (leavesMem_modify fun _ => rfl) fun _ => leavesMem_pure _) (leavesMem_pure _)

/-- A translation marks nothing before it is committed (22_paging.md R279; 20_memory.md R128). -/
theorem leavesMem_translate (la : Word32) (acc : Acc) : LeavesMem (translate la acc) := by
  refine leavesMem_bind leavesMem_get fun s => leavesMem_ite (leavesMem_pure _)
    (leavesMem_bind (leavesMem_tlbLookup la acc) fun found => ?_)
  cases found with
  | none => exact leavesMem_ite (leavesMem_walkPae la acc) (leavesMem_walk32 la acc)
  | some e => exact leavesMem_bind (leavesMem_checkRights _ _ _ _) fun _ => leavesMem_pure _

theorem raisesNone_commitXlat (x : Xlat) : RaisesNone (commitXlat x) := by
  refine raisesNone_bind ?marks fun _ => ?_
  case marks =>
    induction x.marks with
    | nil => exact raisesNone_pure _
    | cons m ms ih =>
      exact raisesNone_bind (raisesNone_physReadAt _) fun _ => raisesNone_bind (raisesNone_physWriteAt _ _) fun _ => ih
  cases x.entry with
  | none => exact raisesNone_pure _
  | some e => exact raisesNone_modify _

theorem raisesClean_linAddrs (la : Word32) (n : Nat) (acc : Acc) : RaisesClean (linAddrs la n acc) := by
  have commits : ∀ x (k : Unit → M (List Nat)), (∀ a, RaisesNone (k a)) → RaisesClean (commitXlat x >>= k) :=
    fun x k hk => (raisesNone_bind (raisesNone_commitXlat x) hk).raisesClean
  refine raisesClean_bind leavesMem_get fun s => raisesClean_ite (raisesNone_pure _).raisesClean (raisesClean_ite ?_ ?_)
  · exact raisesClean_bind (leavesMem_translate la acc) fun x => commits x _ fun _ => raisesNone_pure _
  · exact raisesClean_bind (leavesMem_translate la acc) fun x => raisesClean_bind (leavesMem_translate _ acc) fun y =>
      commits x _ fun _ => raisesNone_bind (raisesNone_commitXlat y) fun _ => raisesNone_pure _

theorem raisesClean_memProbe (r : SegReg) (off : Word32) (n align : Nat) (write : Bool) :
    RaisesClean (memProbe r off n align write) := by
  refine raisesClean_bind leavesMem_get fun s => raisesClean_bind ?segment fun _ => raisesClean_bind ?alignment fun _ =>
    (raisesClean_linAddrs _ _ _).then fun _ => raisesNone_pure _
  case segment => exact leavesMem_bind leavesMem_get fun _ => leavesMem_ite (leavesMem_pure _) (leavesMem_throw _)
  case alignment => exact leavesMem_bind leavesMem_get fun _ => leavesMem_ite (leavesMem_throw _) (leavesMem_pure _)

theorem raisesClean_memRead (r : SegReg) (off : Word32) (n align : Nat) : RaisesClean (memRead r off n align) :=
  (raisesClean_memProbe r off n align false).then fun _ => raisesNone_bind (raisesNone_physReadAt _) fun _ =>
    raisesNone_bind (raisesNone_modify _) fun _ => raisesNone_pure _

theorem raisesClean_memWrite (r : SegReg) (off : Word32) (n align v : Nat) : RaisesClean (memWrite r off n align v) :=
  (raisesClean_memProbe r off n align true).then fun _ => raisesNone_bind (raisesNone_physWriteAt _ _) fun _ =>
    raisesNone_modify _

end access

/-- Settles O39: the delivery starts from what the instruction found, and an access writes only once nothing more can be raised. -/
theorem faultRestoresState : Obligations.FaultRestoresState := by
  refine ⟨fun s0 t u e code entered => ⟨raised_enters entered, ?_⟩, fun r off n align v x s w stops => ?_⟩
  · obtain ⟨switched, delivered⟩ := entered
    exact ⟨switched, rollback s0 t false, delivered, rfl⟩
  · rcases stops with read | write
    · exact raisesClean_memRead r off n align read
    · exact raisesClean_memWrite r off n align v write

end Sys2Proof.Machine
end

section
/-! Delivery on the stack in use and in real-address mode while paging is off (60_exceptions.md R800, R805; 61_exceptions_by_vector.md
R870; 42_control_transfer.md R452): the frame, and where the handler starts. -/

namespace Sys2Proof.Machine

open Sys2Proof

section stored
variable {s t : State} {xs : List Slot} {vs : List Nat}

/-- While paging is off and memory is everywhere the pushes of a delivery complete, and change memory alone. -/
theorem writeSlotsQuiet_run (flat : s.Flat) (xs : List Slot) (vs : List Nat) :
    writeSlotsQuiet xs vs s = .ok () { s with mem := storeSlots s.mem xs vs } := by
  induction xs generalizing s vs with
  | nil => rfl
  | cons x xs ih =>
    cases vs with
    | nil => rfl
    | cons v vs =>
      have flat' : State.Flat { s with mem := setCells s.mem x.addrs (bytesOf x.addrs.length v) } := ⟨flat.pg, flat.map⟩
      rw [writeSlotsQuiet, run_bind_ok (physWriteAt_ram (allRam_of_empty flat.map _) v), ih flat']
      rfl

/-- No byte outside the slots of the pushes is written. -/
theorem sameBytes_frameBytes {seg : SegState} {esp : Word32} {b n : Nat} (frame : sameBytes s t (frameBytes seg esp b n)) (a : Nat)
    (outside : ∀ off ∈ pushOffsets seg.attr.db (spOf seg.attr.db esp) b n, a ∉ linearSpan (seg.base + off) b) :
    t.byteAt a = s.byteAt a := by
  refine frame a fun inside => ?_
  obtain ⟨off, hoff, ha⟩ := List.mem_flatMap.mp inside
  exact outside off hoff ha

end stored

section sameStack
variable {g cd : Desc} {ext : Bool} {items : List Nat} {s t : State}

/-- A delivery on the stack in use that completes, where the handler's segment is not marked: the stack pointer, and the memory that
holds the frame (60_exceptions.md R800). -/
theorem deliverSameStack_flat (flat : s.Flat) (unmarked : marksAccessed s.params cd = false)
    (h : deliverSameStack g cd ext items s = .ok () t) :
    t.sp = spAfter s.ss.attr.db (s.reg .esp) (gateItem g) items.length ∧
      t.mem = storeSlots s.mem ((pushOffsets s.ss.attr.db s.sp (gateItem g) items.length).map (s.ss.slotAt (gateItem g))) items := by
  rw [deliverSameStack, run_get_bind] at h
  split at h
  · cases h
  obtain ⟨-, h⟩ := checkTarget_then_eq_ok h
  rw [run_bind_ok (quietSlots_flat flat _ _ _ _), run_bind_ok (probeAccessed_unmarked unmarked),
    run_bind_ok (writeSlotsQuiet_run flat _ _)] at h
  cases h
  exact ⟨(State.setSp_sp s _).trans (spOf_spAfter _ _ _ _), rfl⟩

end sameStack

/-- Settles O42: the checks before the frame change nothing, and the frame is stored push by push. -/
theorem sameStackFrame : Obligations.SameStackFrame := by
  intro g cd ext items s t pg map wf unmarked few delivered
  obtain ⟨sp, mem⟩ := deliverSameStack_flat ⟨pg, map⟩ unmarked delivered
  have small : gateItem g * items.length ≤ 140 := (Nat.mul_le_mul (gateItem_le g) few).trans (by decide)
  obtain ⟨stands, frame⟩ := frame_of_storeSlots (gateItem_le g) small wf mem
  exact ⟨sp, fun k _ => stands k, sameBytes_frameBytes frame⟩

section real
variable {vector : Byte} {soft rf : Bool} {ret : Word32} {code : Option Word32} {s u : State} {e : Err}

theorem deliver_real (mode : s.pe = false) : deliver vector soft ret code rf s = (do
    realDeliver vector ret
    pure false : M Bool) s := by
  rw [deliver, run_get_bind, mode]
  rfl

/-- A table too short for vector 8 (61_exceptions_by_vector.md R870). -/
theorem realDeliver_shutdown (beyond : s.idtr.limit.toNat < vector.toNat * 4 + 3) (short : s.idtr.limit.toNat < 35) :
    realDeliver vector ret s = .error .shutdown s := by
  rw [realDeliver, run_get_bind]
  simp [beyond, short]

/-- A vector beyond the table is delivered as vector 8 (61_exceptions_by_vector.md R870, 92_eei_decisions.md D79). -/
theorem realDeliver_beyond (beyond : s.idtr.limit.toNat < vector.toNat * 4 + 3) (long : 35 ≤ s.idtr.limit.toNat) :
    realDeliver vector ret s = realDeliver 8 ret s := by
  have eight : ¬s.idtr.limit.toNat < 35 := Nat.not_lt.mpr long
  rw [realDeliver, realDeliver, run_get_bind, run_get_bind]
  simp [beyond, eight]

/-- What a delivery in real-address mode does once the entry of its vector is read: the offset and the selector of the handler
(61_exceptions_by_vector.md R870). -/
def enterReal (off sel : Nat) (ret : Word32) : M Unit := do
  let s ← get
  let offs := pushOffsets s.ss.attr.db s.sp 2 3
  if !offs.all (fun o => inLimit s.ss o 2) then raiseZero .ss false
  else do
    let slots ← quietSlots s.ss.base 2 false offs
    writeSlotsQuiet slots [s.eflags.toNat, s.cs.sel.toNat, ret.toNat]
    modify (fun s => s.setSp (spAfter s.ss.attr.db (s.reg .esp) 2 3))
    modify (fun s => { s with eflags := s.eflags &&& ~~~(0x00000300#32) })
    modify (fun s => s.realLoad .cs (BitVec.ofNat 16 sel))
    modify (fun s => { s with eip := BitVec.ofNat 32 off, dbPending := { s.dbPending with bs := false } })

/-- A word of the table of vectors (61_exceptions_by_vector.md R870). -/
def State.vectorWord (s : State) (place : Nat) : Nat :=
  ofBytes ((linearSpan (s.idtr.base + BitVec.ofNat 32 place) 2).map s.byteAt)

theorem vectorWord_lt (s : State) (place : Nat) : s.vectorWord place < 2 ^ 16 := by
  refine (ofBytes_lt _).trans_eq ?_
  rw [List.length_map, linearSpan_length]
  rfl

/-- The three words of a frame on the stack in use (61_exceptions_by_vector.md R870). -/
def State.realFrame (s : State) (ret : Word32) : List Nat := [s.eflags.toNat, s.cs.sel.toNat, ret.toNat]

/-- The state with the three words pushed, and IF and TF clear (61_exceptions_by_vector.md R870). -/
def State.pushedReal (s : State) (ret : Word32) : State :=
  let stored := { s with
    mem := storeSlots s.mem ((pushOffsets s.ss.attr.db s.sp 2 3).map (s.ss.slotAt 2)) (s.realFrame ret) }
  { stored.setSp (spAfter s.ss.attr.db (s.reg .esp) 2 3) with eflags := s.eflags &&& 0xFFFFFCFF }

/-- The state in which the handler of a real-address mode delivery starts (61_exceptions_by_vector.md R870). -/
def State.inRealHandler (s : State) (off sel : Nat) (ret : Word32) : State :=
  { s.pushedReal ret with
    cs := realSeg false true s.cs (BitVec.ofNat 16 sel)
    eip := BitVec.ofNat 32 off
    dbPending := { s.dbPending with bs := false } }

/-- In real-address mode a load of CS is no load in virtual-8086 mode (42_control_transfer.md R462). -/
theorem realLoad_cs (mode : s.pe = false) (sel : Word16) :
    s.realLoad .cs sel = { s with cs := realSeg false true s.cs sel } := by
  rw [State.realLoad, State.v86, mode]
  rfl

theorem State.inRealHandler_sp (s : State) (off sel : Nat) (ret : Word32) :
    (s.inRealHandler off sel ret).sp = spAfter s.ss.attr.db (s.reg .esp) 2 3 :=
  (State.setSp_sp { s with
    mem := storeSlots s.mem ((pushOffsets s.ss.attr.db s.sp 2 3).map (s.ss.slotAt 2)) (s.realFrame ret) } _).trans
    (spOf_spAfter _ _ _ _)

/-- The frame stands below the old stack pointer, and no other byte is written (61_exceptions_by_vector.md R870). -/
theorem inRealHandler_frame (wf : Memory.wf s.mem = true) (off sel : Nat) :
    frameStands (s.inRealHandler off sel ret) s.ss (s.reg .esp) 2 (s.realFrame ret) ∧
      sameBytes s (s.inRealHandler off sel ret) (frameBytes s.ss (s.reg .esp) 2 3) :=
  frame_of_storeSlots (by decide) (show 2 * 3 ≤ 140 by decide) wf rfl

theorem enterReal_noRoom (off sel : Nat) (full : ¬∀ o ∈ pushOffsets s.ss.attr.db s.sp 2 3, inLimit s.ss o 2 = true) :
    enterReal off sel ret s = .error (.exn ⟨.ss, some 0, false⟩) s := by
  rw [← List.all_eq_true, Bool.not_eq_true] at full
  rw [enterReal, run_get_bind]
  simp only [full]
  rfl

section flat
variable (flat : s.Flat)
include flat

theorem enterReal_room (mode : s.pe = false) (off sel : Nat) (room : ∀ o ∈ pushOffsets s.ss.attr.db s.sp 2 3, inLimit s.ss o 2 = true) :
    enterReal off sel ret s = .ok () (s.inRealHandler off sel ret) := by
  rw [← List.all_eq_true] at room
  rw [enterReal, run_get_bind]
  simp only [room, Bool.not_true, Bool.false_eq_true, if_false]
  rw [run_bind_ok (quietSlots_flat flat _ _ _ _), run_bind_ok (writeSlotsQuiet_run flat _ _)]
  have loaded := realLoad_cs (s := s.pushedReal ret) mode (BitVec.ofNat 16 sel)
  exact congrArg (fun t : State => EStateM.Result.ok () { t with
    eip := BitVec.ofNat 32 off, dbPending := { t.dbPending with bs := false } }) loaded

theorem realDeliver_within (within : vector.toNat * 4 + 3 ≤ s.idtr.limit.toNat) : realDeliver vector ret s =
    enterReal (s.vectorWord (vector.toNat * 4)) (s.vectorWord (vector.toNat * 4 + 2)) ret s := by
  have inside : ¬s.idtr.limit.toNat < vector.toNat * 4 + 3 := Nat.not_lt.mpr within
  rw [realDeliver, run_get_bind]
  simp only [gt_iff_lt, if_neg inside]
  rw [run_bind_ok (linRead_unpaged flat.pg flat.map _ _ _), run_bind_ok (linRead_unpaged flat.pg flat.map _ _ _), enterReal,
    run_get_bind]
  rfl

end flat

end real

/-- Settles O44: a short table leads to vector 8 or to shutdown; else the entry is read, and the frame stored push by push. -/
theorem realModeDelivery : Obligations.RealModeDelivery := by
  intro vector soft ret code rf s mode
  refine ⟨fun beyond => ⟨fun short => ?_, fun long => ?_⟩, fun pg map wf within room hroom => ⟨fun full => ?_, fun fits => ?_⟩⟩
  · rw [deliver_real mode, run_bind_error (realDeliver_shutdown beyond short)]
  · rw [deliver_real mode, deliver_real mode, run_bind, run_bind, realDeliver_beyond beyond long]
  · have stops := (realDeliver_within ⟨pg, map⟩ within).trans (enterReal_noRoom (ret := ret) _ _ (mt hroom.mpr full))
    rw [deliver_real mode, run_bind_error stops]
  · have enters := (realDeliver_within ⟨pg, map⟩ within).trans (enterReal_room (ret := ret) ⟨pg, map⟩ mode _ _ (hroom.mp fits))
    obtain ⟨stands, frame⟩ := inRealHandler_frame (ret := ret) wf
      (s.vectorWord (vector.toNat * 4)) (s.vectorWord (vector.toNat * 4 + 2))
    refine ⟨_, (deliver_real mode).trans (run_bind_ok enters), State.inRealHandler_sp .., rfl, ?_, ?_, rfl, fun k _ => stands k,
      sameBytes_frameBytes frame⟩
    · exact (BitVec.toNat_ofNat _ _).trans (Nat.mod_eq_of_lt ((vectorWord_lt s _).trans (by decide)))
    · exact (BitVec.toNat_ofNat _ _).trans (Nat.mod_eq_of_lt (vectorWord_lt s _))

end Sys2Proof.Machine
end

section
/-! The state a handler starts in (60_exceptions.md R800, R802, R806; 46_debug.md R676): the flags, the entry point, the level and the
pending debug conditions, whichever stack the frame goes to. -/

namespace Sys2Proof.Machine

open Sys2Proof

section flags
variable {e : Word32} {interruptGate : Bool} {k : Nat}

/-- The flags an entry through a gate clears: TF, NT, RF and VM, and IF through an interrupt gate (60_exceptions.md R806). -/
theorem bit_clearedFlags (hk : k < 32) : bit (0x00034100 ||| if interruptGate then 0x00000200 else 0) k =
    decide (k ∈ [8, 14, 16, 17] ∨ k = 9 ∧ interruptGate = true) := by
  cases interruptGate
  · revert k; decide
  · revert k; decide

theorem bit_enterFlags (hk : k < 32) : bit (enterFlags e interruptGate) k =
    (bit e k && !decide (k ∈ [8, 14, 16, 17] ∨ k = 9 ∧ interruptGate = true)) := by
  rw [← bit_clearedFlags hk]
  simp [enterFlags, bit, hk]

theorem bit_enterFlags_cleared (hk : k ∈ [8, 14, 16, 17]) : bit (enterFlags e interruptGate) k = false := by
  rw [bit_enterFlags ((by decide : ∀ k ∈ [8, 14, 16, 17], k < 32) k hk)]
  simp [hk]

theorem bit_enterFlags_kept (hk : k ∈ [0, 1, 2, 4, 6, 7, 10, 11, 12, 13, 18, 19, 20, 21]) :
    bit (enterFlags e interruptGate) k = bit e k := by
  obtain ⟨small, kept, noIf⟩ := (by decide : ∀ k ∈ [0, 1, 2, 4, 6, 7, 10, 11, 12, 13, 18, 19, 20, 21],
    k < 32 ∧ k ∉ [8, 14, 16, 17] ∧ k ≠ 9) k hk
  rw [bit_enterFlags small]
  simp [kept, noIf]

end flags

/-- What completes without a watched access leaves the pending debug conditions (46_debug.md R676). -/
theorem Unwatched.dbPending {α : Type} {m : M α} {a : α} {s t : State} (h : Unwatched m) (run : m s = .ok a t) :
    t.dbPending = s.dbPending := by
  have unwatched := h s
  rwa [run] at unwatched

/-- What holds of `t` when a handler is entered through `g` at a level from `s` (60_exceptions.md R806). -/
structure InHandler (g : Desc) (lvl : BitVec 2) (s t : State) : Prop where
  eflags : t.eflags = enterFlags s.eflags (isInterruptGate g)
  eip : t.eip = gateOffset g
  level : rpl t.cs.sel = lvl
  cr0 : t.cr0 = s.cr0
  dbPending : t.dbPending = { s.dbPending with bs := false }

section inHandler
variable {g cd : Desc} {lvl : BitVec 2} {s t u : State}

/-- What a delivery does before the handler is entered keeps the flags, the mode and the debug conditions. -/
theorem InHandler.of_kept (eflags : u.eflags = s.eflags) (cr0 : u.cr0 = s.cr0) (dbPending : u.dbPending = s.dbPending)
    (h : InHandler g lvl u t) : InHandler g lvl s t :=
  ⟨eflags ▸ h.eflags, h.eip, h.level, cr0 ▸ h.cr0, dbPending ▸ h.dbPending⟩

theorem InHandler.of_accessed (same : Accessed s u) (dbPending : u.dbPending = s.dbPending) (h : InHandler g lvl u t) :
    InHandler g lvl s t := h.of_kept same.eflags same.cr0 dbPending

variable (h : InHandler g lvl s t)
include h

theorem InHandler.vm : t.vm = false := by
  rw [State.vm, h.eflags]
  exact bit_enterFlags_cleared (by decide)

theorem InHandler.cpl (mode : s.pe = true) : t.cpl = lvl := by
  have protectedMode : t.protectedMode = true := by
    rw [State.protectedMode, h.vm, State.pe, h.cr0]
    exact (Bool.and_true _).trans mode
  rw [cpl_of_protectedMode protectedMode, h.level]

theorem InHandler.ifl : t.ifl = (s.ifl && !isInterruptGate g) := by
  rw [State.ifl, h.eflags, bit_enterFlags (by decide)]
  simp [State.ifl]

end inHandler

/-- What completes enters a handler through `g` at the level `lvl`. -/
def Enters (g : Desc) (lvl : BitVec 2) (m : M Unit) : Prop := ∀ s t, m s = .ok () t → InHandler g lvl s t

section rules
variable {α : Type} {g cd : Desc} {lvl : BitVec 2} {m k : M Unit}

/-- A step that accesses memory and meets no breakpoint may come before. -/
theorem enters_bind {m : M α} {f : α → M Unit} (touches : Touches m) (unwatched : Unwatched m) (hf : ∀ a, Enters g lvl (f a)) :
    Enters g lvl (m >>= f) := by
  intro s t h
  obtain ⟨a, u, first, rest⟩ := run_bind_eq_ok.mp h
  exact (hf a u t rest).of_accessed (touches.accessed first) (unwatched.dbPending first)

/-- A load of the stack pointer, or of the stack, may come before. -/
theorem enters_modify {f : State → State} (kept : ∀ s, (f s).eflags = s.eflags ∧ (f s).cr0 = s.cr0 ∧ (f s).dbPending = s.dbPending)
    (hk : Enters g lvl k) : Enters g lvl (modify f >>= fun _ => k) := by
  intro s t h
  obtain ⟨eflags, cr0, dbPending⟩ := kept s
  exact (hk (f s) t h).of_kept eflags cr0 dbPending

theorem enters_ite_throw {c : Prop} [Decidable c] (e : Err) (hk : Enters g lvl k) :
    Enters g lvl (if c then throw e else k) := by
  intro s t h
  split at h
  · cases h
  · exact hk s t h

theorem enters_enterHandler (acc : List Nat) : Enters g lvl (enterHandler g cd lvl acc) := by
  intro s t h
  obtain ⟨_, u, flags, h⟩ := run_bind_eq_ok.mp h
  cases flags
  obtain ⟨_, v, committed, h⟩ := run_bind_eq_ok.mp h
  obtain ⟨_, w, marked, loaded⟩ := run_bind_eq_ok.mp committed
  cases loaded
  cases h
  have same := (touches_commitAccessed acc).accessed marked
  exact ⟨same.eflags, rfl, rpl_withRpl _ _, same.cr0,
    congrArg (fun d : DbPending => { d with bs := false }) ((unwatched_commitAccessed acc).dbPending marked)⟩

end rules

section deliveries
variable {g cd : Desc} {lvl : BitVec 2} {ext : Bool} {items : List Nat} {ret img : Word32} {code : Option Word32} {s t : State}

/-- The frame stored and the stack pointer moved, the handler is entered. -/
theorem enters_frame {f : State → State} (slots : List Slot) (acc : List Nat)
    (kept : ∀ s, (f s).eflags = s.eflags ∧ (f s).cr0 = s.cr0 ∧ (f s).dbPending = s.dbPending) :
    Enters g lvl (do
      writeSlotsQuiet slots items
      modify f
      enterHandler g cd lvl acc) :=
  enters_bind (touches_writeSlotsQuiet slots items) (unwatched_writeSlotsQuiet slots items) fun _ =>
    enters_modify kept (enters_enterHandler acc)

theorem enters_deliverNewStack (g cd : Desc) (lvl : BitVec 2) (ext : Bool) (items : List Nat) :
    Enters g lvl (deliverNewStack g cd lvl ext items) := by
  refine enters_bind (touches_tssStack lvl ext) (unwatched_tssStack lvl ext) fun ⟨nss, nesp⟩ => ?_
  refine enters_bind (touches_checkSs nss lvl .ts ext) (unwatched_checkSs nss lvl .ts ext) fun sd => enters_ite_throw _ ?_
  refine enters_bind (touches_checkTarget _ _ ext) (unwatched_checkTarget _ _ ext) fun _ => ?_
  refine enters_bind (touches_quietSlots _ _ _ _) (unwatched_quietSlots _ _ _ _) fun slots => ?_
  refine enters_bind (touches_probeAccessed _ _) (unwatched_probeAccessed _ _) fun accSs => ?_
  refine enters_bind (touches_probeAccessed _ _) (unwatched_probeAccessed _ _) fun accCs => ?_
  refine enters_bind (touches_commitAccessed _) (unwatched_commitAccessed _) fun _ => ?_
  exact enters_frame slots accCs fun s => ⟨rfl, rfl, rfl⟩

theorem deliverSameStack_inHandler (h : deliverSameStack g cd ext items s = .ok () t) : InHandler g s.cpl s t := by
  rw [deliverSameStack, run_get_bind] at h
  refine enters_ite_throw (.exn ⟨.ss, some (selectorErrorCode 0 ext), false⟩) ?_ s t h
  refine enters_bind (touches_checkTarget _ _ ext) (unwatched_checkTarget _ _ ext) fun _ => ?_
  refine enters_bind (touches_quietSlots _ _ _ _) (unwatched_quietSlots _ _ _ _) fun slots => ?_
  refine enters_bind (touches_probeAccessed _ _) (unwatched_probeAccessed _ _) fun accCs => ?_
  exact enters_frame slots accCs fun s => ⟨rfl, rfl, rfl⟩

/-- A delivery through a gate enters the handler at a level at most the one in force (60_exceptions.md R800, R802). -/
theorem deliverGate_inHandler (h : deliverGate g ext ret img code s = .ok () t) :
    ∃ lvl : BitVec 2, lvl.toNat ≤ s.cpl.toNat ∧ InHandler g lvl s t := by
  rw [deliverGate, run_get_bind] at h
  obtain ⟨cd, u, fetched, h⟩ := run_bind_eq_ok.mp h
  have same := (touches_fetchCode _ _).accessed fetched
  have quiet := (unwatched_fetchCode _ _).dbPending fetched
  have after {lvl : BitVec 2} {v : State} (entered : InHandler g lvl u v) : InHandler g lvl s v :=
    entered.of_accessed same quiet
  split at h
  · cases h
  split at h
  · cases h
  split at h
  case isTrue v86 =>
    split at h
    · cases h
    split at h
    · cases h
    obtain ⟨_, v, delivered, h⟩ := run_bind_eq_ok.mp h
    cases h
    obtain ⟨eflags, eip, level, cr0, dbPending⟩ := after (enters_deliverNewStack _ _ _ _ _ _ _ delivered)
    exact ⟨0, Nat.zero_le _, eflags, eip, level, cr0, dbPending⟩
  split at h
  case isTrue inner =>
    simp only [Bool.and_eq_true, decide_eq_true_eq] at inner
    exact ⟨_, inner.2.le, after (enters_deliverNewStack _ _ _ _ _ _ _ h)⟩
  case isFalse =>
    exact ⟨_, (congrArg BitVec.toNat same.cpl).le, after (deliverSameStack_inHandler h)⟩

end deliveries

/-- Settles O41: whichever stack the frame goes to, the handler is entered by the same last steps. -/
theorem handlerEntryFlags : Obligations.HandlerEntryFlags := by
  intro g ext ret img code s t mode delivered
  obtain ⟨lvl, low, entered⟩ := deliverGate_inHandler delivered
  have cleared {k : Nat} (hk : k ∈ [8, 14, 16, 17]) : bit t.eflags k = false :=
    entered.eflags ▸ bit_enterFlags_cleared hk
  refine ⟨cleared (by decide), cleared (by decide), cleared (by decide), cleared (by decide), entered.ifl, fun k hk => ?_,
    entered.eip, ?_, entered.dbPending⟩
  · rw [entered.eflags, bit_enterFlags_kept hk]
  · rwa [entered.cpl mode]

end Sys2Proof.Machine
end

section
/-! The gate an event is delivered through, the code segment it names, and the stack the frame goes to (60_exceptions.md R780, R782,
R800, R804, R811, R820, R821; 42_control_transfer.md R454, R456, R478). -/

namespace Sys2Proof.Machine

open Sys2Proof

section codes

/-- A value shifted left and a smaller one below it stand side by side. -/
theorem toNat_or_of_shift {w : Nat} {x y : BitVec w} (place : Nat) {high low : Nat} (hx : x.toNat = high * 2 ^ place)
    (hy : y.toNat = low) (below : low < 2 ^ place) : (x ||| y).toNat = high * 2 ^ place + low := by
  rw [BitVec.toNat_or, hx, hy, ← Nat.shiftLeft_eq, Nat.shiftLeft_add_eq_or_of_lt below]

/-- The error code of an IDT entry (60_exceptions.md R821). -/
theorem idtErrorCode_eq (vector : Byte) (soft : Bool) :
    idtErrorCode vector (!soft) = BitVec.ofNat 32 (vector.toNat * 8 + 2 + if soft then 0 else 1) := by
  have small := vector.isLt
  have shifted : (vector.setWidth 32 <<< 3).toNat = vector.toNat * 2 ^ 3 := by
    simp only [BitVec.toNat_shiftLeft, BitVec.toNat_setWidth, Nat.shiftLeft_eq]
    omega
  apply BitVec.eq_of_toNat_eq
  rw [idtErrorCode, BitVec.or_assoc, BitVec.toNat_ofNat]
  cases soft
  · rw [toNat_or_of_shift 3 shifted (low := 3) (by decide) (by decide)]
    simp only [Bool.false_eq_true, if_false]
    omega
  · rw [toNat_or_of_shift 3 shifted (low := 2) (by decide) (by decide)]
    simp only [if_true]
    omega

/-- A selector's bits 15:2 keep their place (60_exceptions.md R820). -/
theorem selector_bits (n : Word16) : (n &&& 0xFFFC#16).toNat = n.toNat / 4 * 2 ^ 2 := by
  have masked : n &&& 0xFFFC#16 = n >>> 2 <<< 2 := by
    have mask : ∀ i < 16, (0xFFFC#16).getLsbD i = decide (2 ≤ i) := by decide
    refine BitVec.eq_of_getLsbD_eq fun i hi => ?_
    rw [BitVec.getLsbD_and, mask i hi, BitVec.getLsbD_shiftLeft, BitVec.getLsbD_ushiftRight]
    rcases Nat.lt_or_ge i 2 with low | high
    · simp [low]
    · simp [hi, high, Nat.not_lt.mpr high]
  have small := n.isLt
  rw [masked, BitVec.toNat_shiftLeft, BitVec.toNat_ushiftRight, Nat.shiftLeft_eq, Nat.shiftRight_eq_div_pow]
  omega

/-- The error code that names a selector (60_exceptions.md R820). -/
theorem selectorErrorCode_toNat (n : Word16) (ext : Bool) :
    (selectorErrorCode n ext).toNat = n.toNat / 4 * 4 + if ext = true then 1 else 0 := by
  have small := n.isLt
  have high : ((n &&& 0xFFFC#16).setWidth 32).toNat = n.toNat / 4 * 2 ^ 2 := by
    rw [BitVec.toNat_setWidth, selector_bits]
    omega
  exact toNat_or_of_shift 2 high (by cases ext <;> rfl) (by cases ext <;> decide)

end codes

section raw
variable (raw : Nat)

theorem descType_ofRaw : (descType (Desc.ofRaw raw)).toNat = raw / 2 ^ 40 % 16 := by
  rw [descType_toNat, Desc.ofRaw_hi]
  omega

theorem descDpl_ofRaw : (descDpl (Desc.ofRaw raw)).toNat = raw / 2 ^ 45 % 4 := by
  rw [descDpl_toNat, Desc.ofRaw_hi]
  omega

/-- A bit of the high doubleword of a descriptor, in the value of its eight bytes (21_segmentation.md R192). -/
theorem bit_ofRaw_hi {k : Nat} (hk : k < 32) : bit (Desc.ofRaw raw).hi k = raw.testBit (32 + k) := by
  rw [bit, Desc.ofRaw, BitVec.getLsbD_ofNat, Nat.testBit_div_two_pow, Nat.add_comm k 32]
  simp [hk]

theorem descP_ofRaw : descP (Desc.ofRaw raw) = raw.testBit 47 := bit_ofRaw_hi raw (by decide)

theorem descS_ofRaw : descS (Desc.ofRaw raw) = raw.testBit 44 := bit_ofRaw_hi raw (by decide)

/-- The gate types of an IDT entry, with the S flag above them (60_exceptions.md R782). -/
theorem isIdtGate_ofRaw : isIdtGate (Desc.ofRaw raw) = true ↔ raw / 2 ^ 40 % 32 ∈ [5, 6, 7, 14, 15] := by
  rw [isIdtGate, descS_ofRaw, descType_ofRaw, Nat.testBit_eq_decide_div_mod_eq]
  simp only [Bool.and_eq_true, Bool.not_eq_true', decide_eq_false_iff_not, decide_eq_true_eq, List.mem_cons, List.not_mem_nil,
    or_false]
  omega

theorem isInterruptGate_ofRaw : isInterruptGate (Desc.ofRaw raw) = true ↔ raw / 2 ^ 40 % 16 ∈ [6, 14] := by
  rw [isInterruptGate, descType_ofRaw, decide_eq_true_iff]

theorem gateSelector_ofRaw : (gateSelector (Desc.ofRaw raw)).toNat = raw / 2 ^ 16 % 2 ^ 16 := by
  rw [gateSelector, hi16, toNat_extractLsb'_eq_div, Desc.ofRaw_lo]
  omega

theorem gate32_iff (g : Desc) : gate32 g = true ↔ (descType g).toNat / 8 = 1 := by
  have types : ∀ type : BitVec 4, type.getLsbD 3 = true ↔ type.toNat / 8 = 1 := by decide
  exact types _

/-- The entry point of a gate: 16 bits, or 32 by bit 3 of its type (21_segmentation.md R210). -/
theorem gateOffset_ofRaw : (gateOffset (Desc.ofRaw raw)).toNat =
    raw % 2 ^ 16 + if raw / 2 ^ 43 % 2 = 1 then raw / 2 ^ 48 % 2 ^ 16 * 2 ^ 16 else 0 := by
  have wide : gate32 (Desc.ofRaw raw) = true ↔ raw / 2 ^ 43 % 2 = 1 := by
    rw [gate32_iff, descType_ofRaw]
    omega
  have low : (lo16 (Desc.ofRaw raw).lo).toNat = raw % 2 ^ 16 := by
    rw [lo16, toNat_extractLsb'_eq_div, Desc.ofRaw_lo]
    omega
  have high : (hi16 (Desc.ofRaw raw).hi).toNat = raw / 2 ^ 48 % 2 ^ 16 := by
    rw [hi16, toNat_extractLsb'_eq_div, Desc.ofRaw_hi]
    omega
  rw [gateOffset]
  simp only [wide]
  split
  · rw [toNat_append_eq_add, low, high, Nat.add_comm]
  · rw [BitVec.toNat_setWidth, low]
    omega

end raw

section idt
variable {vector : Byte} {soft rf : Bool} {raw : Nat} {g : Desc} {ret : Word32} {code : Option Word32} {s t u : State} {e : Err}

/-- The exception a gate of the IDT is refused with (60_exceptions.md R804, R821). -/
def idtRefusal (x : Exc) (vector : Byte) (soft : Bool) : Err :=
  .exn ⟨x, some (BitVec.ofNat 32 (vector.toNat * 8 + 2 + if soft then 0 else 1)), false⟩

/-- The checks of an IDT entry that was read, at the level in force (60_exceptions.md R782, R800, R804). -/
def admitGate (vector : Byte) (soft : Bool) (cpl : BitVec 2) (g : Desc) : M Desc :=
  if isIdtGate g = false then throw (idtRefusal .gp vector soft)
  else if soft = true ∧ (descDpl g).toNat < cpl.toNat then throw (idtRefusal .gp vector soft)
  else if descP g = false then throw (idtRefusal .np vector soft)
  else pure g

theorem admitGate_noGate {cpl : BitVec 2} (noGate : ¬isIdtGate g = true) :
    admitGate vector soft cpl g u = .error (idtRefusal .gp vector soft) u := by
  rw [admitGate, if_pos (Bool.eq_false_iff.mpr noGate)]
  rfl

section gate
variable {cpl : BitVec 2} (gate : isIdtGate g = true)
include gate

theorem admitGate_forbidden (forbidden : ¬(soft = true → cpl.toNat ≤ (descDpl g).toNat)) :
    admitGate vector soft cpl g u = .error (idtRefusal .gp vector soft) u := by
  rw [Classical.not_imp, Nat.not_le] at forbidden
  rw [admitGate, if_neg (ne_false_of_eq_true gate), if_pos forbidden]
  rfl

variable (admits : soft = true → cpl.toNat ≤ (descDpl g).toNat)
include admits

theorem admitGate_admitted : admitGate vector soft cpl g =
    if descP g = false then throw (idtRefusal .np vector soft) else pure g := by
  have allowed : ¬(soft = true ∧ (descDpl g).toNat < cpl.toNat) := fun ⟨event, inner⟩ => Nat.not_lt.mpr (admits event) inner
  rw [admitGate, if_neg (ne_false_of_eq_true gate), if_neg allowed]

theorem admitGate_absent (absent : descP g = false) :
    admitGate vector soft cpl g u = .error (idtRefusal .np vector soft) u := by
  rw [admitGate_admitted gate admits, if_pos absent]
  rfl

theorem admitGate_ok (present : descP g = true) : admitGate vector soft cpl g u = .ok g u := by
  rw [admitGate_admitted gate admits, if_neg (ne_false_of_eq_true present)]
  rfl

end gate

theorem readIdtGate_beyond (beyond : s.idtr.limit.toNat < vector.toNat * 8 + 7) :
    (s.params.idtOverrun = .gp → readIdtGate vector soft s = .error (idtRefusal .gp vector soft) s) ∧
    (s.params.idtOverrun = .shutdown → readIdtGate vector soft s = .error .shutdown s) := by
  rw [readIdtGate, run_get_bind, if_pos beyond, idtErrorCode_eq]
  exact ⟨fun policy => by rw [policy]; rfl, fun policy => by rw [policy]; rfl⟩

theorem readIdtGate_read (within : vector.toNat * 8 + 7 ≤ s.idtr.limit.toNat)
    (read : readEntry s.idtr.base vector.toNat s = .ok raw u) :
    readIdtGate vector soft s = admitGate vector soft s.cpl (Desc.ofRaw raw) u := by
  rw [readIdtGate, run_get_bind, if_neg (Nat.not_lt.mpr within), idtErrorCode_eq]
  refine (run_bind_ok read).trans ?_
  simp only [admitGate, Bool.not_eq_true', Bool.and_eq_true, decide_eq_true_eq]
  rfl

theorem deliver_gateError (mode : s.pe = true) (read : readIdtGate vector soft s = .error e u) :
    deliver vector soft ret code rf s = .error e u := by
  rw [deliver, run_get_bind]
  simp [mode, read]

/-- An event whose entry is an interrupt or trap gate does what the delivery through that gate does (60_exceptions.md R800). -/
theorem deliver_gate (mode : s.pe = true) (read : readIdtGate vector soft s = .ok g u) (noTask : descType g ≠ 5) :
    deliver vector soft ret code rf s = (do
      deliverGate g (!soft) ret (if rf then setBit s.eflags 16 true else s.eflags) code
      pure false : M Bool) u := by
  rw [deliver, run_get_bind, mode]
  refine (run_bind_ok read).trans ?_
  rw [if_neg noTask]

end idt

section through
variable {g cd : Desc} {ext : Bool} {ret img : Word32} {code : Option Word32} {s u : State} {e : Err}

theorem deliverGate_fetchError (stops : fetchCode (gateSelector g) ext s = .error e u) :
    deliverGate g ext ret img code s = .error e u := by
  rw [deliverGate, run_get_bind, run_bind_error stops]

section fetched
variable (fetched : fetchCode (gateSelector g) ext s = .ok cd u)
include fetched

/-- The code segment of a gate belongs to an inner level (60_exceptions.md R800). -/
theorem deliverGate_outer (outer : s.cpl.toNat < (descDpl cd).toNat) :
    deliverGate g ext ret img code s = .error (.exn ⟨.gp, some (selectorErrorCode (gateSelector g) ext), false⟩) u := by
  rw [deliverGate, run_get_bind, run_bind_ok fetched, if_pos outer]
  rfl

variable (level : (descDpl cd).toNat ≤ s.cpl.toNat)
include level

theorem deliverGate_absent (absent : descP cd = false) :
    deliverGate g ext ret img code s = .error (.exn ⟨.np, some (selectorErrorCode (gateSelector g) ext), false⟩) u := by
  rw [deliverGate, run_get_bind, run_bind_ok fetched, if_neg (Nat.not_lt.mpr level), absent]
  rfl

variable (present : descP cd = true)
include present

theorem deliverGate_v86_gate16 (vm : s.vm = true) (narrow : gate32 g = false) :
    deliverGate g ext ret img code s = .error (.refuse .gate16FromV86) u := by
  rw [deliverGate, run_get_bind, run_bind_ok fetched, if_neg (Nat.not_lt.mpr level), present, vm, narrow]
  rfl

theorem deliverGate_v86_level (vm : s.vm = true) (wide : gate32 g = true)
    (unsuited : conforming (descAttr cd) = true ∨ descDpl cd ≠ 0) :
    deliverGate g ext ret img code s = .error (.exn ⟨.gp, some (selectorErrorCode (gateSelector g) ext), false⟩) u := by
  have refused : (conforming (descAttr cd) || decide (descDpl cd ≠ 0)) = true := by simpa using unsuited
  rw [deliverGate, run_get_bind, run_bind_ok fetched, if_neg (Nat.not_lt.mpr level), present, vm, wide]
  simp only [refused]
  rfl

theorem deliverGate_same (vm : s.vm = false) (same : conforming (descAttr cd) = true ∨ descDpl cd = s.cpl) :
    deliverGate g ext ret img code s = deliverSameStack g cd ext (frameTail s img ret code) u := by
  have noSwitch : (!conforming (descAttr cd) && decide ((descDpl cd).toNat < s.cpl.toNat)) = false := by
    rcases same with conf | equal
    · rw [conf]; rfl
    · simp [equal]
  rw [deliverGate, run_get_bind, run_bind_ok fetched, if_neg (Nat.not_lt.mpr level), present, vm, noSwitch]
  rfl

end fetched

end through

section delivery
variable {g cd sd : Desc} {lvl : BitVec 2} {ext : Bool} {items : List Nat} {nss : Word16} {nesp : Word32} {raw k : Nat}
  {s u v : State} {e : Err}

theorem checkTarget_beyond {limit target : Word32} (beyond : limit.toNat < target.toNat) :
    checkTarget limit target ext s = .error (.exn ⟨.gp, some (selectorErrorCode 0 ext), false⟩) s := by
  rw [checkTarget, if_pos beyond]
  rfl

section same
theorem deliverSameStack_noRoom (full : ¬∀ off ∈ pushOffsets s.ss.attr.db s.sp (gateItem g) items.length,
    segOk s.protectedMode s.ss off (gateItem g) true = true) :
    deliverSameStack g cd ext items s = .error (.exn ⟨.ss, some (selectorErrorCode 0 ext), false⟩) s := by
  rw [← List.all_eq_true, Bool.not_eq_true] at full
  rw [deliverSameStack, run_get_bind]
  simp only [full]
  rfl

theorem deliverSameStack_beyond (room : ∀ off ∈ pushOffsets s.ss.attr.db s.sp (gateItem g) items.length,
    segOk s.protectedMode s.ss off (gateItem g) true = true) (beyond : (descLimit cd).toNat < (gateOffset g).toNat) :
    deliverSameStack g cd ext items s = .error (.exn ⟨.gp, some (selectorErrorCode 0 ext), false⟩) s := by
  rw [← List.all_eq_true] at room
  rw [deliverSameStack, run_get_bind]
  simp only [room]
  exact run_bind_error (checkTarget_beyond beyond)

end same

/-- The stack of a level read from the TSS: the pointer, of `size` bytes, at `place`, and the selector above it
(42_control_transfer.md R478). -/
def stackAt (size place : Nat) (ext : Bool) : M (Word16 × Word32) := do
  let s ← get
  if s.tr.limit.toNat < place + 2 * size - 1 then raiseSel .ts s.tr.sel ext
  else do
    let esp ← linRead (s.tr.base + BitVec.ofNat 32 place) size Acc.supRead
    let ss ← linRead (s.tr.base + BitVec.ofNat 32 (place + size)) 2 Acc.supRead
    pure (BitVec.ofNat 16 ss, BitVec.ofNat 32 esp)

theorem tssStack_noTask (none : s.tr.valid = false) :
    tssStack lvl ext s = .error (.exn ⟨.ts, some (selectorErrorCode 0 ext), false⟩) s := by
  rw [tssStack, run_get_bind, none]
  rfl

theorem tssStack_wide (task : s.tr.valid = true) (wide : s.tss32 = true) :
    tssStack lvl ext s = stackAt 4 (4 + 8 * lvl.toNat) ext s := by
  rw [tssStack, run_get_bind, task, wide]
  rfl

theorem tssStack_narrow (task : s.tr.valid = true) (narrow : s.tss32 = false) :
    tssStack lvl ext s = stackAt 2 (2 + 4 * lvl.toNat) ext s := by
  rw [tssStack, run_get_bind, task, narrow]
  rfl

section stackAt
variable {size place : Nat}

theorem stackAt_short (short : s.tr.limit.toNat < place + 2 * size - 1) :
    stackAt size place ext s = .error (.exn ⟨.ts, some (selectorErrorCode s.tr.sel ext), false⟩) s := by
  rw [stackAt, run_get_bind, if_pos short]
  rfl

variable (long : place + 2 * size - 1 ≤ s.tr.limit.toNat)
include long

theorem stackAt_pointerError (stops : linRead (s.tr.base + BitVec.ofNat 32 place) size Acc.supRead s = .error e u) :
    stackAt size place ext s = .error e u := by
  rw [stackAt, run_get_bind, if_neg (Nat.not_lt.mpr long), run_bind_error stops]

variable (pointer : linRead (s.tr.base + BitVec.ofNat 32 place) size Acc.supRead s = .ok raw u)
include pointer

theorem stackAt_selectorError (stops : linRead (s.tr.base + BitVec.ofNat 32 (place + size)) 2 Acc.supRead u = .error e v) :
    stackAt size place ext s = .error e v := by
  rw [stackAt, run_get_bind, if_neg (Nat.not_lt.mpr long), run_bind_ok pointer, run_bind_error stops]

theorem stackAt_ok (selector : linRead (s.tr.base + BitVec.ofNat 32 (place + size)) 2 Acc.supRead u = .ok k v) :
    stackAt size place ext s = .ok (BitVec.ofNat 16 k, BitVec.ofNat 32 raw) v := by
  rw [stackAt, run_get_bind, if_neg (Nat.not_lt.mpr long), run_bind_ok pointer, run_bind_ok selector]
  rfl

end stackAt

theorem deliverNewStack_stackError (stops : tssStack lvl ext s = .error e u) :
    deliverNewStack g cd lvl ext items s = .error e u := by
  rw [deliverNewStack, run_bind_error stops]

section newStack
variable (stack : tssStack lvl ext s = .ok (nss, nesp) u)
include stack

theorem deliverNewStack_segmentError (stops : checkSs nss lvl .ts ext u = .error e v) :
    deliverNewStack g cd lvl ext items s = .error e v := by
  rw [deliverNewStack, run_bind_ok stack]
  exact run_bind_error stops

variable (checked : checkSs nss lvl .ts ext u = .ok sd v)
include checked

theorem deliverNewStack_noRoom (full : roomFor (segFrom nss sd) nesp (gateItem g) items.length = false) :
    deliverNewStack g cd lvl ext items s = .error (.exn ⟨.ss, some (selectorErrorCode nss ext), false⟩) v := by
  rw [deliverNewStack, run_bind_ok stack]
  refine (run_bind_ok checked).trans ?_
  simp only [full]
  rfl

theorem deliverNewStack_beyond (room : roomFor (segFrom nss sd) nesp (gateItem g) items.length = true)
    (beyond : (descLimit cd).toNat < (gateOffset g).toNat) :
    deliverNewStack g cd lvl ext items s = .error (.exn ⟨.gp, some (selectorErrorCode 0 ext), false⟩) v := by
  rw [deliverNewStack, run_bind_ok stack]
  refine (run_bind_ok checked).trans ?_
  simp only [room]
  exact run_bind_error (checkTarget_beyond beyond)

end newStack

/-- Room on the stack of an inner level, by the attributes in its descriptor (60_exceptions.md R800). -/
theorem roomFor_segFrom (nss : Word16) (sd : Desc) (sp : Word32) (b n : Nat) : roomFor (segFrom nss sd) sp b n = true ↔
    ∀ off ∈ pushOffsets (descAttr sd).db (spOf (descAttr sd).db sp) b n, inLimit (segFrom nss sd) off b = true := by
  rw [roomFor_iff, segFrom, withAccessed_db]

end delivery

/-- Settles O40: the entry, the delivery through it, the code segment, and the stacks, each by its own checks in their order. -/
theorem gateDelivery : Obligations.GateDelivery := by
  intro vector soft ext rf lvl ret img nesp nss code items raw g cd sd er s t u v read idt named through csel
  refine ⟨readIdtGate_beyond, fun within => ?entry, fun mode => ⟨deliver_gateError mode, fun found noTask out hout => ?event⟩,
    fun null => deliverGate_fetchError (fetchCode_null null), fun notNull => ?code, fun room hroom => ?sameStack,
    fun n => selectorErrorCode_toNat n ext, fun wide hwide size place wides narrows => ?tss, deliverNewStack_stackError,
    fun stack => ⟨deliverNewStack_segmentError stack, fun checked room hroom => ?newStack⟩⟩
  case entry =>
    rintro _ rfl
    refine ⟨fun stops => readIdtGate_error within stops soft, fun entry => ?_⟩
    have checks : read = admitGate vector soft s.cpl (Desc.ofRaw raw) u := readIdtGate_read within entry
    rw [checks, ← isIdtGate_ofRaw, ← descDpl_ofRaw, ← descP_ofRaw]
    exact ⟨admitGate_noGate, admitGate_forbidden, admitGate_absent, fun gate admits present =>
      ⟨Desc.ofRaw raw, admitGate_ok gate admits present, descType_ofRaw raw, gateSelector_ofRaw raw, isInterruptGate_ofRaw raw,
        gateOffset_ofRaw raw⟩⟩
  case event =>
    rw [hout, deliver_gate mode found noTask]
    exact ⟨run_bind_ok, run_bind_error⟩
  case code =>
    refine ⟨fun stops => deliverGate_fetchError (fetchCode_error notNull stops),
      fun none => deliverGate_fetchError (fetchCode_none notNull none), fun found => ⟨?refused, fun isCode level => ?admitted⟩⟩
    case refused =>
      cases kind : isCode (descAttr cd) with
      | false => exact fun _ => deliverGate_fetchError (fetchCode_noCode notNull found kind)
      | true => exact fun outer => deliverGate_outer (fetchCode_code notNull found kind) (outer.resolve_left (by decide))
    case admitted =>
      have fetched := fetchCode_code (ext := ext) notNull found isCode
      refine ⟨deliverGate_absent fetched level, deliverGate_v86_gate16 fetched level, deliverGate_v86_level fetched level,
        fun present vm same => ?_⟩
      rw [← frameTail_eq]
      exact deliverGate_same fetched level present vm same
  case sameStack =>
    exact ⟨fun full => deliverSameStack_noRoom (mt hroom.mpr full), fun fits => deliverSameStack_beyond (hroom.mp fits)⟩
  case tss =>
    have places (task : s.tr.valid = true) : tssStack lvl ext s = stackAt size place ext s := by
      cases kind : s.tss32 with
      | true =>
        obtain ⟨rfl, rfl⟩ := wides (hwide.mpr ((tss32_iff s).mp kind))
        exact tssStack_wide task kind
      | false =>
        obtain ⟨rfl, rfl⟩ := narrows (hwide.not.mpr ((tss32_iff s).not.mp (ne_true_of_eq_false kind)))
        exact tssStack_narrow task kind
    exact ⟨tssStack_noTask, fun task short => (places task).trans (stackAt_short short), fun task long =>
      ⟨fun stops => (places task).trans (stackAt_pointerError long stops), fun pointer =>
        ⟨fun stops => (places task).trans (stackAt_selectorError long pointer stops), fun k selector =>
          (places task).trans (stackAt_ok long pointer selector)⟩⟩⟩
  case newStack =>
    rw [← roomFor_segFrom] at hroom
    exact ⟨fun full => deliverNewStack_noRoom stack checked (Bool.eq_false_iff.mpr (mt hroom.mpr full)),
      fun fits => deliverNewStack_beyond stack checked (hroom.mp fits)⟩

end Sys2Proof.Machine
end
